-- ==== Sys2Proof/Word.lean ====
section
/-! DEFINITION. The two word types of the model: a byte, and the 64-bit word of control words, registers and addresses (R7, R8). -/

namespace Sys2Proof

/-- One byte of the range, of a record or of the scratchpad. -/
abbrev Byte := BitVec 8

/-- A control word, a scalar register, a global address, or a 64-bit field. -/
abbrev Word := BitVec 64

end Sys2Proof
end

