-- ==== Sys2Proof/Syntax.lean ====
section
/-! DEFINITION. The commands of the YM9: one constructor of `Instr` for each row of spec/opcode_table.json, with the operands the rules give each step (the table itself lists no operands). Operands are what comes from outside the device: a record's bytes, a pin, a reading, the outcome of a medium or of another node. -/

namespace Sys2Proof

/-- A near-memory, transaction or coherence request record as it was delivered (Table 5.1): the sending node, whether its frame was routed (R125) and carried ORD 1 (R142), and the record's header fields and payload bytes. The opcode is the constructor's. -/
structure TxnReq where
  node : Nat
  routed : Bool := false
  ord : Bool := false
  /-- LEN, byte 1, in the units of R114. -/
  len : Nat
  /-- RQ_FLAGS, byte 2: [7] RESP, [6] STRICT, [5] reserved, [4:0] PART. -/
  flags : BitVec 8
  /-- PARAM, byte 3. -/
  param : BitVec 8
  /-- TAG, bytes 4-7. -/
  tag : Nat
  /-- ADDR, the global address. -/
  addr : Word
  /-- The bytes after the 16-byte header, padding included. -/
  payload : List Byte := []
  deriving DecidableEq, Repr

/-- A Felset command record (Table 13.1) with the node that sent it and the MGMT flag of its frame (R350). FOP is the constructor's. -/
structure FsCmd where
  node : Nat
  mgmt : Bool := true
  len : Nat
  fflags : BitVec 8 := 0
  res3 : BitVec 8 := 0
  cseq : BitVec 32
  plen : Nat
  fsid : BitVec 32
  tag : List Byte
  params : List Byte
  deriving DecidableEq, Repr

/-- One DDR5 channel at start-up (R481): capacity in GiB (0 for an empty channel), whether the DIMM is of the kind R481 asks for, and its SPD maximum in MT/s. -/
structure Dimm where
  gib : Nat := 0
  kindOk : Bool := true
  mts : Nat := 6400
  deriving DecidableEq, Repr

/-- A NAND target's parameter page (R89), as read at start-up, and the bad and system blocks that its records name (R62, R90, R99). -/
structure NandTarget where
  pageKiB : Nat := 16
  spareB : Nat := 1856
  pagesPerBlock : Nat := 1024
  blocks : Nat := 0
  planes : Nat := 4
  tRus : Nat := 60
  bad : List Nat := []
  system : List Nat := []
  deriving DecidableEq, Repr

/-- What the board and the media show the device while a start-up runs (R456, R457, R481, R483): the reference clocks, the DIMMs of channels 0-7, the NAND targets of channels 0-15, the islands that do not reach Running by the bound of their step (R48), whether the NOR can be read (R459), and which half asks the arbiter first (R420). -/
structure Board where
  refSdWest : Bool := true
  refSdEast : Bool := true
  refMg : Bool := true
  dimms : List Dimm := []
  nand : List (List NandTarget) := []
  failedIslands : List Nat := []
  norReadable : Bool := true
  eastFirst : Bool := false
  deriving DecidableEq, Repr

/-- The rail and junction readings of one 100 µs sample (R466, R474): the current of each of the 13 rails in mA, in the order of Table 18.4, none for a read not answered within 10 µs; the sense voltage of each core rail in mV; and the hottest junction of each quarter in °C. -/
structure RailReadings where
  currents : List (Option Nat)
  senseMv : List Nat
  temps : List Int
  deriving DecidableEq, Repr

/-- The three causes of a demotion (R75). -/
inductive DemoteCause where
  | t1 (bay : Nat)
  | t2
  | quota (part tier : Nat)
  deriving DecidableEq, Repr

/-- A NAND read that completes (R93): the page and codec block it reads for, the read-retry levels used (5 for a failure at the last one), and what the NAND returned: the image's header and the units that hold the block's data, encrypted as they are stored. -/
structure NandRead where
  page : Nat
  block : Nat
  retries : Nat
  header : List Byte
  data : List Byte
  deriving DecidableEq, Repr

/-- Symbols in error of a line as its code finds them (R426, R427): those of one device or byte lane `dev`, and those of the others. -/
structure SymErr where
  dev : Nat := 0
  devSyms : Nat := 0
  other : Nat := 0
  deriving DecidableEq, Repr

/-- A secure channel of a pair and the end of it that acts: `chan` is plane + 2 × routed (Table 4.7). -/
structure SaEnd where
  chan : Nat
  receiver : Bool
  deriving DecidableEq, Repr

/-- The rest of a response to one of the YM9's own requests (Table 5.2): its opcode, LOAD_LEVEL, INTERIM and data. -/
structure OwnAnswer where
  op : Nat
  level : Nat := 0
  interim : Bool := false
  data : List Byte := []
  deriving DecidableEq, Repr

/-- A record in a received frame: its opcode, its length byte, its RESP bit, its TAG, and of a record that names no command the rest of its first 16 bytes; of a Felset record of an unassigned FOP, the FOP and the record. -/
structure RxRec where
  opcode : Nat
  len : Nat
  resp : Bool := false
  tag : Nat := 0
  flags : Nat := 0
  addr : Nat := 0
  fs : Option (Nat × FsCmd) := none
  deriving DecidableEq, Repr

/-- An IEEE 802.1Q tag: TPID, PCP and VID. -/
structure VlanTag where
  tpid : Nat := 0x8100
  pcp : Nat := 0
  vid : Nat
  deriving DecidableEq, Repr

/-- The IPv6 and UDP fields of a routed packet that the receiver looks at (R123, R125): source address, next header, whether it is a fragment, UDP destination port and whether the UDP checksum holds. -/
structure RxRoute where
  srcIp : Nat
  next : Nat := 17
  fragment : Bool := false
  port : Nat := 50357
  sumOk : Bool := true
  deriving DecidableEq, Repr

/-- A received frame (R114, R123, R487): the link it came on, its octets from destination address to FCS, source MAC address, tag, EtherType, routing, the association number, packet number and integrity verdict of its protection, its KT header and the records it holds. -/
structure RxFrame where
  link : Nat
  octets : Nat
  srcMac : Nat := 0
  tag : Option VlanTag
  etype : Nat := 0x88B5
  route : Option RxRoute := none
  icvOk : Bool := true
  an : Nat := 0
  pn : Nat
  mgmt : Bool := false
  seqd : Bool
  ord : Bool := false
  length : Nat
  srcNode : Nat
  dstNode : Nat
  seq : BitVec 32
  ack : BitVec 32
  session : BitVec 32
  recCount : Nat
  rwnd : Nat
  recs : List RxRec
  deriving DecidableEq, Repr

/-- An ACK record with its frame's cumulative ACK and window (Tables 4.8 and 4.9). -/
structure AckRec where
  node : Nat
  ack : BitVec 32
  rwnd : Nat
  delayNs : Nat
  sacks : List (BitVec 32 × BitVec 32)
  deriving DecidableEq, Repr

/-- A SESSION_OPEN or SESSION_ACCEPT record (Table 14.10) with its frame's facts. The certificate is given by its fields; the RSA checks of R394 are the uninterpreted functions of `Config`. -/
structure SessRec where
  node : Nat
  plane : Nat
  routed : Bool := false
  rwnd : Nat
  seq0 : BitVec 32
  session : BitVec 32 := 0
  nonce : List Byte
  certNode : Nat
  certIsYm9 : Bool := false
  signer : List Byte
  modulus : List Byte
  certSig : List Byte
  ehalf : List Byte
  sig : List Byte
  deriving DecidableEq, Repr

/-- An agent's response to SNP_INV or SNP_DOWN (Table 6.2): VALUE bit 0 DIRTY, bit 1 HAD_COPY, bit 2 POISON. -/
structure SnpResp where
  node : Nat
  tag : Nat
  dirty : Bool
  hadCopy : Bool
  poison : Bool := false
  data : List Byte := []
  deriving DecidableEq, Repr

/-- The read-back of a scrub (R381, R383): the pages that mismatched and the channel concerned. -/
structure ScrubVerdict where
  badPages : List Nat := []
  channel : Nat := 0
  deriving DecidableEq, Repr

/-- The event kinds of Table 16.5. -/
inductive EvKind where
  | leatReplay | leatFailure | sramReread | sramFailure
  | t1Corrected | t1Uncorrectable | t2Corrected | t2Uncorrectable
  | nandRetry | fecSymbols | fecCodewords | lockLoss | slowBay
  deriving DecidableEq, Repr

/-- A Leat word that fails parity (R423): the unit kind and index, how many of the checks failed (1 to 4), and what the word carries: a line number of line data, or, of anything else, the item it belongs to: a stream, or an admitted request by its node and TAG. -/
structure LeatError where
  kind : Nat
  unit : Nat
  failures : Nat
  line : Option Nat
  stream : Option Nat := none
  req : Option (Nat × Nat) := none
  deriving DecidableEq, Repr

/-- The on-die arrays of Table 16.1. -/
inductive SramArray where
  | scratchpad | lineCache | combining | directory | pageMapCache | ktRetransmit | ktReceive
  | hoistRow | hoistMerge | bolterState | rebuildBuffer | novva
  deriving DecidableEq, Repr

/-- A word of an on-die array that fails parity (R424): the array, its unit kind and index, how many of the four reads failed, and what the word belongs to: `item` is a stream (scratchpad), a line (line cache, combining buffer, directory), a page-map line, a node (KT buffers, Bolter search state), the offset of a row (Hoist row buffer) or of a table's descriptor (Hoist merge buffer); `key` is the word's offset in the bay's scratchpad, the TAG of a search, or the merge buffer's row (2 × row, plus 1 for the partner's). -/
structure SramError where
  array : SramArray
  kind : Nat
  unit : Nat
  failures : Nat
  item : Nat
  key : Nat := 0
  deriving DecidableEq, Repr

/-- A new instruction at the test access port, or its reset by TRST_N (R479, R480). -/
inductive TapUpdate where
  | bypass | idcode | samplePreload
  | extest | extestPulse | extestTrain | clamp | highz
  | other (code : Nat)
  | trst
  deriving DecidableEq, Repr

/-- The commands of the block, one for each row of spec/opcode_table.json. -/
inductive Instr where
  /-- POWER_GOOD_RISE (R454). -/
  | powerGoodRise (b : Board)
  /-- POWER_GOOD_FALL (R478). -/
  | powerGoodFall
  /-- RESET_N_RISE (R477). -/
  | resetNRise (lowNs : Nat) (b : Board)
  /-- RESET_N_FALL (R477). -/
  | resetNFall
  /-- ENTER_SERVICE (R458). -/
  | enterService
  /-- START_HALT (R459). -/
  | startHalt
  /-- THERMAL_TRIP (R469). -/
  | thermalTrip
  /-- PLL_LOCK_LOSS (R47). -/
  | pllLockLoss (i : Nat)
  /-- ISLAND_RELOCK (R47). -/
  | islandRelock (i : Nat) (ok : Bool)
  /-- ISLAND_LOCK_TIMEOUT (R48). -/
  | islandLockTimeout (i : Nat)
  /-- RATE_STEP_PAUSE_END (R46). -/
  | rateStepPauseEnd (i : Nat)
  /-- BAY_BEAT_WINDOW (R39). -/
  | bayBeatWindow (b rate beats : Nat)
  /-- TIMESTAMP_COMPARE (R50). -/
  | timestampCompare (drift : Int)
  /-- RAIL_SET_WRITE (R41). -/
  | railSetWrite (c : FsCmd)
  /-- POWER_SAMPLE (R466). -/
  | powerSample (r : RailReadings)
  /-- AVS_READ_TIMEOUT (R474). -/
  | avsReadTimeout (rail sinceNs : Nat)
  /-- DECAY_EPOCH (R71). -/
  | decayEpoch
  /-- HEAT_SWEEP (R72). -/
  | heatSweep
  /-- SLUICE_MOVE_START (R80). -/
  | sluiceMoveStart (q : Nat)
  /-- SLUICE_DEMOTE_TRIGGER (R75). -/
  | sluiceDemoteTrigger (t : DemoteCause)
  /-- MOVE_SWITCH (R76). -/
  | moveSwitch (page : Nat)
  /-- PAGE_MAP_LINE_FILL (R64). -/
  | pageMapLineFill (group : Nat) (uncorrectable : Bool)
  /-- T3_READ_DONE (R93). -/
  | t3ReadDone (r : NandRead)
  /-- MILLPOND_GC_START (R94). -/
  | millpondGcStart (q : Nat)
  /-- MILLPOND_BLOCK_ERASE (R94). -/
  | millpondBlockErase (q blk : Nat)
  /-- MILLPOND_PROGRAM_DONE (R96). -/
  | millpondProgramDone (q blk : Nat) (ok : Bool)
  /-- MILLPOND_SCAN_DONE (R99). -/
  | millpondScanDone (q : Nat)
  /-- KT_FRAME_RX (R487). -/
  | ktFrameRx (f : RxFrame)
  /-- ACK (R117). -/
  | ack (a : AckRec)
  /-- NACK (R120). -/
  | nack (node ack nextHeld : Nat)
  /-- PROBE (R121). -/
  | probe (node plane : Nat) (token : BitVec 32) (txTs : Word)
  /-- PROBE_REPLY (R121). -/
  | probeReply (node plane : Nat) (token : BitVec 32) (txTs : Word)
  /-- ACK_TIMER (R119). -/
  | ackTimer (node : Nat)
  /-- RTO_EXPIRY (R120). -/
  | rtoExpiry (node : Nat)
  /-- PROBE_TIMER (R121). -/
  | probeTimer (node : Nat)
  /-- LINK_DOWN (R104). -/
  | linkDown (link : Nat)
  /-- LINK_REFORM_DONE (R103). -/
  | linkReformDone (link : Nat) (ok : Bool)
  /-- PORT_MODE_WRITE (R100). -/
  | portModeWrite (c : FsCmd)
  /-- SESSION_OPEN (R112). -/
  | sessionOpen (r : SessRec)
  /-- SESSION_OPEN_DONE (R112). -/
  | sessionOpenDone (node : Nat)
  /-- SESSION_ACCEPT (R394). -/
  | sessionAccept (r : SessRec)
  /-- SESSION_OPEN_RESEND (R488). -/
  | sessionOpenResend (node : Nat)
  /-- SESSION_CLOSE (R488). -/
  | sessionClose (node reason : Nat)
  /-- SESSION_IDLE_CLOSE (R112). -/
  | sessionIdleClose (node : Nat)
  /-- CACHER_FLUSH_TIMEOUT (R187). -/
  | cacherFlushTimeout (node : Nat)
  /-- SA_REKEY (R109). -/
  | saRekey (node : Nat) (sc : SaEnd)
  /-- LOAD (R140). -/
  | load (c : TxnReq) (syms : SymErr)
  /-- LOAD_LINES (R140). -/
  | loadLines (c : TxnReq)
  /-- STORE (R140). -/
  | store (c : TxnReq)
  /-- STORE_MASKED (R140). -/
  | storeMasked (c : TxnReq)
  /-- STORE_LINES (R140). -/
  | storeLines (c : TxnReq)
  /-- STORE_FLAG (R143). -/
  | storeFlag (c : TxnReq)
  /-- ATOMIC_ADD (R150). -/
  | atomicAdd (c : TxnReq)
  /-- ATOMIC_FADD (R131). -/
  | atomicFadd (c : TxnReq)
  /-- ATOMIC_AND (R150). -/
  | atomicAnd (c : TxnReq)
  /-- ATOMIC_OR (R150). -/
  | atomicOr (c : TxnReq)
  /-- ATOMIC_XOR (R150). -/
  | atomicXor (c : TxnReq)
  /-- ATOMIC_SMIN (R150). -/
  | atomicSmin (c : TxnReq)
  /-- ATOMIC_SMAX (R150). -/
  | atomicSmax (c : TxnReq)
  /-- ATOMIC_UMIN (R150). -/
  | atomicUmin (c : TxnReq)
  /-- ATOMIC_UMAX (R150). -/
  | atomicUmax (c : TxnReq)
  /-- ATOMIC_SWAP (R152). -/
  | atomicSwap (c : TxnReq)
  /-- ATOMIC_CAS (R131). -/
  | atomicCas (c : TxnReq)
  /-- PUBLISH (R155). -/
  | publish (c : TxnReq)
  /-- MSG_APPEND (R157). -/
  | msgAppend (c : TxnReq)
  /-- MSG_TAKE (R157). -/
  | msgTake (c : TxnReq)
  /-- COMBINE_DRAIN_TIMER (R151). -/
  | combineDrainTimer (line : Nat)
  /-- HOME_DEADLINE (R161). -/
  | homeDeadline (node tag : Nat)
  /-- REQUEST_DEADLINE (R160). -/
  | requestDeadline (node tag : Nat)
  /-- RETRY_BACKOFF (R138). -/
  | retryBackoff (node tag : Nat)
  /-- WEIR_WINDOW (R137). -/
  | weirWindow (busyA capA busyB capB : Nat)
  /-- RD_SHARED (R177). -/
  | rdShared (c : TxnReq)
  /-- RD_OWN (R177). -/
  | rdOwn (c : TxnReq)
  /-- UPGRADE (R177). -/
  | upgrade (c : TxnReq)
  /-- WB_DIRTY (R179). -/
  | wbDirty (c : TxnReq)
  /-- EVICT_CLEAN (R177). -/
  | evictClean (c : TxnReq)
  /-- GRANT_ACK (R178). -/
  | grantAck (c : TxnReq)
  /-- SNP_INV_RESPONSE (R177). -/
  | snpInvResponse (r : SnpResp)
  /-- SNP_DOWN_RESPONSE (R177). -/
  | snpDownResponse (r : SnpResp)
  /-- SNP_FLUSH_BAY_RESPONSE (R189). -/
  | snpFlushBayResponse (node tag : Nat)
  /-- RACE_INV_RETURN (R181). -/
  | raceInvReturn (line : Nat)
  /-- SNOOP_LIMIT_EXPIRY (R185). -/
  | snoopLimitExpiry (line : Nat)
  /-- SLICE_FLUSH_TIMEOUT (R189). -/
  | sliceFlushTimeout (bay : Nat)
  /-- RUN_STREAM (R228). -/
  | runStream (c : FsCmd)
  /-- ABORT_STREAM (R252). -/
  | abortStream (c : FsCmd)
  /-- QUERY_STREAM (R227). -/
  | queryStream (c : FsCmd)
  /-- STREAM_SCHEDULE (R247). -/
  | streamSchedule
  /-- SLICE_US_EXPIRY (R247). -/
  | sliceUsExpiry
  /-- OPERATION_BOUNDARY (R248). -/
  | operationBoundary
  /-- MAX_MS_EXPIRY (R249). -/
  | maxMsExpiry
  /-- STREAM_WORD_FETCH (R232). -/
  | streamWordFetch (idx : Nat)
  /-- NOP (R231). -/
  | nop
  /-- HALT (R251). -/
  | halt
  /-- LI (R233). -/
  | li
  /-- ALU (R233). -/
  | alu
  /-- BR (R238). -/
  | br
  /-- LOOP (R238). -/
  | loop
  /-- LD (R239). -/
  | ld
  /-- ST (R239). -/
  | st
  /-- WAIT_ALL (R235). -/
  | waitAll
  /-- WAIT_MULTI (R259). -/
  | waitMulti
  /-- TOKEN_SET (R259). -/
  | tokenSet
  /-- NOTIFY_WORD (R254). -/
  | notifyWord
  /-- CALL (R240). -/
  | call
  /-- MM (R241). -/
  | mm
  /-- VEC_ADD (R244). -/
  | vecAdd
  /-- VEC_SUB (R244). -/
  | vecSub
  /-- VEC_MUL (R244). -/
  | vecMul
  /-- VEC_FMA (R244). -/
  | vecFma
  /-- VEC_MIN (R244). -/
  | vecMin
  /-- VEC_MAX (R244). -/
  | vecMax
  /-- VEC_CMP (R244). -/
  | vecCmp
  /-- VEC_SEL (R244). -/
  | vecSel
  /-- VEC_DIV (R244). -/
  | vecDiv
  /-- VEC_SQRT (R244). -/
  | vecSqrt
  /-- VEC_FUNC1 (R244). -/
  | vecFunc1
  /-- VEC_CVT (R244). -/
  | vecCvt
  /-- VEC_CVT_BS (R221). -/
  | vecCvtBs
  /-- VEC_RED_ROW (R244). -/
  | vecRedRow
  /-- VEC_RED_ALL (R222). -/
  | vecRedAll
  /-- COPY_IN (R245). -/
  | copyIn
  /-- COPY_OUT (R245). -/
  | copyOut
  /-- COPY_BAY (R245). -/
  | copyBay
  /-- MM_COMPLETE (R234). -/
  | mmComplete
  /-- VECTOR_COMPLETE (R234). -/
  | vectorComplete
  /-- DMA_COPY_COMPLETE (R246). -/
  | dmaCopyComplete (sid num : Nat)
  /-- LD_COMPLETE (R239). -/
  | ldComplete (sid num : Nat)
  /-- ST_COMPLETE (R239). -/
  | stComplete (sid num : Nat)
  /-- CALL_COMPLETE (R240). -/
  | callComplete (sid num : Nat)
  /-- FILL (R274). -/
  | fill (c : TxnReq)
  /-- COPY (R274). -/
  | copy (c : TxnReq)
  /-- COMPARE (R274). -/
  | compare (c : TxnReq)
  /-- REDUCE (R277). -/
  | reduce (c : TxnReq)
  /-- DIGEST (R279). -/
  | digest (c : TxnReq)
  /-- EC_ENCODE (R288). -/
  | ecEncode (c : TxnReq)
  /-- EC_COMBINE (R289). -/
  | ecCombine (c : TxnReq)
  /-- QN_PORTION_DONE (R275). -/
  | qnPortionDone (inv portion : Nat)
  /-- QN_CONTRIB (R282). -/
  | qnContrib (c : TxnReq)
  /-- QN_GROUP_OPEN (R281). -/
  | qnGroupOpen (c : TxnReq)
  /-- QN_GROUP_DONE (R283). -/
  | qnGroupDone (c : TxnReq)
  /-- QN_GROUP_ABANDON (R285). -/
  | qnGroupAbandon (c : TxnReq)
  /-- QN_ECDELTA (R289). -/
  | qnEcdelta (c : TxnReq)
  /-- HS_LOOKUP (R300). -/
  | hsLookup (c : TxnReq)
  /-- HS_GRAD (R312). -/
  | hsGrad (c : TxnReq)
  /-- HS_ROWGRAD (R312). -/
  | hsRowgrad (c : TxnReq)
  /-- HS_STEP_OPEN (R315). -/
  | hsStepOpen (c : TxnReq)
  /-- HS_STEP_DONE (R317). -/
  | hsStepDone (c : TxnReq)
  /-- HS_STEP_CLOSE_DONE (R317). -/
  | hsStepCloseDone (table : Nat)
  /-- HS_STEP_ABANDON (R318). -/
  | hsStepAbandon (c : TxnReq)
  /-- HS_STEP_END (R318). -/
  | hsStepEnd (c : TxnReq)
  /-- HOT_REFRESH (R311). -/
  | hotRefresh (slot : Nat)
  /-- BL_SEARCH (R333). -/
  | blSearch (c : TxnReq)
  /-- BL_TIME_CUT (R335). -/
  | blTimeCut (node tag : Nat)
  /-- BL_INSERT (R339). -/
  | blInsert (c : TxnReq)
  /-- BL_DELETE (R340). -/
  | blDelete (c : TxnReq)
  /-- BL_MERGE (R342). -/
  | blMerge (c : TxnReq)
  /-- FS_HELLO (R354). -/
  | fsHello (c : FsCmd)
  /-- FS_OPEN (R354). -/
  | fsOpen (c : FsCmd)
  /-- FS_CLOSE (R357). -/
  | fsClose (c : FsCmd)
  /-- FS_IDLE_EXPIRY (R357). -/
  | fsIdleExpiry (fsid : Nat)
  /-- IDENTITY (R390). -/
  | identity (c : FsCmd)
  /-- ATTEST (R396). -/
  | attest (c : FsCmd)
  /-- AUDIT_READ (R368). -/
  | auditRead (c : FsCmd)
  /-- AUDIT_HEAD (R369). -/
  | auditHead (c : FsCmd)
  /-- AUDIT_ACK (R369). -/
  | auditAck (c : FsCmd)
  /-- AUDIT_ERASE_DONE (R369). -/
  | auditEraseDone
  /-- CW_READ (R361). -/
  | cwRead (c : FsCmd)
  /-- CW_WRITE (R361). -/
  | cwWrite (c : FsCmd)
  /-- CW_WRITE_MULTI (R361). -/
  | cwWriteMulti (c : FsCmd)
  /-- SCRATCH_WIN_WRITE (R197). -/
  | scratchWinWrite (c : FsCmd)
  /-- SHARE_WRITE (R250). -/
  | shareWrite (c : FsCmd)
  /-- ORDER_MODE_WRITE (R266). -/
  | orderModeWrite (c : FsCmd)
  /-- PEER_REACH_WRITE (R404). -/
  | peerReachWrite (c : FsCmd)
  /-- SET_SLOT_WRITE (R408). -/
  | setSlotWrite (c : FsCmd)
  /-- HANDOVER (R420). -/
  | handover (c : FsCmd)
  /-- PART_ENABLE (R373). -/
  | partEnable (c : FsCmd)
  /-- PART_DISABLE (R374). -/
  | partDisable (c : FsCmd)
  /-- PART_DISABLE_FINISH (R374). -/
  | partDisableFinish (part : Nat)
  /-- EXT_ASSIGN (R375). -/
  | extAssign (c : FsCmd)
  /-- EXT_RELEASE (R377). -/
  | extRelease (c : FsCmd)
  /-- EXT_GRANT (R376). -/
  | extGrant (c : FsCmd)
  /-- EXT_REVOKE (R379). -/
  | extRevoke (c : FsCmd)
  /-- GRANT_DRAIN_DONE (R379). -/
  | grantDrainDone (node ext : Nat)
  /-- REVOKE_DRAIN_DONE (R378). -/
  | revokeDrainDone (ext : Nat)
  /-- SCRUB_START (R381). -/
  | scrubStart
  /-- SCRUB_DONE (R383). -/
  | scrubDone (ext : Nat) (v : ScrubVerdict)
  /-- EXT_QUERY (R364). -/
  | extQuery (c : FsCmd)
  /-- PART_QUERY (R364). -/
  | partQuery (c : FsCmd)
  /-- QUOTA_SET (R87). -/
  | quotaSet (c : FsCmd)
  /-- PAGE_PIN (R364). -/
  | pagePin (c : FsCmd)
  /-- PAGE_QUERY (R364). -/
  | pageQuery (c : FsCmd)
  /-- TIER_USAGE (R364). -/
  | tierUsage (c : FsCmd)
  /-- QN_GROUP_QUERY (R364). -/
  | qnGroupQuery (c : FsCmd)
  /-- QN_ABANDON_ALL (R364). -/
  | qnAbandonAll (c : FsCmd)
  /-- HS_STEP_QUERY (R364). -/
  | hsStepQuery (c : FsCmd)
  /-- HS_STEP_RELEASE (R364). -/
  | hsStepRelease (c : FsCmd)
  /-- HS_HOT_REFRESH (R364). -/
  | hsHotRefresh (c : FsCmd)
  /-- BL_INDEX_QUERY (R364). -/
  | blIndexQuery (c : FsCmd)
  /-- BL_MERGE_STOP (R364). -/
  | blMergeStop (c : FsCmd)
  /-- SET_DEFINE (R409). -/
  | setDefine (c : FsCmd)
  /-- SET_QUERY (R364). -/
  | setQuery (c : FsCmd)
  /-- SET_REBUILD (R417). -/
  | setRebuild (c : FsCmd)
  /-- REBUILD_BATCH (R417); `syms` are the symbols in error of the first line that the YM9 reads of its own unit. -/
  | rebuildBatch (slot : Nat) (syms : SymErr)
  /-- SET_FORWARD_RESPONSE (R411). -/
  | setForwardResponse (node tag status : Nat) (a : OwnAnswer)
  /-- LIVENESS_QUERY (R364). -/
  | livenessQuery (c : FsCmd)
  /-- LIVE_BOUND_EXPIRY (R405). -/
  | liveBoundExpiry (node : Nat)
  /-- HEALTH_QUERY (R439). -/
  | healthQuery (c : FsCmd)
  /-- HEALTH_LOG_READ (R434). -/
  | healthLogRead (c : FsCmd)
  /-- RETIRE (R440). -/
  | retire (c : FsCmd)
  /-- FI_INJECT (R450). -/
  | fiInject (c : FsCmd)
  /-- FI_FAULT_TICK (R450). -/
  | fiFaultTick (inj : Nat)
  /-- FI_STOP (R450). -/
  | fiStop (c : FsCmd)
  /-- FURL (R460). -/
  | furl (c : FsCmd)
  /-- FURL_ENTRY_STEP (R460). -/
  | furlEntryStep
  /-- WAKE (R462). -/
  | wake (c : FsCmd) (arrivedNs : Nat)
  /-- WAKE_ADMISSION_OPEN (R464). -/
  | wakeAdmissionOpen
  /-- IMG_STAGE (R397). -/
  | imgStage (c : FsCmd)
  /-- IMG_WRITE (R399). -/
  | imgWrite (c : FsCmd)
  /-- IMG_VERIFY_DONE (R398). -/
  | imgVerifyDone (slot : Nat)
  /-- IMG_QUERY (R364). -/
  | imgQuery (c : FsCmd)
  /-- IMG_ACTIVATE (R364). -/
  | imgActivate (c : FsCmd)
  /-- FW_FLOOR_BLOW (R400). -/
  | fwFloorBlow
  /-- STRAP_COMMIT (R11). -/
  | strapCommit (c : FsCmd)
  /-- KEY_ENROLL (R365). -/
  | keyEnroll (c : FsCmd)
  /-- KEY_REVOKE (R364). -/
  | keyRevoke (c : FsCmd)
  /-- RESTART_POWER_UP (R455). -/
  | restartPowerUp (c : FsCmd) (b : Board)
  /-- RESTART_DEVICE (R455). -/
  | restartDevice (c : FsCmd) (b : Board)
  /-- MK_SCREEN (R364). -/
  | mkScreen (c : FsCmd)
  /-- MK_FUSE_READ (R364). -/
  | mkFuseRead (c : FsCmd)
  /-- MK_RETURN (R369). -/
  | mkReturn (c : FsCmd)
  /-- GOV_WINDOW_CLOSE (R436). `unit` is the unit's kind × 65,536 + its index; `reading` is what the FEC of a lane counted over the window, for the two FEC kinds of event, and 0 for the others. -/
  | govWindowClose (k : EvKind) (unit reading : Nat)
  /-- SLOW_BAY_WINDOW (R444). -/
  | slowBayWindow
  /-- BAY_MAP_OUT (R445). -/
  | bayMapOut
  /-- LEAT_PARITY_ERROR (R423). -/
  | leatParityError (e : LeatError)
  /-- SRAM_PARITY_ERROR (R424). -/
  | sramParityError (e : SramError)
  /-- SPARE_ROW_REPLACE (R425). -/
  | spareRowReplace (e : SramError) (bank : Nat)
  /-- PATROL_READ (R429). -/
  | patrolRead (line : Nat) (syms : SymErr)
  /-- EVENT_FOLD_EXPIRY (R433). -/
  | eventFoldExpiry (key : Nat)
  /-- TOKEN_HEARTBEAT_MISSED (R420). -/
  | tokenHeartbeatMissed
  /-- TOKEN_TRANSFER_DONE (R420). -/
  | tokenTransferDone
  /-- ARBITER_FAULT (R421). -/
  | arbiterFault
  /-- STALE_CONFIG_WRITE (R419). -/
  | staleConfigWrite (half gen : Nat)
  /-- WEIR_COPY_MISMATCH (R441). -/
  | weirCopyMismatch
  /-- TAP_INSTRUCTION_UPDATE (R480). -/
  | tapInstructionUpdate (t : TapUpdate)
  /-- BL_MERGE_TIME_LIMIT (R342). -/
  | blMergeTimeLimit (index : Nat)  deriving DecidableEq, Repr

end Sys2Proof
end

