-- ==== Sys2Proof/Decode.lean ====
section
/-! DEFINITION. The decoder over the opcode table's bits. The table gives no row any bits: a command arrives as a record, a pin's edge or an event, with its operands. -/

namespace Sys2Proof

/-- The command a word of the table spells: none, for every word. -/
def decodeTableWord (_nbits _w : Nat) : Option Instr := none

end Sys2Proof
end

