-- ==== Sys2Proof/Machine/Float.lean ====
section
/-! DEFINITION. Floating-point values as exact dyadic numbers, and the encodings of the binary formats: decode, exact sum and product, and rounding to nearest with ties to even (R131, R200-R204). -/

namespace Sys2Proof

/-- A floating-point value: NaN, an infinity, or ± m · 2^e. A zero keeps its sign. -/
inductive FV where
  | nan
  | inf (neg : Bool)
  | fin (neg : Bool) (m : Nat) (e : Int)
  deriving DecidableEq, Repr

namespace FV

def zero : FV := .fin false 0 0

/-- The signed significand. -/
def sig (neg : Bool) (m : Nat) : Int := if neg then - (m : Int) else m

/-- Two finite values on one exponent: significands and the lesser exponent. -/
def align (n1 : Bool) (m1 : Nat) (e1 : Int) (n2 : Bool) (m2 : Nat) (e2 : Int) : Int × Int × Int :=
  let e := min e1 e2
  (sig n1 m1 * 2 ^ (e1 - e).toNat, sig n2 m2 * 2 ^ (e2 - e).toNat, e)

/-- Exact sum. An exact zero of opposite signs is +0. -/
def add : FV → FV → FV
  | .nan, _ | _, .nan => .nan
  | .inf a, .inf b => if a = b then .inf a else .nan
  | .inf a, _ | _, .inf a => .inf a
  | .fin n1 m1 e1, .fin n2 m2 e2 =>
    let (a, b, e) := align n1 m1 e1 n2 m2 e2
    let r := a + b
    if r = 0 then .fin (n1 && n2) 0 0
    else .fin (decide (r < 0)) r.natAbs e

def neg : FV → FV
  | .nan => .nan
  | .inf a => .inf (!a)
  | .fin n m e => .fin (!n) m e

/-- Exact product. -/
def mul : FV → FV → FV
  | .nan, _ | _, .nan => .nan
  | .inf a, .inf b => .inf (a != b)
  | .inf a, .fin n m _ | .fin n m _, .inf a => if m = 0 then .nan else .inf (a != n)
  | .fin n1 m1 e1, .fin n2 m2 e2 => .fin (n1 != n2) (m1 * m2) (e1 + e2)

def isNan : FV → Bool
  | .nan => true
  | _ => false

def isZero : FV → Bool
  | .fin _ 0 _ => true
  | _ => false

def isNeg : FV → Bool
  | .nan => false
  | .inf n => n
  | .fin n _ _ => n

/-- `a < b` of two values that are not NaN, zeros equal. -/
def lt : FV → FV → Bool
  | .nan, _ | _, .nan => false
  | .inf a, .inf b => a && !b
  | .inf a, _ => a
  | _, .inf b => !b
  | .fin n1 m1 e1, .fin n2 m2 e2 => let (a, b, _) := align n1 m1 e1 n2 m2 e2; decide (a < b)

/-- Equal as numbers. -/
def eqv : FV → FV → Bool
  | .nan, _ | _, .nan => false
  | .inf a, .inf b => a = b
  | .inf _, _ | _, .inf _ => false
  | .fin n1 m1 e1, .fin n2 m2 e2 => let (a, b, _) := align n1 m1 e1 n2 m2 e2; decide (a = b)

end FV

/-- Bits that hold a number. -/
def bitLen (m : Nat) : Nat := if m = 0 then 0 else Nat.log2 m + 1

/-- `m / 2^k` rounded to nearest, ties to even. -/
def rne (m k : Nat) : Nat :=
  let q := m / 2 ^ k
  let r := m % 2 ^ k
  if k = 0 then m
  else if r * 2 < 2 ^ k then q
  else if 2 ^ k < r * 2 then q + 1
  else q + q % 2

/-- A nearest quotient of two numbers, ties to even. -/
def rneDiv (a b : Nat) : Nat :=
  let q := a / b
  let r := a % b
  if r * 2 < b then q else if b < r * 2 then q + 1 else q + q % 2

/-- A finite magnitude rounded to `mb` fraction bits with least normal exponent `emin`: the significand and its exponent. -/
def roundTo (mb : Nat) (emin : Int) (m : Nat) (e : Int) : Nat × Int :=
  let q := max ((bitLen m : Int) - 1 + e - mb) (emin - mb)
  if q ≤ e then (m * 2 ^ (e - q).toNat, q) else (rne m (q - e).toNat, q)

/-- Decode an IEEE encoding of `eb` exponent and `mb` fraction bits. -/
def ieeeDecode (eb mb w : Nat) : FV :=
  let n := w / 2 ^ (eb + mb) % 2 = 1
  let x := w / 2 ^ mb % 2 ^ eb
  let f := w % 2 ^ mb
  let bias : Int := 2 ^ (eb - 1) - 1
  if x = 2 ^ eb - 1 then (if f = 0 then .inf n else .nan)
  else if x = 0 then .fin n f (1 - bias - mb)
  else .fin n (f + 2 ^ mb) (x - bias - mb)

/-- Encode to nearest even; a NaN is the default quiet NaN (R131), an overflow an infinity. -/
def ieeeEncode (eb mb : Nat) (v : FV) : Nat :=
  let top := (2 ^ eb - 1) * 2 ^ mb
  let s (n : Bool) : Nat := if n then 2 ^ (eb + mb) else 0
  match v with
  | .nan => top + 2 ^ (mb - 1)
  | .inf n => s n + top
  | .fin n m e =>
    if m = 0 then s n
    else
      let bias : Int := 2 ^ (eb - 1) - 1
      let (r, q) := roundTo mb (1 - bias) m e
      let enc := (q - (1 - bias - mb)).toNat * 2 ^ mb + r
      s n + min enc top

/-- IEEE binary32 or binary64 addition, by width in bytes (R131). -/
def fadd (width a b : Nat) : Nat :=
  let (eb, mb) := if width = 4 then (8, 23) else (11, 52)
  ieeeEncode eb mb (FV.add (ieeeDecode eb mb a) (ieeeDecode eb mb b))

end Sys2Proof
end

