-- ==== Sys2Proof/Config.lean ====
section
/-! DEFINITION. What an implementation or the maker fixes and the spec leaves open: the free values (no body: nothing in Lean can evaluate them or prove a value of them) and the uninterpreted public-key operations. Log entries 5, 6 and 7. -/

namespace Sys2Proof

/-- A fresh free value, by the state's counter `free` (log entry 5). -/
opaque Config.freeWord : Nat → Word

/-- A distance, or an element of a query divided by its norm, where an infinity is divided, by its operands (R326; log entry 16): the spec states none. -/
opaque Config.freeDistance : List Nat → List Nat → BitVec 32

/-- The n-th 64-bit output of Novva's DRBG (R385): keys, nonces, half-keys, session identifiers, first sequence numbers and rounding values. -/
opaque Config.drbg : Nat → Word

/-- The n-th 16-bit value of a bay's random generator after it was seeded (R217: the generator is its own). -/
opaque Config.bayRandom : Word → Nat → BitVec 16

/-- The two elements that a slice's reduction adds at a step of its fixed tree, among those left, by the number of elements (R222: the tree is fixed and not given). -/
opaque Config.treeStep : Nat → Nat → Nat

/-- The LBC tokens that the codec's encoder writes for a block (R85: the encoder's choices are its own). -/
opaque Config.lbcEncode : List Byte → List Byte

/-- RSASSA-PSS (SHA-256) verification of a signature over a message under a modulus (R354, R394, R398). -/
opaque Config.rsaVerify : List Byte → List Byte → List Byte → Bool

/-- RSA-OAEP-3072 decryption under the device identity key; none where the padding fails (R394). -/
opaque Config.rsaDecrypt : List Byte → Option (List Byte)

/-- RSA-OAEP-3072 encryption of a half-key to a modulus (R354, R393). -/
opaque Config.rsaEncrypt : List Byte → List Byte → List Byte

/-- A signature under the device identity key (R354, R393, R396). -/
opaque Config.rsaSign : List Byte → List Byte

/-- The maker's public modulus in the Novva ROM (R353). -/
opaque Config.makerModulus : List Byte

/-- The modulus of the device identity key (Table 14.8). -/
opaque Config.idModulus : List Byte

/-- DEVICE_ID, assigned by the maker (Table 14.8). -/
opaque Config.deviceId : List Byte

/-- MAKER_SIG of the identity record (Table 14.8). -/
opaque Config.makerSig : List Byte

/-- The silicon stepping (Table 14.8). -/
opaque Config.stepping : BitVec 32

/-- The header of the image the factory ships, 448 bytes (Table 14.12; log entry 3). -/
opaque Config.factoryHeader : List Byte

/-- SHA-256 of the Novva ROM (Table 14.11). -/
opaque Config.romDigest : List Byte

/-- The result of maker screening test `n` in a state numbered by the free counter (MK_SCREEN, Table 13.5; the spec gives no contents). -/
opaque Config.screenResult : Nat → Nat → List Byte

/-- The fuse record of MK_FUSE_READ (Table 13.5; the spec gives no contents). -/
opaque Config.fuseRecord : Nat → List Byte

end Sys2Proof
end

