-- ==== Sys2Proof/Machine/Aes.lean ====
section
/-! DEFINITION. AES-256 (FIPS 197), XTS-AES-256 (IEEE 1619) for the tiers and the T2 reservation (R79, R389), and GCM-AES-256 with the XPN form of its IV for frames (R109, R124). The spec names the standards and gives no text of them: PRESUMED, log entry 8. -/

namespace Sys2Proof

namespace Aes

/-- The substitution box, 32 entries a number, entry 0 in the lowest byte. -/
def sboxWords : List Nat :=
  [0xc072a49cafa2d4adf04759fa7dc982ca76abd7fe2b670130c56f6bf27b777c63,
   0x75b227ebe28012079a059618c323c7041531d871f1e5a534ccf73f362693fdb7,
   0xcf584c4a39becb6a5bb1fc20ed00d153842fe329b3d63b52a05a6e1b1a2c8309,
   0xd2f3ff1021dab6bcf5389d928f40a351a89f3c507f02f94585334d43fbaaefd0,
   0xdb0b5ede14b8ee4688902a22dc4f816073195d643d7ea7c41744975fec130ccd,
   0x08ae7a65eaf4566ca94ed58d6d37c8e779e4959162acd3c25c2406490a3a32e0,
   0x9e1dc186b95735610ef6034866b53e708a8bbd4b1f74dde8c6b4a61c2e2578ba,
   0x16bb54b00f2d99416842e6bf0d89a18cdf2855cee9871e9b948ed9691198f8e1]

/-- The inverse substitution box. -/
def inverseWords : List Nat :=
  [0xcbe9dec444438e3487ff2f9b8239e37cfbd7f3819ea340bf38a53630d56a0952,
   0x25d18b6d49a25b76b224d92866a12e084ec3fa420b954cee3d23c2a632947b54,
   0x849d8da75746155edab9edfd5048706c92b6655dcc5ca4d41698688664f6f872,
   0x6b8a130103bdafc1020f3fca8f1e2cd00645b3b80558e4f70ad3bc8c00abd890,
   0x6edf751ce837f9e28535ade72274ac9673e6b4f0cecff297eadc674f4111913a,
   0xf45acd78fec0db9a2079d2c64b3e56fc1bbe18aa0e62b76f89c5291d711af147,
   0xef9cc9939f7ae52d0d4ab519a97f51605fec8027591012b131c7078833a8dd1f,
   0x7d0c2155631469e126d677ba7e042b17619953833cbbebc8b0f52aae4d3be0a0]

def lookup (t : List Nat) (x : Nat) : Nat := t.getD (x / 32) 0 / 2 ^ (8 * (x % 32)) % 256

/-- Multiplication by x in GF(2^8). -/
def xtime (a : Nat) : Nat := if a < 128 then 2 * a else (2 * a) % 256 ^^^ 0x1B

/-- Multiplication of a byte by a constant of at most `n` bits. -/
def gmul : Nat → Nat → Nat → Nat
  | 0, _, _ => 0
  | n + 1, a, b => (if b % 2 = 1 then a else 0) ^^^ gmul n (xtime a) (b / 2)

/-- Each column multiplied by a circulant matrix, given by its first row. -/
def mixColumns (row : List Nat) : List Nat → List Nat
  | a :: b :: c :: d :: r =>
    let col := [a, b, c, d]
    let cell (i : Nat) : Nat := (List.range 4).foldl (fun x j => x ^^^ gmul 4 (col.getD j 0) (row.getD ((j + 4 - i) % 4) 0)) 0
    [cell 0, cell 1, cell 2, cell 3] ++ mixColumns row r
  | _ => []

def xorList (a b : List Nat) : List Nat := List.zipWith (· ^^^ ·) a b

/-- The rows of a state (bytes column by column) turned left by their number, `k` times. -/
def shiftRows (k : Nat) (st : List Nat) : List Nat :=
  (List.range 16).map fun i => st.getD ((i + 4 * k * (i % 4)) % 16) 0

/-- The next words of the key schedule: the words so far, newest first. -/
def expand : Nat → Nat → Nat → List (List Nat) → List (List Nat)
  | 0, _, _, ws => ws
  | n + 1, i, rcon, ws =>
    let last := ws.headD []
    let old := ws.getD 7 []
    let w := if i % 8 = 0 then
        xorList [rcon, 0, 0, 0] ((last.drop 1 ++ last.take 1).map (lookup sboxWords))
      else if i % 8 = 4 then last.map (lookup sboxWords) else last
    expand n (i + 1) (if i % 8 = 0 then xtime rcon else rcon) (xorList old w :: ws)

/-- The 4-byte words of a key. -/
def keyWords : Nat → List Nat → List (List Nat)
  | 0, _ => []
  | n + 1, k => k.take 4 :: keyWords n (k.drop 4)

/-- Groups of four words. -/
def rounds : Nat → List (List Nat) → List (List Nat)
  | 0, _ => []
  | n + 1, ws => (ws.take 4).flatten :: rounds n (ws.drop 4)

/-- The 15 round keys of a 256-bit key. -/
def schedule (key : List Byte) : List (List Nat) :=
  rounds 15 (expand 52 8 1 (keyWords 8 (key.map (·.toNat))).reverse).reverse

/-- One block encrypted under a key schedule. -/
def encBlock (ks : List (List Nat)) (st : List Nat) : List Nat :=
  let r (s : List Nat) (k : List Nat) : List Nat :=
    xorList k (mixColumns [2, 3, 1, 1] (shiftRows 1 (s.map (lookup sboxWords))))
  let s := ((ks.drop 1).take 13).foldl r (xorList (ks.headD []) st)
  xorList (ks.getD 14 []) (shiftRows 1 (s.map (lookup sboxWords)))

/-- One block decrypted. -/
def decBlock (ks : List (List Nat)) (st : List Nat) : List Nat :=
  let back (s : List Nat) : List Nat := (shiftRows 3 s).map (lookup inverseWords)
  let r (s : List Nat) (k : List Nat) : List Nat := mixColumns [14, 11, 13, 9] (xorList k (back s))
  xorList (ks.headD []) (back (((ks.drop 1).take 13).reverse.foldl r (xorList (ks.getD 14 []) st)))

def ofBytes (bs : List Byte) : List Nat := bs.map (·.toNat)
def toBytes (xs : List Nat) : List Byte := xs.map (BitVec.ofNat 8)

/-- The tweak multiplied by x in GF(2^128), as IEEE 1619 orders its bytes. -/
def tweakNext (t : Nat) : Nat := if t < 2 ^ 127 then 2 * t else (2 * t) % 2 ^ 128 ^^^ 0x87

/-- The blocks of a data unit under a cipher and a tweak. -/
def xtsGo (cipher : List Nat → List Nat) : Nat → Nat → List Byte → List Byte
  | 0, _, _ => []
  | n + 1, t, bs =>
    let tb := ofBytes (leBytes 16 t)
    toBytes (xorList tb (cipher (xorList tb (ofBytes (bs.take 16))))) ++ xtsGo cipher n (tweakNext t) (bs.drop 16)

/-- The product in GCM's field, the highest bit of a number being its first. -/
def ghashMul : Nat → Nat → Nat → Nat → Nat
  | 0, z, _, _ => z
  | n + 1, z, v, x =>
    ghashMul n (if x / 2 ^ n % 2 = 1 then z ^^^ v else z) (if v % 2 = 1 then v / 2 ^^^ 0xE1 * 2 ^ 120 else v / 2) x

/-- The hash of GCM over whole blocks. -/
def ghash (h : Nat) : Nat → Nat → List Byte → Nat
  | 0, y, _ => y
  | n + 1, y, bs => ghash h n (ghashMul 128 0 h (y ^^^ beNat (bs.take 16))) (bs.drop 16)

/-- Counter mode from a counter block. -/
def ctrGo (ks : List (List Nat)) : Nat → List Byte → Nat → List Byte → List Byte
  | 0, _, _, _ => []
  | n + 1, iv, c, bs =>
    let pad := encBlock ks (ofBytes (iv ++ beBytes 4 c))
    toBytes (xorList (ofBytes (bs.take 16)) pad) ++ ctrGo ks n iv (c + 1) (bs.drop 16)

end Aes

/-- XTS-AES-256 encryption of a data unit (R389): the first half of the key encrypts the data, the second the tweak. -/
def xtsEnc (key : List Byte) (tweak : Nat) (bs : List Byte) : List Byte :=
  Aes.xtsGo (Aes.encBlock (Aes.schedule (key.take 32))) (bs.length / 16)
    (leNat (Aes.toBytes (Aes.encBlock (Aes.schedule (key.drop 32)) (Aes.ofBytes (leBytes 16 tweak))))) bs

/-- XTS-AES-256 decryption of a data unit. -/
def xtsDec (key : List Byte) (tweak : Nat) (bs : List Byte) : List Byte :=
  Aes.xtsGo (Aes.decBlock (Aes.schedule (key.take 32))) (bs.length / 16)
    (leNat (Aes.toBytes (Aes.encBlock (Aes.schedule (key.drop 32)) (Aes.ofBytes (leBytes 16 tweak))))) bs

/-- GCM-AES-256 with a 12-byte IV: the ciphertext and the 16-byte tag. -/
def gcmEnc (key iv aad plain : List Byte) : List Byte × List Byte :=
  let ks := Aes.schedule key
  let h := beNat (Aes.toBytes (Aes.encBlock ks (List.replicate 16 0)))
  let c := Aes.ctrGo ks ((plain.length + 15) / 16) iv 2 plain
  let m := padTo 16 aad ++ padTo 16 c ++ beBytes 8 (aad.length * 8) ++ beBytes 8 (c.length * 8)
  let y := Aes.ghash h (m.length / 16) 0 m
  (c, beBytes 16 (y ^^^ beNat (Aes.toBytes (Aes.encBlock ks (Aes.ofBytes (iv ++ beBytes 4 1))))))

/-- The IV of GCM-AES-XPN (Table 4.7): the salt combined with the SSCI and the 64-bit packet number. -/
def xpnIv (salt : List Byte) (ssci pn : Nat) : List Byte :=
  List.zipWith (· ^^^ ·) salt (beBytes 4 ssci ++ beBytes 8 pn)

end Sys2Proof
end

