-- ==== Sys2Proof/Machine/Map.lean ====
section
/-! DEFINITION. Tables by number, in ONE canonical form: a list of (key, value) pairs with strictly rising keys and no entry equal to what an unlisted key reads as. The range, the scratchpad, the control words, the counters and every register file of like things are such tables. -/

namespace Sys2Proof

/-- A table by number. -/
abbrev KMap (α : Type) := List (Nat × α)

/-- The value at a key; `d` is what an unlisted key reads as. -/
def kget {α : Type} (d : α) : KMap α → Nat → α
  | [], _ => d
  | (k, v) :: m, i => if k = i then v else kget d m i

/-- The table with a key set: the form stays canonical, and a value equal to the default removes the entry. -/
def kput {α : Type} [DecidableEq α] (d : α) : KMap α → Nat → α → KMap α
  | [], i, x => if x = d then [] else [(i, x)]
  | (k, v) :: m, i, x =>
    if i < k then (if x = d then (k, v) :: m else (i, x) :: (k, v) :: m)
    else if i = k then (if x = d then m else (i, x) :: m)
    else (k, v) :: kput d m i x

/-- Change the value at a key. -/
def kmod {α : Type} [DecidableEq α] (d : α) (m : KMap α) (i : Nat) (f : α → α) : KMap α :=
  kput d m i (f (kget d m i))

/-- The keys rise strictly from `lo` and no value is what its key reads as when unlisted. -/
def kwfFrom {α : Type} [DecidableEq α] (d : Nat → α) : Nat → KMap α → Bool
  | _, [] => true
  | lo, (k, v) :: m => decide (lo ≤ k) && !decide (v = d k) && kwfFrom d (k + 1) m

/-- The canonical form of a table whose unlisted keys read `d k`. -/
def kwf {α : Type} [DecidableEq α] (d : Nat → α) (m : KMap α) : Bool :=
  kwfFrom d 0 m

end Sys2Proof
end

