-- ==== Sys2Proof/Machine/State.lean ====
section
/-! DEFINITION. The state of the YM9 as plain data: every register, table, queue, buffer and mode the spec gives the device, grouped by unit; the queue of waiting commands; the faults and refusals of the model; and the state at reset. -/

namespace Sys2Proof.Machine

/-- Why a step stops with a fault. The model raises none of these on a command the spec gives an effect. -/
inductive Fault where
  /-- Raised by nothing: kept so that the type is a closed list with a name; safe. -/
  | none
  deriving DecidableEq, Repr

/-- Why a step is refused. -/
inductive Refusal where
  /-- Raised by an arm of exec whose command has no meaning yet; safe. -/
  | notModelled (mnemonic : String)
  deriving DecidableEq, Repr

/-! ### Records the device sends -/

/-- A record handed to KT, by its kind. -/
inductive Rec where
  /-- A response (Table 5.2): opcode, TAG, STATUS, LOAD_LEVEL, INTERIM, VALUE, payload. -/
  | resp (op tag status level : Nat) (interim : Bool) (value : Nat) (payload : List Byte)
  /-- A request of the YM9 (a snoop, a forward, a delta, a rebuild access): opcode, TAG, STRICT, PARAM, global address, payload. -/
  | req (op tag : Nat) (strict : Bool) (part param addr : Nat) (payload : List Byte)
  /-- A NOTIFY record (Table 8.14): kind, status, stream, DONE_COUNT, FAIL_PC, VALUE, USER, FLAGS, PART, CAUSE. -/
  | notify (kind status sid done failPc value user flags part cause : Nat)
  /-- An EVENT record (Table 16.2). -/
  | event (cls code kind part unit ts hidx count status flags addr : Nat)
  /-- A Felset reply (Table 13.2). -/
  | felset (fop cseq fsid status level detail auditIdx : Nat) (tag data : List Byte)
  /-- Transport-control records (Table 4.9). -/
  | ack (next delay : Nat) (sacks : List (Nat × Nat))
  | nack (next : Nat)
  | probe (token txTs : Nat)
  | probeReply (token txTs : Nat)
  | sessionOpen (seq0 : Nat) (nonce cert ehalf sig : List Byte)
  | sessionAccept (seq0 session : Nat) (nonce cert ehalf sig : List Byte)
  | sessionClose (reason : Nat)
  deriving DecidableEq, Repr

/-! ### Power, clocks and pins -/

/-- PSTATE of Table 17.7. -/
inductive PState where
  | starting | inService | furlEntry | furl | waking | halted | resetting
  deriving DecidableEq, Repr

/-- ISL_STATE of Table 2.5. -/
inductive IslState where
  | off | locking | running | held | retired
  deriving DecidableEq, Repr

/-- A clocked island (Table 2.5): its state, rate step, lock losses, relock tries used (R47), and the step it is draining towards (R46); its boundary buffer (R44): the words that wait to enter it, each a request (by its item's number) at a line, and the NAND reads that wait to leave it, 32 at most in each direction, in the order they were offered. Words cross an open boundary at once. -/
structure Island where
  st : IslState := .off
  step : Nat := 0
  lockLoss : Nat := 0
  tries : Nat := 0
  toStep : Option Nat := none
  toIsland : List (Nat × Nat) := []
  fromIsland : List NandRead := []
  deriving DecidableEq, Repr

/-- A core rail (Table 2.3) but for RAIL_SET, which is a control-word field. -/
structure Rail where
  vstep : Nat := 0
  applied : Nat := 0
  meas : Nat := 0
  temp : Int := 0
  vOut : Bool := false
  tOut : Bool := false
  measuringTo : Option Nat := none
  deriving DecidableEq, Repr

/-- The instruction the test access port holds (Table 18.6); IDCODE until its first update, as after TRST_N (PRESUMED, log entry 105). -/
inductive TapInstr where
  | bypass | idcode | samplePreload | extest | extestPulse | extestTrain | clamp | highz
  deriving DecidableEq, Repr

/-- The regulator reading of one rail (R474): the last current in mA and how long it has gone unanswered. -/
structure AvsRail where
  mA : Nat := 0
  silentNs : Nat := 0
  deriving DecidableEq, Repr

/-- Pins, power state, islands, rails and clocks (R49, R454-R469, R477-R480). `startStep` is START_STEP; `tail` holds those of start-up's steps 7 to 10, which go on side by side, that have completed. -/
structure Pwr where
  pwrGood : Bool := false
  resetN : Bool := true
  thermTrip : Bool := false
  tap : TapInstr := .idcode
  pstate : PState := .starting
  startStep : Nat := 0
  tail : List Nat := []
  haltCause : Nat := 0
  resetCause : Nat := 0
  throttle : Nat := 0
  pkgPower : Nat := 0
  coolSince : Option Nat := none
  devResets : Nat := 0
  furlStep : Nat := 0
  wakeAt : Option Nat := none
  wakeReplies : List (Nat × Bool × Rec) := []
  board : Board := {}
  islands : KMap Island := []
  rails : KMap Rail := []
  avs : KMap AvsRail := []
  tsWest : Nat := 0
  tsEast : Nat := 0
  beatRate : KMap Nat := []
  beatRem : KMap Nat := []
  slowSum : KMap Nat := []
  slowWindows : KMap Nat := []
  deriving DecidableEq, Repr

/-! ### The NOR, the fuses and Novva -/

/-- An audit entry (Table 13.9); PDIGEST, PREV and HASH are their 32 bytes. -/
structure AuditEnt where
  idx : Nat
  ts : Nat
  boot : Nat
  node : Nat
  role : Nat
  status : Nat
  fop : Nat
  keySlot : Nat
  half : Nat
  cseq : Nat
  pdigest : List Byte
  prev : List Byte
  hash : List Byte
  deriving DecidableEq, Repr

/-- A health-log entry (Table 16.4). -/
structure HlogEnt where
  idx : Nat
  ts : Nat
  boot : Nat
  cls : Nat
  code : Nat
  kind : Nat
  flags : Nat
  unit : Nat
  part : Nat
  hstate : Nat
  count : Nat
  status : Nat
  detail : Nat
  addr : Nat
  deriving DecidableEq, Repr

/-- A key slot (R353): ROLE 0 is an empty slot. -/
structure KeySlot where
  role : Nat := 0
  pmask : BitVec 32 := 0
  modulus : List Byte := []
  macOk : Bool := true
  deriving DecidableEq, Repr

/-- An image slot (Table 13.5 IMG_QUERY; Table 14.12): ISTATE, the bytes received or staged, and the offset and length of a stage whose copy has not ended (R397). -/
structure ImgSlot where
  istate : Nat := 0
  bytes : List Byte := []
  src : Option (Nat × Nat) := none
  deriving DecidableEq, Repr

/-- The health history of one unit (R435): retired or mapped out, pending retirement, erasure marks (the devices or byte lanes), spare rows by array and bank, the cache and directory sets with a way removed, and for each of the last four boots whether it was suspect and the step it reached, newest first. -/
structure Hist where
  retired : Bool := false
  mappedOut : Bool := false
  pendingRetire : Bool := false
  erased : List Nat := []
  spares : KMap Nat := []
  waysOut : List Nat := []
  boots : List (Bool × Nat) := []
  deriving DecidableEq, Repr

/-- What the NOR and the fuses hold (R11, R62, R353, R368, R397, R400, R434, R435). -/
structure Nor where
  straps : KMap Word := []
  audit : List AuditEnt := []
  auditNext : Nat := 0
  auditBase : Nat := 0
  auditAcked : Nat := 0
  auditWarned : Bool := false
  auditErasing : Bool := false
  lastHash : List Byte := List.replicate 32 0
  hlog : List HlogEnt := []
  hlogNext : Nat := 0
  hlogBase : Nat := 0
  hist : KMap Hist := []
  keySlots : KMap KeySlot := []
  images : KMap ImgSlot := []
  actSlot : Nat := 0
  runSlot : Option Nat := none
  floorSteps : Nat := 0
  boot : Nat := 0
  certCommitted : Bool := false
  deriving DecidableEq, Repr

/-- NV_STATE of Table 14.17. -/
inductive NvState where
  | off | recovery | ready | lost
  deriving DecidableEq, Repr

/-! ### The store -/

/-- A page-map entry (Table 3.4) with VALID 1; TIER is 1, 2 or 3. Tier 0 stands for an invalid entry. -/
structure PageEnt where
  tier : Nat := 0
  part : Nat := 0
  pin : Bool := false
  mig : Bool := false
  comp : Bool := false
  clen : Nat := 0
  heat : Nat := 0
  epoch : Nat := 0
  frame : Nat := 0
  lost : Bool := false
  deriving DecidableEq, Repr

/-- Why the Sluice moves a page, in the order of R80. -/
inductive MoveWhy where
  | evacuate | takeWrite | promote | demote
  deriving DecidableEq, Repr

/-- A move waiting in a Sluice's queue (R80). -/
structure MoveReq where
  page : Nat
  why : MoveWhy
  deriving DecidableEq, Repr

/-- A move in progress (R76): its destination, the source lines written since they were copied, and the re-read passes made. -/
structure Move where
  why : MoveWhy := .demote
  tier : Nat := 0
  frame : Nat := 0
  comp : Bool := false
  clen : Nat := 0
  dirty : List Nat := []
  passes : Nat := 0
  deriving DecidableEq, Repr

/-- A NAND block's entry in the block table (R91). -/
inductive BlkState where
  | free | opened | full | bad | system
  deriving DecidableEq, Repr

/-- Erase count, valid bytes in 64 B units, state, reads in progress, write point in 64 B units. -/
structure Blk where
  erases : Nat := 0
  valid : Nat := 0
  st : BlkState := .free
  reads : Nat := 0
  wp : Nat := 0
  deriving DecidableEq, Repr

/-- A Millpond forward-map entry (Table 3.8); `len` 0 is an invalid entry. -/
structure FwdEnt where
  blk : Nat := 0
  start : Nat := 0
  len : Nat := 0
  page : Nat := 0
  deriving DecidableEq, Repr

/-- MP_STATE of Table 3.14. -/
inductive MpState where
  | off | scanning | serving | readOnly | retired
  deriving DecidableEq, Repr

/-- A NAND target in use (R89): its channel within the slice, its number, its blocks in use and the pages of a block. -/
structure MpTarget where
  ch : Nat
  tg : Nat
  blocks : Nat
  ppb : Nat
  planes : Nat := 4
  deriving DecidableEq, Repr

/-- A Millpond slice (R89-R99): its usable targets, the block table, the forward map, the round-robin target, spare blocks left, blocks being collected and retired channels. Block number is (channel × 8 + target) × 65,536 + block. -/
structure Millpond where
  st : MpState := .off
  targets : List MpTarget := []
  blocks : KMap Blk := []
  slots : KMap FwdEnt := []
  rr : Nat := 0
  spares : Nat := 0
  collecting : List Nat := []
  dead : List Nat := []
  wear80 : Bool := false
  wear100 : Bool := false
  deriving DecidableEq, Repr

/-- A line held in a home line cache (R169, R486). -/
structure CacheTag where
  held : Bool := false
  modified : Bool := false
  use : Nat := 0
  deriving DecidableEq, Repr

/-- The local range and where its pages live. `mem` holds each byte once, by local offset, whichever tier, image or line cache holds it; an unlisted byte reads 0 (R66). `t3Reads` holds the reads of codec blocks in progress (by page × 16 + block): the slice + 1 and the block that the forward map named when the read began (R95); `newT3` the pages that the write under way has just allocated in T3 (R67). -/
structure Store where
  mem : KMap Byte := []
  poison : KMap Bool := []
  pages : KMap PageEnt := []
  mapCache : KMap CacheTag := []
  mapLost : KMap Nat := []
  lineCache : KMap CacheTag := []
  epoch : Nat := 0
  epochAt : Nat := 0
  promo : KMap (List Nat) := []
  moveQ : KMap (List MoveReq) := []
  moves : KMap Move := []
  candidates : KMap (List Nat) := []
  deadFrames : List Nat := []
  deadUnits : List Nat := []
  t3Ready : List Nat := []
  t3Reads : KMap (Nat × Nat) := []
  newT3 : List Nat := []
  populated : List Nat := []
  unitsPerChannel : Nat := 0
  reserved : Nat := 0
  millponds : KMap Millpond := []
  useClock : Nat := 0
  deriving DecidableEq, Repr

/-! ### Frames -/

/-- The routing of a frame that travels in IPv6 (R123): source and destination addresses, hop limit and UDP destination port. -/
structure Routing where
  srcIp : Nat
  dstIp : Nat
  hop : Nat
  port : Nat
  deriving DecidableEq, Repr

/-- A frame handed to a port (R114, R123): the fields of its octets, which `TxFrame.octets` lays out. `sa` is none in a frame with SESSION 0, which is not protected. -/
structure TxFrame where
  dst : Nat
  src : Nat
  plane : Nat
  link : Nat
  dstMac : Nat
  srcMac : Nat
  pcp : Nat
  vid : Nat
  etype : Nat
  route : Option Routing := none
  sa : Option Nat := none
  pn : Nat := 0
  mgmt : Bool := false
  seqd : Bool := true
  ord : Bool := false
  retx : Bool := false
  seq : Nat := 0
  ack : Nat := 0
  session : Nat := 0
  rwnd : Nat := 0
  rcd : Rec
  deriving DecidableEq, Repr

/-! ### Transport -/

/-- A sequenced frame held until it is acknowledged (R117); `nackAt` is when a NACK last had it resent (R120). -/
structure Held where
  seq : Nat
  ord : Bool
  mgmt : Bool
  rcd : Rec
  plane : Nat
  sentAt : Nat
  sends : Nat
  nackAt : Option Nat := none
  deriving DecidableEq, Repr

/-- A record delivered to the transaction layer and not yet taken (R115, R143), with the bytes it takes of the receive buffer (R110), and what an unassigned opcode's answer needs. -/
structure Deliv where
  op : Nat
  tag : Nat
  ord : Bool
  bytes : Nat := 0
  flags : Nat := 0
  addr : Nat := 0
  fs : Option (Nat × FsCmd) := none
  deriving DecidableEq, Repr

/-- A request of the YM9 outstanding to a peer, or `queued` until the context's window has room for it (R138, R159, R160). `slot` is the set slot whose rebuild it serves (R417). -/
structure OwnReq where
  tag : Nat
  rcd : Rec
  sentAt : Nat
  retries : Nat := 0
  flash : Bool := false
  backoff : Bool := false
  queued : Bool := false
  slot : Option Nat := none
  deriving DecidableEq, Repr

/-- LSTATE of R405. -/
inductive LState where
  | alive | silent | fenced
  deriving DecidableEq, Repr

/-- A secure association's key and salt (Table 14.6). -/
structure Sa where
  key : List Byte := []
  salt : List Byte := []
  deriving DecidableEq, Repr

/-- A sending secure channel (Table 4.7): the SA in use and the last packet number used in it. -/
structure TxChan where
  sa : Nat := 0
  pn : Nat := 0
  deriving DecidableEq, Repr

/-- A receiving secure channel (Table 4.7): the SA in use, until when the one before it is kept, and the highest packet number of each AN. -/
structure RxChan where
  sa : Nat := 0
  prevUntil : Option Nat := none
  top : KMap Nat := []
  deriving DecidableEq, Repr

/-- A KT context (R110) with its Weir entry (R136) and liveness state (R405). `live` is false where no context exists. `owed` are the sequenced frames received and not acknowledged, with their arrival times (R119). The secure channels are numbered plane + 2 × routed (Table 4.7, R124). -/
structure Ctx where
  live : Bool := false
  session : Nat := 0
  bootstrap : Bool := false
  openNonce : List Byte := []
  skey : List Byte := []
  openedAt : Nat := 0
  acceptRec : Option Rec := none
  plane : Nat := 0
  sndNext : Nat := 0
  sndAck : Nat := 0
  held : List Held := []
  rwnd : Nat := 0
  rcvNext : Nat := 0
  rcvAbove : List Nat := []
  parked : List (Nat × List Deliv) := []
  inbox : List Deliv := []
  owed : List (Nat × Nat) := []
  tries : Nat := 0
  switched : Bool := false
  silentRep : Bool := false
  srtt : Option Nat := none
  lastProbe : Nat := 0
  probeReplies : Nat := 0
  probeTok : Nat := 0
  probeOut : Bool := false
  sas : KMap Sa := []
  tx : KMap TxChan := []
  rx : KMap RxChan := []
  closing : Option Nat := none
  flushSent : Option Nat := none
  cacher : Bool := false
  refused : Bool := false
  strictTag : Option Nat := none
  strictAt : Nat := 0
  outstanding : Nat := 0
  bucket : Option Int := none
  newest : Nat := 0
  bucketAt : Nat := 0
  partFails : Nat := 0
  secSent : Bool := false
  window : Nat := 0
  own : List OwnReq := []
  lastTag : Nat := 0
  lstate : LState := .alive
  lastHeard : Nat := 0
  lastSent : Nat := 0
  nonce : Option (List Byte × Nat) := none
  deniedAt : Option Nat := none
  deriving DecidableEq, Repr

/-- A link (Table 4.4). -/
inductive LinkState where
  | off | training | up | down | retired
  deriving DecidableEq, Repr

/-- State, width in 200G units (0, 1, 2, 4) and first lane. -/
structure Link where
  st : LinkState := .off
  width : Nat := 0
  first : Nat := 0
  deriving DecidableEq, Repr

/-- LANE_STATE of Table 4.5. -/
inductive LaneState where
  | off | inService | retired
  deriving DecidableEq, Repr

/-- An open of the YM9's own in progress (R112, R488): its nonce and half-key, when it was last sent and how often resent, whether it waits for a context to be free, and the records that wait for the session with their ORD and MGMT flags. -/
structure OwnOpen where
  live : Bool := false
  nonce : List Byte := []
  half : List Byte := []
  seq0 : Nat := 0
  plane : Nat := 0
  sentAt : Nat := 0
  resends : Nat := 0
  waiting : Bool := false
  queue : List (Rec × Bool × Bool) := []
  deriving DecidableEq, Repr

/-- Ports, contexts and session opens (R100-R126, R487, R488). -/
structure Kt where
  ctxs : KMap Ctx := []
  links : KMap Link := []
  lanes : KMap LaneState := []
  opens : List SessRec := []
  ownOpens : KMap OwnOpen := []
  lvlPlaneA : Nat := 0
  lvlPlaneB : Nat := 0
  windowed : Bool := false
  weirAt : Nat := 0
  lvlSlice : KMap Nat := []
  waitInt : KMap Nat := []
  deriving DecidableEq, Repr

/-! ### Home slices -/

/-- HSTATE of Table 6.1. -/
inductive HState where
  | i | s | x | g | si | xr | bi
  deriving DecidableEq, Repr

/-- A directory entry (R172) with its open transaction. In X, XR and G from a GRANT 2 the owner is `owner`. `acks` are the snoop responses awaited, by node and TAG; `race` a Race invalidation on its way. `revoking` marks the transaction of a grant's sweep, `sweepDue` an entry that such a sweep has still to visit (R379); `room` is the line whose request a victim makes room for (R175), and `vague` marks a sharer that a coarse entry listed only by its group (Table 6.3). -/
structure DirEnt where
  st : HState := .i
  eng : Bool := false
  coarse : Bool := false
  ptrs : List Nat := []
  vec : Nat := 0
  owner : Nat := 0
  way : Nat := 0
  use : Nat := 0
  acks : List (Nat × Nat) := []
  race : Bool := false
  down : Bool := false
  vague : Bool := false
  room : Option Nat := none
  grantTag : Nat := 0
  grantee : Nat := 0
  after : Bool := false
  wrote : Bool := false
  since : Nat := 0
  late : Bool := false
  revoking : Bool := false
  sweepDue : Bool := false
  deriving DecidableEq, Repr

/-- Who a request comes from: a fabric node, or a CALL word of a stream (by STREAM_ID and issue number). -/
inductive Src where
  | agent (node : Nat)
  | call (sid num : Nat)
  deriving DecidableEq, Repr

/-- A Bolter search or merge in progress (R328-R342): its index's descriptor offset, its stamp and the MERGE_SEQ it read, whether its time is up, and its coordinator slice. -/
structure SearchSt where
  index : Nat := 0
  stamp : Nat := 0
  mseq : Nat := 0
  cut : Bool := false
  stop : Bool := false
  coord : Nat := 0
  deriving DecidableEq, Repr

/-- What a multi-line request has of one of its lines (R140): performed, poisoned when read, and the data read. -/
structure LineGot where
  done : Bool := false
  poison : Bool := false
  data : List Byte := []
  deriving DecidableEq, Repr

/-- A request admitted and not yet performed (R132, R148): it waits in the queues of its lines. An engine's request holds a place at the lines it `wants` since the request number `asked` (R20). `lost` says that a word of it was in the boundary of an island that lost lock (R47); `shared` that it recalled its line from the owner for a shared copy (Table 6.3); `ring` is the BASE and CAPACITY of the ring that step 6 checked (R132); `descs` are the descriptors read at admission (R274, R295) and `slices` the Hoist slices that share a lookup (R301). -/
structure Item where
  id : Nat
  src : Src
  op : Nat
  part : Nat
  ord : Bool := false
  strict : Bool := false
  tag : Nat
  off : Nat
  param : Nat
  payload : List Byte := []
  admitted : Nat
  weir : Bool := false
  flash : Bool := false
  routed : Bool := false
  syms : SymErr := {}
  forwards : List (Nat × Nat) := []
  fwdBad : Bool := false
  behind : List (Nat × Nat) := []
  got : KMap LineGot := []
  value : Nat := 0
  answer : Option (Nat × Nat × List Byte) := none
  stalled : Bool := false
  search : Option SearchSt := none
  wants : List Nat := []
  asked : Nat := 0
  lost : Bool := false
  shared : Bool := false
  ring : Option (Nat × Nat) := none
  descs : List (List Byte) := []
  slices : List Nat := []
  deriving DecidableEq, Repr

/-- A combining-buffer entry (R150) of a line: opcode, width in bytes, running results by byte offset in the line, opening time. -/
structure CombEnt where
  op : Nat := 0
  width : Nat := 0
  acc : List (Nat × Nat) := []
  at_ : Nat := 0
  deriving DecidableEq, Repr

/-- SLICE_STATE of Table 6.10. -/
inductive SliceState where
  | off | serving | flushing
  deriving DecidableEq, Repr

/-- Home slices (R169-R192). -/
structure Home where
  slices : KMap SliceState := []
  flushDue : KMap (List (Nat × Nat)) := []
  flushAt : KMap Nat := []
  dir : KMap DirEnt := []
  waysOut : KMap Nat := []
  waitq : List Item := []
  nextId : Nat := 0
  snoopTag : Nat := 0
  comb : KMap CombEnt := []
  forwardBusy : KMap Bool := []
  deriving DecidableEq, Repr

/-! ### The compute core -/

/-- The queues of Table 8.12. -/
inductive Eng where
  | mm | vec | dma | ldst | call | seq
  deriving DecidableEq, Repr

/-- What the sequencer has of a word: not fetched, its bits as they were when fetched (R232), or the status of a fetch that failed. -/
inductive Fetched where
  | no
  | word (w : BitVec 256)
  | bad (status : Nat)
  deriving DecidableEq, Repr

/-- An issued word not yet complete: its number in issue order, static index, encoding, engine; whether its engine has started it (for a held word of a suspended stream and a write that YM5_ORDER holds back, not yet), failed or was cancelled (R251); the scratchpad writes and flags its engine holds until completion; the register values read at issue (R233); and the status and value its request was answered with. -/
structure Issued where
  num : Nat
  pc : Nat
  word : BitVec 256
  eng : Eng
  started : Bool := true
  complete : Bool := false
  failed : Bool := false
  cancelled : Bool := false
  writes : List (Nat × Byte) := []
  flags : Nat := 0
  base : Nat := 0
  rbase : Nat := 0
  value : Option (Nat × Nat) := none
  deriving DecidableEq, Repr

/-- STATE of Table 8.2. -/
inductive StState where
  | queued | running | suspended | ended
  deriving DecidableEq, Repr

/-- A stream's record (R226-R253). `issued` holds the words issued and not in the completed run that `done` counts; `failNum` is the issue number of the failing word. -/
structure Stream where
  part : Nat := 0
  st : StState := .queued
  base : Nat := 0
  count : Nat := 0
  maxMs : Nat := 0
  notifyMode : Nat := 0
  user : Nat := 0
  args : List Word := []
  ym5 : Bool := false
  halted : Bool := false
  stopping : Bool := false
  pc : Nat := 0
  fetched : KMap Fetched := []
  issued : List Issued := []
  issueNext : Nat := 0
  done : Nat := 0
  regs : KMap Word := []
  toks : KMap Nat := []
  status : Nat := 0
  cause : Nat := 0
  failNum : Option Nat := none
  failPc : Nat := 0xFFFFFFFF
  flags : Nat := 0
  runNs : Nat := 0
  since : Nat := 0
  sliceSince : Nat := 0
  deriving DecidableEq, Repr

/-- The core's sequencer and scratchpad (R195, R230, R247). `scratch` is keyed by physical bay × 2^24 + offset. `weights` and `shadow` name the MM word (stream, issue number) whose tile the array's weight and shadow-weight registers hold (R198); `occ` is for how many beats the latest operation occupied the array (R205), 0 where none precedes. `chains` names the accumulator class and formats of each CHAIN element that the Millstone drained, by the physical address of its 16 B (R215). `seeds` and `draws` are the random generator of each bay (R217): the value drawn from the Novva random source when the stream started, and the results drawn since. -/
structure Core where
  scratch : KMap Byte := []
  chains : KMap Nat := []
  seeds : KMap Word := []
  draws : KMap Nat := []
  weights : Option (Nat × Nat) := none
  shadow : Option (Nat × Nat) := none
  streams : KMap Stream := []
  endedOrder : List Nat := []
  cur : Option Nat := none
  suspending : Bool := false
  queue : List Nat := []
  vtime : KMap Nat := []
  serials : KMap Nat := []
  lastId : KMap Nat := []
  coreFlags : KMap Nat := []
  beatRem : Nat := 0
  waitRem : Nat := 0
  occ : Nat := 0
  lostSeq : Bool := false
  lostDma : Bool := false
  mapOutDue : List Nat := []
  deriving DecidableEq, Repr

/-! ### Near-memory engines -/

/-- A portion of a Quern invocation (R267): the lines of the operation in one page. `quern` is the Quern chosen for it; in a page of the first region, `next` is the index of the first line not yet performed and `left` how many there are from it on; in a page of other regions alone `count` is 0. `held` marks one that an injected stall holds (R450). What a COMPARE or DIGEST finds in the portion stays with it until it is done. -/
structure QPortion where
  page : Nat
  quern : Nat
  begun : Bool := false
  held : Bool := false
  first : Nat := 0
  count : Nat := 0
  next : Nat := 0
  left : Nat := 0
  diffAt : Option Nat := none
  lsum : Nat := 0
  crc : Nat := 0
  poisoned : Bool := false
  deriving DecidableEq, Repr

/-- A Quern invocation in progress (R267, R273), by its item's number: the descriptor's fields, the source list, the portions left, the result so far, and of a failing invocation the failing line at the lowest address and its status (R275). -/
structure QInv where
  live : Bool := false
  item : Nat := 0
  op : Nat := 0
  rfmt : Nat := 0
  rop : Nat := 0
  lines : Nat := 0
  dst : Nat := 0
  src : Nat := 0
  aux : Nat := 0
  ibase : Nat := 0
  list : List (Nat × Nat) := []
  portions : List QPortion := []
  diffAt : Option Nat := none
  lsum : Nat := 0
  crc : Nat := 0
  poisoned : Bool := false
  failed : Option (Nat × Nat) := none
  deriving DecidableEq, Repr

/-- An open reduction group (R280), by the offset of its control line: its held parameters and sums, GFLAGS so far, the Querns that hold partial sums of it, and a pending abandonment. -/
structure QGroup where
  opened : Bool := false
  opening : Bool := false
  part : Nat := 0
  target : Nat := 0
  lines : Nat := 0
  rfmt : Nat := 0
  rop : Nat := 0
  n : Nat := 0
  key : Nat := 0
  done : Nat := 0
  flags : Nat := 0
  initD : Nat := 0
  recvD : Nat := 0
  claimD : Nat := 0
  errD : Nat := 0
  querns : List Nat := []
  abandoned : Bool := false
  /-- The first request number after the abandonment. -/
  abandonedAt : Nat := 0
  injected : Bool := false
  deriving DecidableEq, Repr

/-- A compensated pair (R212, R213): hi and lo as exact dyadic values. -/
structure Pair where
  hi : FV := .fin false 0 0
  lo : FV := .fin false 0 0
  deriving DecidableEq, Repr

/-- The gradient of one row for the open step (R313, R314): the pairs of its pending entry, the entries spilled, whether poisoned, and its last use. -/
structure GradRow where
  sums : List Pair := []
  spilt : List (List Pair) := []
  poison : Bool := false
  use : Nat := 0
  deriving DecidableEq, Repr

/-- A Hoist step slot (R315), by its table's descriptor offset: the descriptors read at OPEN, the rows touched (keys 2 × row, plus 1 for the partner), spill lines used, the item of the DONE that closes it, and the status of a row that the close could not write (R308). -/
structure HStep where
  taken : Bool := false
  part : Nat := 0
  step : Nat := 0
  n : Nat := 0
  done : Nat := 0
  desc : List Byte := []
  pdesc : List Byte := []
  rows : KMap GradRow := []
  spillUsed : Nat := 0
  overflow : Bool := false
  poisoned : Bool := false
  closing : Option Nat := none
  failed : Option Nat := none
  applied : Nat := 0
  deriving DecidableEq, Repr

/-- A unit state of a Quern, Hoist slice or Bolter slice. -/
inductive UState where
  | off | serving | retired
  deriving DecidableEq, Repr

/-- Querns, Hoist and Bolter (R267-R349). -/
structure Eng3 where
  querns : KMap UState := []
  invs : KMap QInv := []
  groups : KMap QGroup := []
  hoists : KMap UState := []
  steps : KMap HStep := []
  rowBuf : KMap (Nat × Nat) := []
  hotSets : KMap (List Nat) := []
  hotAt : KMap Nat := []
  hotShort : KMap Bool := []
  bolters : KMap UState := []
  deriving DecidableEq, Repr

/-! ### Felset, partitions, sets, health -/

/-- A Felset session (R353-R357). -/
structure FSession where
  live : Bool := false
  node : Nat := 0
  role : Nat := 0
  slot : Nat := 0
  ck : List Byte := []
  lastCseq : Nat := 0
  stored : Option Rec := none
  lastUse : Nat := 0
  deriving DecidableEq, Repr

/-- An extent (R375-R383): owner and XSTATE. An extent in XSTATE 0 has no owner. -/
structure Extent where
  xstate : Nat := 0
  part : Nat := 0
  failed : Bool := false
  scrubTries : Nat := 0
  since : Nat := 0
  deriving DecidableEq, Repr

/-- A grant entry (R376): a node's rights on a run of extents; while it drains, `drain` is the audit index of the command that revoked it, and `swept` says that its sweep has begun. -/
structure Grant where
  node : Nat
  rights : Nat
  first : Nat
  count : Nat
  draining : Bool := false
  swept : Bool := false
  drain : Nat := 0
  deriving DecidableEq, Repr

/-- A partition (R373, R374) with its tenant key (Table 14.5). -/
structure Part where
  enabled : Bool := false
  disabling : Bool := false
  keyEpoch : Nat := 0
  key : List Byte := []
  deriving DecidableEq, Repr

/-- A Felset command in execution that waits for a line it reads (R24, R228). -/
structure FsHold where
  fop : Nat
  cmd : FsCmd
  since : Nat
  line : Nat
  deriving DecidableEq, Repr

/-- Felset, Novva and partitions; `mapKey` is the map key of Table 14.5; `hold` is the command in execution that waits for a line, `waiting` the records that wait behind it with their FOPs (R24, R352), and `going`, only while one of these is taken up again, since when it has waited. -/
structure Sec where
  mapKey : List Byte := []
  sessions : KMap FSession := []
  lastFop : KMap Nat := []
  nvState : NvState := .off
  drbg : Nat := 0
  hold : Option FsHold := none
  waiting : List (Nat × FsCmd) := []
  going : Option Nat := none
  parts : KMap Part := []
  extents : KMap Extent := []
  quarantine : List Nat := []
  scrubbing : List Nat := []
  grants : List Grant := []
  deriving DecidableEq, Repr

/-- A set slot (R408-R417) but for its SET_SLOT word. A rebuild's batch goes through phases: 0 before its holds, then its holds, reads, rebuilt writes and releases are sent; `rbOut` are the requests of the phase not yet answered, by node and TAG, `rbAsk` the reads among them with the position and the group of 16 lines that each asks for, `rbGot` what came back (by position × 1,024 + group), and `rbBad` says that an answer was not OK. `rbSince` is when the last batch began. -/
structure SetSt where
  sstate : Nat := 0
  mode : Nat := 0
  k : Nat := 0
  master : Nat := 0
  epoch : Nat := 0
  members : List Nat := []
  pos : Nat := 31
  rbPos : Nat := 31
  rbAll : List Nat := []
  rbAt : Nat := 0
  validTo : Nat := 0
  valids : KMap Nat := []
  holdLo : Nat := 0
  holdHi : Nat := 0
  broken : Bool := false
  rbPhase : Nat := 0
  rbOut : List (Nat × Nat) := []
  rbAsk : List (Nat × Nat × Nat × Nat) := []
  rbGot : KMap (List Byte) := []
  rbBad : Bool := false
  rbSince : Option Nat := none
  deriving DecidableEq, Repr

/-- HOLDER of Table 15.9. -/
inductive Holder where
  | west | east | transfer | none
  deriving DecidableEq, Repr

/-- Sets, liveness, the arbiter. -/
structure Mach where
  sets : KMap SetSt := []
  fence : KMap Bool := []
  holder : Holder := .none
  lastHolder : Holder := .none
  toEast : Bool := false
  gen : Nat := 0
  genCopy : Nat := 0
  unitGen : Nat := 0
  arbFault : Bool := false
  believesWest : Bool := false
  believesEast : Bool := false
  deriving DecidableEq, Repr

/-- HSTATE of Table 16.6. -/
inductive Health where
  | clean | suspect | stepped | retired | pending | mappedOut
  deriving DecidableEq, Repr

/-- The Governor's record of a unit (R436, Table 16.6): counts of each event kind in the open window, consecutive suspect windows of each, totals. -/
structure UnitH where
  health : Health := .clean
  counts : KMap Nat := []
  runs : KMap Nat := []
  injected : KMap Bool := []
  total : Nat := 0
  spares : Nat := 0
  devLines : KMap Nat := []
  lastTs : Nat := 0
  lastHidx : Nat := 0
  needSpare : KMap Bool := []
  logged : KMap Bool := []
  deriving DecidableEq, Repr

/-- Folding of events (R433), by unit, class and partition: when the last record was sent and how many were folded since. -/
structure Fold where
  open_ : Bool := false
  at_ : Nat := 0
  folded : Nat := 0
  deriving DecidableEq, Repr

/-- An injection (R450). -/
structure Inject where
  live : Bool := false
  kind : Nat := 0
  unit : Nat := 0
  fault : Nat := 0
  left : Nat := 0
  periodUs : Nat := 0
  lastAt : Nat := 0
  armed : Nat := 0
  deriving DecidableEq, Repr

/-- The Governor and its tables (R433-R453). -/
structure Gov where
  state : Nat := 0
  units : KMap UnitH := []
  folds : KMap Fold := []
  injects : KMap Inject := []
  nextInject : Nat := 0
  ovf : KMap Nat := []
  ovfFull : Bool := false
  ovfPend : List Nat := []
  mappedOut : List Nat := []
  mapOutVstep : KMap Nat := []
  deriving DecidableEq, Repr

/-- The state of the device. `cw` holds the software-written parts of the control words by address, `stats` the statistics counters by the address of their word. `wire` is what was handed to the ports, oldest first (log entry 4). `free` numbers the free values (log entry 5). -/
structure State where
  pending : List Instr := []
  cw : KMap Word := []
  stats : KMap Nat := []
  pwr : Pwr := {}
  nor : Nor := {}
  store : Store := {}
  kt : Kt := {}
  home : Home := {}
  core : Core := {}
  eng : Eng3 := {}
  sec : Sec := {}
  mach : Mach := {}
  gov : Gov := {}
  wire : List TxFrame := []
  free : Nat := 0
  deriving DecidableEq, Repr

/-- The image slot the factory ships active and valid (R398; log entry 3). -/
def factoryImage : ImgSlot := { istate := 4, bytes := [] }

/-- The device with the power-good input low, before its first rise: every field at its reset value, and the NOR as the maker ships it (R392; log entries 2 and 3). -/
def State.reset : State :=
  { nor := { images := [(0, factoryImage)] } }

end Sys2Proof.Machine
end

