-- ==== Sys2Proof/Machine/Regs.lean ====
section
/-! DEFINITION. The control words (R10, R11, R28): the name and address of every word, its fields with their access codes, its reset value, the rule a written word must meet (R361), and the readers of configuration fields. -/

namespace Sys2Proof.Machine

/-- Bits [h:l] of a number (R8). -/
def bits (n h l : Nat) : Nat := n / 2 ^ l % 2 ^ (h + 1 - l)

/-- A number with bits [h:l] replaced. -/
def setBits (n h l v : Nat) : Nat :=
  n % 2 ^ l + (v % 2 ^ (h + 1 - l)) * 2 ^ l + n / 2 ^ (h + 1) * 2 ^ (h + 1)

/-- A field placed at bit `l`. -/
def at' (l v : Nat) : Nat := v * 2 ^ l

/-- One bit of a number. -/
def bit (n i : Nat) : Bool := n / 2 ^ i % 2 = 1

/-- A truth value as a bit. -/
def b2n (b : Bool) : Nat := if b then 1 else 0

/-- Access codes of Table 0.3. -/
inductive Acc where
  | ro | rw | w1c | wo | rwl
  deriving DecidableEq, Repr

/-- A field of a control word: its bits, its access code, and whether its Reset entry is strap (R11). -/
structure Fld where
  hi : Nat
  lo : Nat
  acc : Acc
  strap : Bool
  deriving DecidableEq, Repr

/-- The control words. `stat` is a statistics word laid out as Table 5.14, named by its address. -/
inductive Reg where
  | bayBeat (b : Nat)
  | coreRail (q : Nat)
  | island (i : Nat)
  | tierQuota (n t : Nat)
  | tierCfg
  | tierPolicy
  | millpondCfg
  | sluiceStat (q : Nat)
  | millpondStat (q : Nat)
  | portCfg (p : Nat)
  | portStat (p : Nat)
  | serdesLane (l : Nat)
  | peerReach (k : Nat)
  | ktCfg
  | planeCfg (x : Nat)
  | routeHi (x : Nat)
  | routeLo (x : Nat)
  | routeGw (x : Nat)
  | txnCfg
  | weirCfg
  | weirLimit (n : Nat)
  | weirLevels
  | weirPlane
  | cohCfg
  | dirProbe
  | dirResult0
  | dirResult1
  | cohSlice (b : Nat)
  | scratchWin (n : Nat)
  | coreStatus
  | coreFlags (n : Nat)
  | streamCfg
  | streamPart (n : Nat)
  | seqStatus
  | orderMode (n : Nat)
  | qnStat (u : Nat)
  | qnGroups
  | hoistSteps
  | hoistSlice (b : Nat)
  | hotTable (h : Nat)
  | hotList (h : Nat)
  | hotCtrl (h : Nat)
  | bolterStatus
  | bolterSlice (b : Nat)
  | felsetCfg
  | cmdEngine (h : Nat)
  | partCfg (n : Nat)
  | partStat (n : Nat)
  | nodeCert (i : Nat)
  | secCfg
  | secStatus
  | setSlot (s : Nat)
  | setState (s : Nat)
  | machineSelf
  | fantail
  | liveCfg
  | homeMap (k : Nat)
  | govCfg
  | healthStatus
  | ctrOvf (i : Nat)
  | pwrStatus
  | pwrCfg
  | furlCfg
  | timestamp
  | setEpoch (s : Nat)
  | fenceMap (k : Nat)
  | auditNext
  | auditBase
  | auditAcked
  | hlogNext
  | hlogBase
  | stat (addr : Nat)
  deriving DecidableEq, Repr

/-- `some (i - lo)` where `i` lies in `n` places from `lo`. -/
def inRange (i lo n : Nat) : Option Nat := if lo ≤ i ∧ i < lo + n then some (i - lo) else none

/-- The statistics words of R126, R165, R192, R224, R255, R292, R322, R349, R367, R402, R422 and R453: first address and count. -/
def statRanges : List (Nat × Nat) :=
  [(0x040020, 13), (0x040120, 13), (0x060020, 10), (0x070020, 11), (0x080020, 7), (0x090020, 10),
   (0x0A0020, 9), (0x0D0230, 7), (0x0B0020, 7), (0x0C0020, 9), (0x0D0020, 15)]

/-- Words of one address. -/
def regSingle : List (Nat × Reg) :=
  [(0x010000, .timestamp), (0x020000, .tierCfg), (0x020001, .tierPolicy), (0x020002, .millpondCfg),
   (0x040000, .ktCfg), (0x040100, .txnCfg), (0x050000, .weirCfg), (0x050010, .weirLevels),
   (0x050011, .weirPlane), (0x060000, .cohCfg), (0x060010, .dirProbe), (0x060011, .dirResult0),
   (0x060012, .dirResult1), (0x070000, .coreStatus), (0x070010, .seqStatus), (0x070300, .streamCfg)] ++
  [(0x080000, .qnGroups), (0x090000, .hoistSteps), (0x0A0000, .bolterStatus), (0x0B0100, .secCfg),
   (0x0B0101, .secStatus), (0x0C0000, .machineSelf), (0x0C0001, .fantail), (0x0C0002, .liveCfg),
   (0x0D0000, .govCfg), (0x0D0001, .healthStatus), (0x0D0200, .felsetCfg), (0x0D0220, .auditNext),
   (0x0D0221, .auditBase), (0x0D0222, .auditAcked), (0x0D0300, .hlogNext), (0x0D0301, .hlogBase)] ++
  [(0x0E0000, .pwrStatus), (0x0E0001, .pwrCfg), (0x0E0002, .furlCfg)]

/-- Words by index: first address, count of places, and the word at a place. -/
def regArray (a : Nat) : Option Reg :=
  let r (lo n : Nat) (f : Nat → Option Reg) : Option Reg := (inRange a lo n).bind f
  (r 0x010100 64 fun i => some (.island i))
  <|> (r 0x020010 4 fun q => some (.sluiceStat q))
  <|> (r 0x020020 4 fun q => some (.millpondStat q))
  <|> (r 0x021000 128 fun k => if k % 4 = 0 then none else some (.tierQuota (k / 4) (k % 4)))
  <|> (r 0x030000 8 fun p => some (.portCfg p))
  <|> (r 0x030010 8 fun p => some (.portStat p))
  <|> (r 0x030100 64 fun l => some (.serdesLane l))
  <|> (r 0x040010 8 fun k => match k % 4 with
        | 0 => some (.planeCfg (k / 4)) | 1 => some (.routeHi (k / 4))
        | 2 => some (.routeLo (k / 4)) | _ => some (.routeGw (k / 4)))
  <|> (r 0x044000 8192 fun k => some (.peerReach k))
  <|> (r 0x050100 32 fun n => some (.weirLimit n))
  <|> (r 0x060100 16 fun b => some (.cohSlice b))
  <|> (r 0x070100 32 fun n => some (.coreFlags n))
  <|> (r 0x070200 32 fun n => some (.scratchWin n))
  <|> (r 0x070400 32 fun n => some (.streamPart n))
  <|> (r 0x070500 32 fun n => some (.orderMode n))
  <|> (r 0x080100 256 fun u => some (.qnStat u))
  <|> (r 0x090100 16 fun b => some (.hoistSlice b))
  <|> (r 0x090200 64 fun k => match k % 4 with
        | 0 => some (.hotTable (k / 4)) | 1 => some (.hotList (k / 4))
        | 2 => some (.hotCtrl (k / 4)) | _ => none)
  <|> (r 0x0A0100 16 fun b => some (.bolterSlice b))
  <|> (r 0x0B0000 32 fun n => some (.partCfg n))
  <|> (r 0x0B0040 32 fun n => some (.partStat n))
  <|> (r 0x0B0400 98 fun i => some (.nodeCert i))
  <|> (r 0x0C0100 64 fun k => match k % 4 with
        | 0 => some (.setSlot (k / 4)) | 1 => some (.setState (k / 4))
        | 2 => some (.setEpoch (k / 4)) | _ => none)
  <|> (r 0x0C1000 4096 fun k => some (.homeMap k))
  <|> (r 0x0C2000 1024 fun k => some (.fenceMap k))
  <|> (r 0x0D0100 16 fun b => some (.bayBeat b))
  <|> (r 0x0D0210 2 fun h => some (.cmdEngine h))
  <|> (r 0x0D0400 64 fun i => some (.ctrOvf i))
  <|> (r 0x0E0010 4 fun q => some (.coreRail q))

/-- The control word at an address; none where no word has that address. -/
def regAt (a : Nat) : Option Reg :=
  ((regSingle.find? fun p => p.1 = a).map (·.2))
  <|> (if statRanges.any (fun p => decide (p.1 ≤ a ∧ a < p.1 + p.2)) then some (.stat a) else none)
  <|> regArray a

/-- The fields of a word but the reserved ones, from the highest bit down. -/
def Reg.fields : Reg → List Fld
  | .bayBeat _ => [⟨59, 48, .ro, false⟩, ⟨47, 0, .ro, false⟩]
  | .coreRail _ => [⟨51, 42, .ro, false⟩, ⟨41, 32, .ro, false⟩, ⟨31, 24, .ro, false⟩, ⟨17, 16, .ro, false⟩, ⟨9, 0, .rwl, false⟩]
  | .island _ => [⟨47, 32, .ro, false⟩, ⟨5, 4, .ro, false⟩, ⟨2, 0, .ro, false⟩]
  | .tierQuota _ _ => [⟨63, 34, .rwl, false⟩, ⟨33, 0, .ro, false⟩]
  | .tierCfg => [⟨62, 42, .rwl, true⟩, ⟨41, 21, .ro, true⟩, ⟨20, 7, .rwl, false⟩]
  | .tierPolicy => [⟨47, 40, .rwl, false⟩, ⟨39, 32, .rwl, false⟩, ⟨31, 24, .rwl, false⟩, ⟨23, 16, .rwl, false⟩, ⟨15, 8, .rwl, false⟩, ⟨7, 0, .rwl, false⟩]
  | .millpondCfg => [⟨47, 32, .rwl, false⟩, ⟨31, 16, .rwl, false⟩]
  | .sluiceStat _ => [⟨63, 56, .ro, false⟩, ⟨55, 48, .ro, false⟩, ⟨47, 0, .ro, false⟩]
  | .millpondStat _ => [⟨63, 61, .ro, false⟩, ⟨60, 54, .ro, false⟩, ⟨47, 24, .ro, false⟩, ⟨23, 0, .ro, false⟩]
  | .portCfg _ => [⟨31, 18, .rwl, false⟩, ⟨17, 16, .rwl, true⟩, ⟨15, 14, .rwl, true⟩, ⟨13, 13, .rwl, false⟩]
  | .portStat _ => [⟨39, 32, .ro, false⟩, ⟨31, 0, .ro, false⟩]
  | .serdesLane _ => [⟨63, 62, .ro, false⟩, ⟨47, 0, .ro, false⟩]
  | .peerReach _ => [⟨63, 56, .rwl, true⟩, ⟨55, 48, .rwl, true⟩, ⟨47, 40, .rwl, true⟩, ⟨39, 32, .rwl, true⟩, ⟨31, 24, .rwl, true⟩, ⟨23, 16, .rwl, true⟩, ⟨15, 8, .rwl, true⟩, ⟨7, 0, .rwl, true⟩]
  | .ktCfg => [⟨63, 48, .rwl, false⟩, ⟨47, 32, .rwl, false⟩, ⟨31, 24, .rwl, false⟩, ⟨23, 16, .rwl, false⟩, ⟨15, 12, .rwl, false⟩, ⟨11, 0, .rwl, false⟩]
  | .planeCfg _ => [⟨63, 32, .rwl, true⟩, ⟨31, 29, .rwl, false⟩, ⟨28, 26, .rwl, false⟩, ⟨23, 12, .rwl, true⟩, ⟨11, 0, .rwl, true⟩]
  | .routeHi _ => [⟨63, 0, .rwl, true⟩]
  | .routeLo _ => [⟨63, 16, .rwl, true⟩, ⟨15, 8, .rwl, false⟩]
  | .routeGw _ => [⟨61, 48, .rwl, false⟩, ⟨47, 0, .rwl, true⟩]
  | .txnCfg => [⟨63, 54, .rwl, false⟩, ⟨53, 40, .rwl, false⟩, ⟨39, 39, .rwl, false⟩]
  | .weirCfg => [⟨7, 0, .rwl, false⟩]
  | .weirLimit _ => [⟨63, 52, .rwl, false⟩, ⟨51, 38, .rwl, false⟩, ⟨37, 22, .rwl, false⟩]
  | .weirLevels => [⟨63, 0, .ro, false⟩]
  | .weirPlane => [⟨8, 8, .ro, false⟩, ⟨7, 4, .ro, false⟩, ⟨3, 0, .ro, false⟩]
  | .cohCfg => [⟨16, 7, .rwl, false⟩, ⟨0, 0, .rwl, false⟩]
  | .dirProbe => [⟨49, 6, .rwl, false⟩]
  | .dirResult0 => [⟨63, 63, .ro, false⟩, ⟨62, 60, .ro, false⟩, ⟨59, 59, .ro, false⟩, ⟨58, 58, .ro, false⟩, ⟨57, 55, .ro, false⟩, ⟨54, 48, .ro, false⟩, ⟨47, 44, .ro, false⟩, ⟨31, 16, .ro, false⟩, ⟨15, 0, .ro, false⟩]
  | .dirResult1 => [⟨63, 0, .ro, false⟩]
  | .cohSlice _ => [⟨63, 62, .ro, false⟩, ⟨51, 32, .ro, false⟩, ⟨31, 12, .ro, false⟩]
  | .scratchWin _ => [⟨15, 8, .rwl, false⟩, ⟨7, 0, .rwl, false⟩]
  | .coreStatus => [⟨43, 32, .ro, false⟩, ⟨26, 16, .ro, false⟩, ⟨15, 0, .ro, false⟩]
  | .coreFlags _ => [⟨5, 5, .w1c, false⟩, ⟨4, 4, .w1c, false⟩, ⟨3, 3, .w1c, false⟩, ⟨2, 2, .w1c, false⟩, ⟨1, 1, .w1c, false⟩, ⟨0, 0, .w1c, false⟩]
  | .streamCfg => [⟨31, 16, .rwl, false⟩]
  | .streamPart _ => [⟨63, 56, .rwl, false⟩, ⟨55, 51, .ro, false⟩, ⟨50, 49, .ro, false⟩, ⟨31, 0, .ro, false⟩]
  | .seqStatus => [⟨63, 32, .ro, false⟩, ⟨31, 27, .ro, false⟩, ⟨26, 26, .ro, false⟩, ⟨25, 17, .ro, false⟩]
  | .orderMode _ => [⟨0, 0, .rwl, false⟩]
  | .qnStat _ => [⟨63, 62, .ro, false⟩, ⟨61, 55, .ro, false⟩, ⟨47, 0, .ro, false⟩]
  | .qnGroups => [⟨8, 0, .ro, false⟩]
  | .hoistSteps => [⟨6, 0, .ro, false⟩]
  | .hoistSlice _ => [⟨63, 62, .ro, false⟩, ⟨57, 44, .ro, false⟩, ⟨43, 31, .ro, false⟩, ⟨16, 0, .ro, false⟩]
  | .hotTable _ => [⟨63, 6, .rwl, false⟩]
  | .hotList _ => [⟨63, 6, .rwl, false⟩]
  | .hotCtrl _ => [⟨63, 63, .rwl, false⟩, ⟨62, 62, .ro, false⟩, ⟨47, 32, .rwl, false⟩, ⟨20, 0, .rwl, false⟩]
  | .bolterStatus => [⟨21, 13, .ro, false⟩, ⟨12, 0, .ro, false⟩]
  | .bolterSlice _ => [⟨63, 62, .ro, false⟩, ⟨12, 0, .ro, false⟩]
  | .felsetCfg => [⟨31, 20, .rwl, false⟩, ⟨19, 13, .rwl, false⟩]
  | .cmdEngine _ => [⟨63, 62, .ro, false⟩, ⟨61, 55, .ro, false⟩, ⟨54, 48, .ro, false⟩, ⟨47, 32, .ro, false⟩]
  | .partCfg _ => [⟨31, 16, .rwl, false⟩]
  | .partStat _ => [⟨63, 63, .ro, false⟩, ⟨52, 32, .ro, false⟩, ⟨31, 0, .ro, false⟩]
  | .nodeCert _ => [⟨63, 0, .rwl, true⟩]
  | .secCfg => [⟨7, 0, .rwl, false⟩]
  | .secStatus => [⟨63, 61, .ro, false⟩, ⟨60, 60, .ro, true⟩, ⟨52, 32, .ro, false⟩, ⟨31, 27, .ro, false⟩, ⟨16, 0, .ro, false⟩]
  | .setSlot _ => [⟨63, 48, .rwl, false⟩, ⟨47, 43, .rwl, false⟩, ⟨41, 21, .rwl, false⟩, ⟨20, 0, .rwl, false⟩]
  | .setState _ => [⟨63, 61, .ro, false⟩, ⟨60, 56, .ro, false⟩, ⟨55, 51, .ro, false⟩, ⟨32, 0, .ro, false⟩]
  | .machineSelf => [⟨61, 48, .ro, true⟩, ⟨47, 32, .ro, true⟩, ⟨29, 16, .rwl, true⟩, ⟨15, 0, .rwl, true⟩]
  | .fantail => [⟨63, 62, .ro, false⟩, ⟨61, 61, .ro, false⟩, ⟨60, 60, .wo, false⟩, ⟨31, 0, .ro, false⟩]
  | .liveCfg => [⟨31, 15, .rwl, false⟩, ⟨7, 0, .rwl, false⟩]
  | .homeMap _ => [⟨63, 48, .rwl, true⟩, ⟨47, 32, .rwl, true⟩, ⟨31, 16, .rwl, true⟩, ⟨15, 0, .rwl, true⟩]
  | .govCfg => [⟨63, 48, .rwl, false⟩, ⟨47, 40, .rwl, false⟩, ⟨39, 37, .rwl, false⟩, ⟨36, 36, .rwl, false⟩, ⟨28, 16, .rwl, false⟩]
  | .healthStatus => [⟨63, 63, .ro, false⟩, ⟨51, 40, .ro, false⟩, ⟨33, 32, .ro, false⟩, ⟨31, 16, .ro, false⟩, ⟨15, 0, .ro, false⟩]
  | .ctrOvf _ => [⟨63, 63, .w1c, false⟩, ⟨23, 0, .ro, false⟩]
  | .pwrStatus => [⟨63, 61, .ro, false⟩, ⟨60, 56, .ro, false⟩, ⟨55, 52, .ro, false⟩, ⟨51, 49, .ro, false⟩, ⟨48, 44, .ro, false⟩, ⟨43, 32, .ro, false⟩, ⟨31, 16, .ro, false⟩]
  | .pwrCfg => [⟨52, 42, .rwl, false⟩, ⟨41, 34, .rwl, false⟩]
  | .furlCfg => [⟨5, 3, .rwl, false⟩, ⟨2, 0, .rwl, false⟩]
  | .timestamp | .setEpoch _ | .fenceMap _ => [⟨63, 0, .ro, false⟩]
  | .auditNext | .auditBase | .auditAcked | .hlogNext | .hlogBase => [⟨47, 0, .ro, true⟩]
  | .stat _ => [⟨47, 0, .ro, false⟩]

/-- A word's software-written and in-effect fields after power-up reset: the numeric Reset values, and for strap fields the factory straps of R392 (log entries 3 and 9). Fields that the device composes read through `cwRead` and are 0 here. -/
def Reg.reset : Reg → Nat
  | .coreRail _ => 0x320
  | .tierCfg => 0x4000020000003200
  | .tierPolicy => 0x200802020208
  | .millpondCfg => 0x1F40BB80000
  | .portCfg _ => 0x90006000
  | .ktCfg => 0x88B5C4B504643400
  | .planeCfg _ => 0x200000078001002
  | .routeLo _ => 0x4000
  | .routeGw _ => 0x2328000000000000
  | .txnCfg => 0x501900000000000
  | .weirCfg => 0xA
  | .weirLimit _ => 0x1007D00100000000
  | .cohCfg => 0x1901
  | .streamCfg => 0x3E80000
  | .hotCtrl _ => 0x3E800000000
  | .felsetCfg => 0x384B4000
  | .partCfg _ => 0xFFFF0000
  | .secCfg => 0x40
  | .setSlot _ => 0xFFFF000000000000
  | .machineSelf => 0xFFFE0000FFFE
  | .liveCfg => 0x64000A
  | .homeMap _ => 0xFFFFFFFFFFFFFFFF
  | .govCfg => 0xFFFF18201FFE0000
  | .pwrCfg => 0x1771A400000000
  | .furlCfg => 0x4
  | _ => 0

/-- What the word at an address holds when nothing has written it. -/
def cwReset (a : Nat) : Word :=
  match regAt a with
  | some r => BitVec.ofNat 64 r.reset
  | none => 0

/-- The stored part of the word at an address. -/
def cwRaw (s : State) (a : Nat) : Nat := (kget (cwReset a) s.cw a).toNat

/-- A stored field. -/
def cfg (s : State) (a h l : Nat) : Nat := bits (cwRaw s a) h l

/-- Set the stored part of a word. -/
def cwStore (a v : Nat) (s : State) : State :=
  { s with cw := kput (cwReset a) s.cw a (BitVec.ofNat 64 v) }

/-- Set a stored field. -/
def cwSetField (a h l v : Nat) (s : State) : State :=
  cwStore a (setBits (cwRaw s a) h l v) s

/-- The mask of the fields with a property. -/
def Reg.mask (r : Reg) (p : Fld → Bool) : Nat :=
  (r.fields.filter p).foldl (fun m f => m + (2 ^ (f.hi + 1) - 2 ^ f.lo)) 0

/-- `lo ≤ x ≤ hi`. -/
def within (x lo hi : Nat) : Bool := decide (lo ≤ x ∧ x ≤ hi)

/-- A MAC prefix has its locally administered bit set and its group bit clear (R105). -/
def macPrefixOk (x : Nat) : Bool := bit x 25 && !bit x 24

/-- The fields of a word whose values break the rules of their map, as the word would stand after a write (R361). Rules that name other state are checked where that state is. -/
def Reg.valid (r : Reg) (w : Nat) : Bool :=
  match r with
  | .coreRail _ => within (bits w 9 0) 650 950 && bits w 9 0 % 5 = 0
  | .tierCfg => within (bits w 62 42) 1 1048576 && within (bits w 20 7) 10 10000
  | .tierPolicy => within (bits w 47 40) 1 255 && within (bits w 31 24) 1 20 && within (bits w 23 16) 1 20
      && within (bits w 15 8) 1 20 && within (bits w 7 0) 1 16
  | .millpondCfg => within (bits w 47 32) 50 10000 && within (bits w 31 16) 1 65535
  | .portCfg _ => within (bits w 31 18) 1518 9216 && within (bits w 17 16) 0 1
  | .peerReach _ => (List.range 8).all fun j =>
      let b := bits w (8 * j + 7) (8 * j)
      decide (bits b 3 2 ≠ 3) && decide (bits b 1 0 ≠ 3)
  | .ktCfg =>
      decide (0x0600 ≤ bits w 63 48)
      && !([0x0800, 0x86DD, 0x8100, 0x88A8, 0x88E5, 0x8809].contains (bits w 63 48))
      && within (bits w 47 32) 1024 65535 && within (bits w 31 24) 1 64
      && within (bits w 23 16) 10 255 && decide (bits w 31 24 ≤ bits w 23 16)
      && within (bits w 15 12) 1 15 && within (bits w 11 0) 64 4095
  | .planeCfg _ => macPrefixOk (bits w 63 32) && within (bits w 23 12) 1 4094
      && within (bits w 11 0) 1 4094 && decide (bits w 23 12 ≠ bits w 11 0)
  | .routeLo _ => within (bits w 15 8) 1 255
  | .routeGw _ => within (bits w 61 48) 1280 9000
  | .txnCfg => within (bits w 63 54) 2 1000 && within (bits w 53 40) 150 10000
      && decide (bits w 63 54 ≤ bits w 53 40)
  | .weirCfg => within (bits w 7 0) 1 100
  | .weirLimit _ => within (bits w 63 52) 1 4095 && within (bits w 51 38) 1 8000
      && within (bits w 37 22) 1 65535
  | .cohCfg => within (bits w 16 7) 5 1000
  | .scratchWin _ => within (bits w 15 8) 0 191 && within (bits w 7 0) 0 192
      && decide (bits w 15 8 + bits w 7 0 ≤ 192)
  | .streamCfg => within (bits w 31 16) 100 10000
  | .hotCtrl _ => within (bits w 47 32) 100 60000
  | .felsetCfg => within (bits w 31 20) 10 3600 && within (bits w 19 13) 50 99
  | .secCfg => within (bits w 7 0) 8 128
  | .setSlot _ => decide (bits w 20 0 ≤ 65536) && (decide (bits w 63 48 = 0xFFFF) || decide (1 ≤ bits w 20 0))
  | .liveCfg => within (bits w 31 15) 20 100000 && within (bits w 7 0) 1 50
  | .govCfg => within (bits w 47 40) 1 168 && within (bits w 39 37) 0 4
  | .pwrCfg => within (bits w 52 42) 600 1500 && within (bits w 41 34) 85 105
  | .furlCfg => within (bits w 5 3) 0 3 && within (bits w 2 0) 4 7
  | _ => true

/-! ### Readers of configuration -/

def mapExtents (s : State) : Nat := cfg s 0x020000 41 21
def homeIndex (s : State) : Nat := cfg s 0x0C0000 61 48
def nodeId (s : State) : Nat := cfg s 0x0C0000 47 32
def notifyNode (s : State) (p : Nat) : Nat := cfg s (0x0B0000 + p) 31 16
def eventNode (s : State) : Nat := cfg s 0x0D0000 63 48
def evtEnabled (s : State) (cls : Nat) : Bool := bit (cfg s 0x0D0000 28 16) cls
def loadDeadline (s : State) : Nat := cfg s 0x040100 63 54 * 1000
def flashDeadline (s : State) : Nat := cfg s 0x040100 53 40 * 1000
def snoopLimit (s : State) : Nat := cfg s 0x060000 16 7 * 1000
def rtoMin (s : State) : Nat := cfg s 0x040000 31 24 * 1000
def rtoMax (s : State) : Nat := cfg s 0x040000 23 16 * 1000
def retxLimit (s : State) : Nat := cfg s 0x040000 15 12
def rxWindow (s : State) : Nat := cfg s 0x040000 11 0
def quota (s : State) (p t : Nat) : Nat := cfg s (0x021000 + 4 * p + t) 63 34
def maxOut (s : State) (p : Nat) : Nat := cfg s (0x050100 + p) 63 52
def weirRate (s : State) (p : Nat) : Nat := cfg s (0x050100 + p) 51 38
def weirBurst (s : State) (p : Nat) : Nat := cfg s (0x050100 + p) 37 22
def swBase (s : State) (p : Nat) : Nat := cfg s (0x070200 + p) 15 8
def swSize (s : State) (p : Nat) : Nat := cfg s (0x070200 + p) 7 0
def liveBound (s : State) : Nat := cfg s 0x0C0002 31 15 * 1000
/-- REBUILD_RATE in bytes a nanosecond (Table 15.10). -/
def rebuildRate (s : State) : Nat := cfg s 0x0C0002 7 0

/-- The PEER_REACH byte of a node (Table 4.6). -/
def reachByte (s : State) (n : Nat) : Nat :=
  cfg s (0x044000 + n / 8) (8 * (n % 8) + 7) (8 * (n % 8))

/-- Reach of a node on a plane: 0 none, 1 within one stage, 2 routed (R106). -/
def reach (s : State) (n plane : Nat) : Nat :=
  if plane = 0 then bits (reachByte s n) 1 0 else bits (reachByte s n) 3 2

/-- HOME_MAP: the node that serves a home index (R403). -/
def homeNode (s : State) (h : Nat) : Nat :=
  cfg s (0x0C1000 + h / 4) (16 * (h % 4) + 15) (16 * (h % 4))

end Sys2Proof.Machine
end

