-- ==== Sys2Proof/Machine/Records.lean ====
section
/-! DEFINITION. The octets of records and frames: Tables 4.8 to 4.11, 5.1, 5.2, 8.14, 13.2, 14.10 and 16.2 (R7, R105, R109, R114, R123, R124, R127). -/

namespace Sys2Proof.Machine

/-! ### Records (R114, R127, R393) -/

/-- The unit of LEN (R114). -/
def lenUnit (op : Nat) : Nat := if op = 0x70 ∨ op = 0x71 then 64 else 8

/-- A record padded with zeros to its length's unit, with LEN in byte 1 (R114, R129). -/
def Rec.frame (op : Nat) (rest : List Byte) : List Byte :=
  let u := lenUnit op
  let n := (2 + rest.length + u - 1) / u
  leBytes 1 op ++ leBytes 1 n ++ rest ++ List.replicate (u * n - 2 - rest.length) 0

/-- Bytes 0-1,207 of a SESSION_OPEN (Table 14.10). -/
def openBody (seq0 : Nat) (nonce cert ehalf : List Byte) : List Byte :=
  [0xF4, 199, 1, 0] ++ leBytes 4 seq0 ++ padTo 32 nonce ++ padTo 784 cert ++ padTo 384 ehalf

/-- Bytes 0-1,215 of a SESSION_ACCEPT. -/
def acceptBody (seq0 session : Nat) (nonce cert ehalf : List Byte) : List Byte :=
  [0xF5, 200, 1, 0] ++ leBytes 4 seq0 ++ leBytes 4 session ++ leBytes 4 0 ++ padTo 32 nonce ++ padTo 784 cert ++ padTo 384 ehalf

/-- The octets of a record. -/
def Rec.octets : Rec → List Byte
  | .resp op tag st level interim v p =>
    Rec.frame op (leBytes 1 (128 + 64 * b2n interim + level) ++ leBytes 1 st ++ leBytes 4 tag ++ leBytes 8 v ++ p)
  | .req op tag strict prt param addr p =>
    Rec.frame op (leBytes 1 (64 * b2n strict + prt) ++ leBytes 1 param ++ leBytes 4 tag ++ leBytes 8 addr ++ p)
  | .notify k st sid done pc v user fl prt cause =>
    Rec.frame 0x72 (leBytes 1 k ++ leBytes 1 st ++ leBytes 4 sid ++ leBytes 4 done ++ leBytes 4 pc ++ leBytes 8 v
      ++ leBytes 4 user ++ leBytes 1 fl ++ leBytes 1 prt ++ leBytes 1 cause ++ leBytes 1 0)
  | .event cl code k prt u ts hidx count st fl addr =>
    Rec.frame 0x73 (leBytes 1 cl ++ leBytes 1 code ++ leBytes 1 k ++ leBytes 1 prt ++ leBytes 2 u ++ leBytes 8 ts
      ++ leBytes 8 hidx ++ leBytes 2 count ++ leBytes 1 st ++ leBytes 1 fl ++ leBytes 4 0 ++ leBytes 8 addr)
  | .felset fop cseq fsid st level det aidx tag d =>
    Rec.frame 0x7F (leBytes 1 (128 + level) ++ leBytes 1 st ++ leBytes 4 cseq ++ leBytes 2 fop ++ leBytes 2 d.length
      ++ leBytes 4 fsid ++ padTo 16 tag ++ leBytes 4 det ++ leBytes 4 aidx ++ d)
  | .ack _ delay sacks =>
    Rec.frame 0xF0 (leBytes 1 sacks.length ++ leBytes 1 0 ++ leBytes 4 delay
      ++ sacks.flatMap fun r => leBytes 4 r.1 ++ leBytes 4 r.2)
  | .nack x => Rec.frame 0xF1 (leBytes 2 0 ++ leBytes 4 x)
  | .probe t x => Rec.frame 0xF2 (leBytes 2 0 ++ leBytes 4 t ++ leBytes 8 x)
  | .probeReply t x => Rec.frame 0xF3 (leBytes 2 0 ++ leBytes 4 t ++ leBytes 8 x)
  | .sessionOpen q n c e g => openBody q n c e ++ padTo 384 g
  | .sessionAccept q k n c e g => acceptBody q k n c e ++ padTo 384 g
  | .sessionClose r => Rec.frame 0xF6 (leBytes 1 r ++ leBytes 5 0)

/-- The opcode of a record. -/
def Rec.op : Rec → Nat
  | .resp op .. | .req op .. => op
  | .notify .. => 0x72
  | .event .. => 0x73
  | .felset .. => 0x7F
  | .ack .. => 0xF0
  | .nack _ => 0xF1
  | .probe .. => 0xF2
  | .probeReply .. => 0xF3
  | .sessionOpen .. => 0xF4
  | .sessionAccept .. => 0xF5
  | .sessionClose _ => 0xF6

/-- Length of a record (R114, Tables 4.9, 5.1, 8.14, 13.2, 14.10 and 16.2). -/
def Rec.bytes : Rec → Nat
  | .resp op _ _ _ _ _ p | .req op _ _ _ _ _ p => (16 + p.length + lenUnit op - 1) / lenUnit op * lenUnit op
  | .notify .. => 32
  | .event .. => 40
  | .felset _ _ _ _ _ _ _ _ d => (40 + d.length + 7) / 8 * 8
  | .ack _ _ l => 8 + 8 * l.length
  | .nack _ => 8
  | .probe .. | .probeReply .. => 16
  | .sessionOpen .. => 1592
  | .sessionAccept .. => 1600
  | .sessionClose _ => 8

/-! ### Frames (R114, R123) -/

/-- A frame's length from destination address to FCS: 46 bytes besides the records in a layer-2 frame of SESSION 0 and 70 in others; 110 and 126 when routed. -/
def TxFrame.len (f : TxFrame) : Nat :=
  f.rcd.bytes + (if f.route.isSome then 110 else 46) + (if f.sa.isNone then 0 else if f.route.isSome then 16 else 24)

/-- The KT header (Table 4.8). -/
def TxFrame.header (f : TxFrame) : List Byte :=
  leBytes 1 0x10
  ++ leBytes 1 (b2n f.mgmt + 2 * b2n f.route.isSome + 4 * b2n f.retx + 8 * f.plane + 16 * b2n f.seqd + 32 * b2n f.ord)
  ++ leBytes 2 (24 + f.rcd.bytes) ++ leBytes 2 f.src ++ leBytes 2 f.dst ++ leBytes 4 f.seq ++ leBytes 4 f.ack
  ++ leBytes 4 f.session ++ leBytes 1 1 ++ leBytes 1 0 ++ leBytes 2 f.rwnd

/-- The addresses and the C-tag, big-endian. -/
def TxFrame.outer (f : TxFrame) : List Byte :=
  beBytes 6 f.dstMac ++ beBytes 6 f.srcMac ++ beBytes 2 0x8100 ++ beBytes 2 (f.pcp * 8192 + f.vid)

/-- The frame check sequence: CRC-32, its low byte first. -/
def fcs (bs : List Byte) : List Byte :=
  leBytes 4 (2 ^ 32 - 1 - bs.foldl (fun c b => crcByte 0xEDB88320 8 (c ^^^ b.toNat)) (2 ^ 32 - 1))

/-- The octets of a layer-2 frame up to the FCS (R114, Tables 4.7 and 4.10). -/
def TxFrame.layer2 (a : Sa) (f : TxFrame) : List Byte :=
  let secure := beBytes 2 f.etype ++ f.header ++ f.rcd.octets
  match f.sa with
  | none => f.outer ++ secure
  | some k =>
    let aad := f.outer ++ beBytes 2 0x88E5 ++ beBytes 1 (0x4C + k % 4)
      ++ beBytes 1 (if secure.length < 48 then secure.length else 0) ++ beBytes 4 f.pn
    let e := gcmEnc a.key (xpnIv a.salt f.plane f.pn) aad secure
    aad ++ e.1 ++ e.2

/-- The one's-complement sum of 16-bit words (R123: the UDP checksum). -/
def onesSum : Nat → Nat → List Byte → Nat
  | 0, x, _ => x % 65535
  | n + 1, x, bs => onesSum n (x + beNat (slice bs 0 2)) (bs.drop 2)

/-- The UDP checksum over the IPv6 pseudo-header and the datagram; a sum of zero is sent as all ones. -/
def udpSum (r : Routing) (udp : List Byte) : Nat :=
  let m := beBytes 16 r.srcIp ++ beBytes 16 r.dstIp ++ beBytes 4 udp.length ++ beBytes 4 17 ++ udp
  65535 - onesSum ((m.length + 1) / 2) 0 m

/-- The octets of a routed frame up to the FCS (R123, R124, Table 4.11). -/
def TxFrame.routed (a : Sa) (r : Routing) (f : TxFrame) : List Byte :=
  let env := leBytes 1 (0x10 + 4 * (f.sa.getD 0 % 4)) ++ leBytes 3 0 ++ leBytes 4 f.session ++ leBytes 8 f.pn
  let plain := f.header ++ f.rcd.octets
  let body := match f.sa with
    | none => env ++ plain
    | some _ => let e := gcmEnc a.key (xpnIv a.salt (2 + f.plane) f.pn) env plain; env ++ e.1 ++ e.2
  let udp (sum : Nat) : List Byte :=
    beBytes 2 (49152 + (f.src ^^^ f.dst) % 16384) ++ beBytes 2 r.port ++ beBytes 2 (8 + body.length) ++ beBytes 2 sum ++ body
  f.outer ++ beBytes 2 0x86DD
  ++ beBytes 4 (6 * 2 ^ 28 + f.pcp * 8 * 2 ^ 20 + (f.src * 16 ^^^ f.dst) % 2 ^ 20)
  ++ beBytes 2 (8 + body.length) ++ beBytes 1 17 ++ beBytes 1 r.hop ++ beBytes 16 r.srcIp ++ beBytes 16 r.dstIp
  ++ udp (udpSum r (udp 0))

/-- The octets of a frame as they leave the port, under the SA that its `sa` names. -/
def TxFrame.octets (a : Sa) (f : TxFrame) : List Byte :=
  let bs := match f.route with
    | none => f.layer2 a
    | some r => f.routed a r
  bs ++ fcs bs

end Sys2Proof.Machine
end

