-- ==== Sys2Proof/Machine/Ops.lean ====
section
/-! DEFINITION. The shared operations: time, free values, statistics counters, the health log, events, sending on a context, bytes and poison of the range, and the tables of the store. -/

namespace Sys2Proof.Machine

/-! ### Updates of one unit of the state -/

def State.onPwr (f : Pwr → Pwr) (s : State) : State := { s with pwr := f s.pwr }
def State.onNor (f : Nor → Nor) (s : State) : State := { s with nor := f s.nor }
def State.onStore (f : Store → Store) (s : State) : State := { s with store := f s.store }
def State.onKt (f : Kt → Kt) (s : State) : State := { s with kt := f s.kt }
def State.onHome (f : Home → Home) (s : State) : State := { s with home := f s.home }
def State.onCore (f : Core → Core) (s : State) : State := { s with core := f s.core }
def State.onEng (f : Eng3 → Eng3) (s : State) : State := { s with eng := f s.eng }
def State.onSec (f : Sec → Sec) (s : State) : State := { s with sec := f s.sec }
def State.onMach (f : Mach → Mach) (s : State) : State := { s with mach := f s.mach }
def State.onGov (f : Gov → Gov) (s : State) : State := { s with gov := f s.gov }

/-! ### Status codes of Table 13.4 -/

def sOK : Nat := 0x00
def sRETRY : Nat := 0x01
def sDENIED : Nat := 0x02
def sBAD : Nat := 0x03
def sNORES : Nat := 0x04
def sREVOKED : Nat := 0x05
def sPOISONED : Nat := 0x06
def sDEAD : Nat := 0x07
def sCONFLICT : Nat := 0x08
def sSHORT : Nat := 0x09
def sABORTED : Nat := 0x0A
def sFENCED : Nat := 0x0B
def sQUOTA : Nat := 0x0C
def sTIMEOUT : Nat := 0x0D
def sNOSERV : Nat := 0x0E
def sDEGRADED : Nat := 0x0F
def sFAULT : Nat := 0x10

/-! ### Time and free values -/

/-- The half whose timestamp is authoritative and whose command engine answers (R50, R421): the holder, or while the token moves or none holds it the half that last held it. -/
def halfInCharge (s : State) : Nat :=
  match s.mach.holder with
  | .west => 0
  | .east => 1
  | _ => match s.mach.lastHolder with | .east => 1 | _ => 0

/-- The local timestamp in nanoseconds (R50). -/
def now (s : State) : Nat := if halfInCharge s = 0 then s.pwr.tsWest else s.pwr.tsEast

/-- `t + d` has come. -/
def elapsed (s : State) (t d : Nat) : Bool := decide (t + d ≤ now s)

/-- A fresh free value (log entry 5). -/
def freeVal (s : State) : Word × State :=
  (Config.freeWord s.free, { s with free := s.free + 1 })

/-- `n` bytes of Novva's DRBG (R385), and the state after the draw. -/
def drbgBytes (n : Nat) (s : State) : List Byte × State :=
  let k := (n + 7) / 8
  (((List.range k).flatMap fun i => leBytes 8 (Config.drbg (s.sec.drbg + i)).toNat).take n,
    s.onSec fun x => { x with drbg := x.drbg + k })

/-! ### Units, islands and health -/

def island (s : State) (i : Nat) : Island := kget {} s.pwr.islands i
def islandUp (s : State) (i : Nat) : Bool := (island s i).st = .running
def setIsland (i : Nat) (f : Island → Island) (s : State) : State :=
  s.onPwr fun p => { p with islands := kmod {} p.islands i f }
def rail (s : State) (q : Nat) : Rail := kget {} s.pwr.rails q
def setRail (q : Nat) (f : Rail → Rail) (s : State) : State :=
  s.onPwr fun p => { p with rails := kmod {} p.rails q f }
def inService (s : State) : Bool := s.pwr.pstate = .inService

/-- UNIT_KIND codes of R364. -/
def kBay : Nat := 0
def kLane : Nat := 1
def kQuern : Nat := 2
def kHome : Nat := 3
def kCols : Nat := 4
def kHoist : Nat := 5
def kBolter : Nat := 6
def kDdr : Nat := 7
def kNand : Nat := 8
def kSluice : Nat := 9
def kMillpond : Nat := 10
def kRail : Nat := 11
def kPort : Nat := 12
def kSerdes : Nat := 13
def kIsland : Nat := 14
def kHalf : Nat := 15
def kDevice : Nat := 16
def kNode : Nat := 0xFE
def kNone : Nat := 0xFF

/-- The number of units of each kind (Table 1.7, R364). -/
def unitCount (k : Nat) : Nat :=
  [16, 256, 256, 16, 16, 16, 16, 8, 16, 4, 4, 4, 8, 64, 64, 2, 5].getD k 0

/-- The key of a unit in the Governor's tables. -/
def unitKey (kind unit : Nat) : Nat := kind * 65536 + unit

def unitH (s : State) (k : Nat) : UnitH := kget {} s.gov.units k
def setUnitH (k : Nat) (f : UnitH → UnitH) (s : State) : State :=
  s.onGov fun g => { g with units := kmod {} g.units k f }
def hist (s : State) (k : Nat) : Hist := kget {} s.nor.hist k
def setHist (k : Nat) (f : Hist → Hist) (s : State) : State :=
  s.onNor fun n => { n with hist := kmod {} n.hist k f }

/-- A bay whose core part is out of service (R445). -/
def bayMapped (s : State) (b : Nat) : Bool := s.gov.mappedOut.contains b

/-- A unit that goes out of service with its bay's core part: the bay, its columns, its Hoist and Bolter slices (R34, R445). -/
def goesWithBay (kind : Nat) : Bool := kind = kBay || kind = kCols || kind = kHoist || kind = kBolter

/-- A unit is retired, or its bay is mapped out (R34). -/
def unitLost (s : State) (kind unit : Nat) : Bool :=
  let h := (unitH s (unitKey kind unit)).health
  h = .retired || h = .mappedOut || (goesWithBay kind && bayMapped s unit)

/-- HSTATE codes of Table 16.6. -/
def Health.code : Health → Nat
  | .clean => 0 | .suspect => 1 | .stepped => 2 | .retired => 3 | .pending => 4 | .mappedOut => 5

/-! ### Statistics counters (R448) -/

def statMax : Nat := 0xFFFFFFFFFFFF

/-- A counter that has just saturated takes a free CTR_OVF entry (R448). -/
def takeOvf (a : Nat) (s : State) : State :=
  match (List.range 64).find? fun i => !bit (kget 0 s.gov.ovf i) 63 with
  | some i => s.onGov fun g =>
      { g with ovf := kput 0 g.ovf i (2 ^ 63 + a), ovfPend := g.ovfPend ++ [a] }
  | none => s.onGov fun g => { g with ovfFull := true, ovfPend := g.ovfPend ++ [a] }

/-- Add to a counter; the OVERFLOW event of a saturation is raised by `bump`. -/
def addStat (a n : Nat) (s : State) : State :=
  let v := kget 0 s.stats a
  if n = 0 ∨ v = statMax then s
  else
    let w := min statMax (v + n)
    let s1 := { s with stats := kput 0 s.stats a w }
    if w = statMax then takeOvf a s1 else s1

def aKT (k : Nat) : Nat := 0x040020 + k
def aTXN (k : Nat) : Nat := 0x040120 + k
def aCOH (k : Nat) : Nat := 0x060020 + k
def aCORE (k : Nat) : Nat := 0x070020 + k
def aQN (k : Nat) : Nat := 0x080020 + k
def aHS (k : Nat) : Nat := 0x090020 + k
def aBL (k : Nat) : Nat := 0x0A0020 + k
def aSEC (k : Nat) : Nat := 0x0B0020 + k
def aSET (k : Nat) : Nat := 0x0C0020 + k
def aGOV (k : Nat) : Nat := 0x0D0020 + k
def aFS (k : Nat) : Nat := 0x0D0230 + k

/-! ### Sending (R107, R111, R117) -/

def ctx (s : State) (n : Nat) : Ctx := kget {} s.kt.ctxs n
def setCtx (n : Nat) (f : Ctx → Ctx) (s : State) : State :=
  s.onKt fun k => { k with ctxs := kmod {} k.ctxs n f }

/-- The home plane of a pair (R107). -/
def homePlane (s : State) (n : Nat) : Nat := (nodeId s ^^^ n) % 2

/-- The plane of a link: ports 0-3 face plane A. -/
def linkPlane (l : Nat) : Nat := if l < 16 then 0 else 1

def link (s : State) (l : Nat) : Link := kget {} s.kt.links l

/-- A link is in service: it is Up, and the MAC and SerDes islands of its port run (R47, R111). -/
def linkServes (s : State) (l : Nat) : Bool :=
  (link s l).st = .up && islandUp s (2 * (l / 4)) && islandUp s (2 * (l / 4) + 1)

/-- The links of a plane that are in service, in ascending order. -/
def linksUp (s : State) (plane : Nat) : List Nat :=
  (List.range 32).filter fun l => linkPlane l = plane && linkServes s l

/-- The link a context uses on a plane (R111). -/
def pickLink (s : State) (plane dst : Nat) : Option Nat :=
  let slots := (linksUp s plane).flatMap fun l => List.replicate (link s l).width l
  let h := (nodeId s ^^^ (dst * 0x9E37)) % 65536
  if slots.length = 0 then none else slots[h % slots.length]?

/-- A peer is reached by routed frames on a plane. -/
def routedOn (s : State) (n plane : Nat) : Bool := reach s n plane = 2

/-- The secure channel of a plane and form of carriage (Table 4.7, R124). -/
def chanOf (plane : Nat) (routed : Bool) : Nat := plane + 2 * b2n routed

/-- The longest frame that a link takes, from destination address to FCS (Table 4.2). -/
def maxFrame (s : State) (l : Nat) : Nat := cfg s (0x030000 + l / 4) 31 18

/-- The largest IPv6 packet of a plane (R125). -/
def routeMtu (s : State) (plane : Nat) : Nat := cfg s (0x040013 + 4 * plane) 61 48

/-- The MAC address of a node on a plane (R105). -/
def macOf (s : State) (plane n : Nat) : Nat := cfg s (0x040010 + 4 * plane) 63 32 * 65536 + n

/-- The IPv6 address of a node on a plane (R123). -/
def ipOf (s : State) (plane n : Nat) : Nat :=
  cfg s (0x040011 + 4 * plane) 63 0 * 2 ^ 64 + cfg s (0x040012 + 4 * plane) 63 16 * 65536 + n

/-- How a routed frame is carried (R123). -/
def routingTo (s : State) (plane n : Nat) : Routing :=
  { srcIp := ipOf s plane (nodeId s), dstIp := ipOf s plane n, hop := cfg s (0x040012 + 4 * plane) 15 8,
    port := cfg s 0x040000 47 32 }

/-- What a sender puts in a frame: its header's flags, its sequence number, whether it is a SESSION 0 frame (R488), and its record. -/
structure Load where
  seqd : Bool := true
  ord : Bool := false
  mgmt : Bool := false
  retx : Bool := false
  opening : Bool := false
  seq : Nat
  rcd : Rec

/-- The frame that carries a load to a node over a link (R105, R108, R109, R114, R123). -/
def frameOf (s : State) (n plane lnk : Nat) (x : Load) : TxFrame :=
  let c := ctx s n
  let routed := routedOn s n plane
  let t := kget {} c.tx (chanOf plane routed)
  let tag (h l : Nat) : Nat := cfg s (0x040010 + 4 * plane) h l
  { dst := n, src := nodeId s, plane := plane, link := lnk,
    dstMac := if routed then cfg s (0x040013 + 4 * plane) 47 0 else macOf s plane n,
    srcMac := macOf s plane (nodeId s),
    pcp := if x.mgmt then tag 28 26 else tag 31 29, vid := if x.mgmt then tag 11 0 else tag 23 12,
    etype := if routed then 0x86DD else cfg s 0x040000 63 48,
    route := if routed then some (routingTo s plane n) else none,
    sa := if x.opening then none else some t.sa, pn := if x.opening then 0 else t.pn + 1,
    mgmt := x.mgmt, seqd := x.seqd, ord := x.ord, retx := x.retx, seq := x.seq,
    ack := if x.opening then 0 else c.rcvNext, session := if x.opening then 0 else c.session,
    rwnd := rxWindow s, rcd := x.rcd }

/-- The frame fits its link, or its plane's routed packets (Table 4.2, R125). -/
def frameFits (s : State) (f : TxFrame) : Bool :=
  if f.route.isSome then decide (f.len ≤ routeMtu s f.plane + 22) else decide (f.len ≤ maxFrame s f.link)

/-- Hand a load to a port: nothing leaves where the plane has no link in service or the link cannot carry the frame. Each frame takes the next packet number of its channel (Table 4.7). -/
def emit (n plane : Nat) (x : Load) (s : State) : State :=
  match pickLink s plane n with
  | none => s
  | some l =>
    let f := frameOf s n plane l x
    if !frameFits s f then s
    else
      let s1 := addStat (aKT 0) 1 { s with wire := s.wire ++ [f] }
      if x.opening then s1
      else setCtx n (fun c => { c with lastSent := now s, tx := kmod {} c.tx (chanOf plane (routedOn s n plane)) fun t =>
        { t with pn := t.pn + 1 } }) s1

/-- Records that travel in a frame of their own without a sequence number (R115, R488). -/
def Rec.sequenced : Rec → Bool
  | .ack .. | .nack .. | .probe .. | .probeReply .. | .sessionOpen .. | .sessionAccept .. => false
  | _ => true

/-- Message records may travel routed, and so may the DENIED that answers another record which came routed (R125). -/
def Rec.message : Rec → Bool
  | .resp op _ st .. => decide (0x70 ≤ op) || decide (st = sDENIED)
  | .req op .. => decide (0x70 ≤ op)
  | _ => true

/-- A plane can carry a record to a peer: within one stage, or routed a message (R106, R125). A bootstrap session's frames are not bound by PEER_REACH. -/
def carries (s : State) (n plane : Nat) (r : Rec) : Bool :=
  (ctx s n).bootstrap || reach s n plane = 1 || (reach s n plane = 2 && r.message)

/-- The plane that a record to a peer takes: the context's, else the other one where only that can carry it. -/
def planeFor (s : State) (n : Nat) (r : Rec) : Option Nat :=
  let p := (ctx s n).plane
  if carries s n p r then some p else if carries s n (1 - p) r then some (1 - p) else none

/-- Serial-number arithmetic (R116): `a` precedes `b`. -/
def precedes (a b : Nat) : Bool := within ((b + 2 ^ 32 - a % 2 ^ 32) % 2 ^ 32) 1 (2 ^ 31 - 1)

/-- How far `b` lies after `a`. -/
def serialDist (a b : Nat) : Nat := (b % 2 ^ 32 + 2 ^ 32 - a % 2 ^ 32) % 2 ^ 32

/-- In an inclusive range of sequence numbers. -/
def inSack (x : Nat) (r : Nat × Nat) : Bool := decide (serialDist r.1 x ≤ serialDist r.1 r.2)

/-- The header's ACK, and the ranges of an ACK record, acknowledge what they cover (R119). -/
def acked (n : Nat) (sacks : List (Nat × Nat)) (s : State) : State :=
  setCtx n (fun c => { c with owed := c.owed.filter fun x => !(precedes x.1 c.rcvNext || sacks.any (inSack x.1)) }) s

/-- Send a held frame once more (or first), on a plane; the ACK rides in its header (R119). -/
def sendHeld (n : Nat) (h : Held) (plane : Nat) (s : State) : State :=
  if !carries s n plane h.rcd then s
  else
    let re := decide (0 < h.sends)
    let s1 := acked n [] (emit n plane { ord := h.ord, mgmt := h.mgmt, retx := re, seq := h.seq, rcd := h.rcd } s)
    let s2 := if re then addStat (aKT 2) 1 s1 else s1
    setCtx n (fun c => { c with held := c.held.map fun x => if x.seq = h.seq then
      { x with sends := x.sends + 1, sentAt := now s, plane := plane } else x }) s2

/-- The retransmit buffer has room for one more frame: what it holds is the KT header and record of every frame sent and not acknowledged (R110; log entry 17). -/
def txRoom (s : State) (h : Held) : Bool :=
  let size (x : Held) : Nat := 24 + x.rcd.bytes
  let used := (s.kt.ctxs.map fun p => ((p.2.held.filter fun x => decide (0 < x.sends)).map size).sum).sum
  decide (used + size h ≤ 33554432)

/-- The first frame that waits to be sent and that a plane can carry, with that plane. -/
def nextToSend (s : State) (n : Nat) : Option (Held × Nat) :=
  ((ctx s n).held.filter fun h => h.sends = 0).findSome? fun h => (planeFor s n h.rcd).map fun p => (h, p)

/-- Send waiting frames while they lie within the peer's window beyond its ACK and the retransmit buffer has room (R110, R117). -/
def flushCtx (n : Nat) : Nat → State → State
  | 0, s => s
  | fuel + 1, s =>
    let c := ctx s n
    match nextToSend s n with
    | some (h, p) =>
      if decide (serialDist c.sndAck h.seq < min c.rwnd 4095) && txRoom s h then flushCtx n fuel (sendHeld n h p s) else s
    | none => s

/-- Every context sends what now finds room (R110). -/
def flushAll (s : State) : State :=
  s.kt.ctxs.foldl (fun s p => flushCtx p.1 (p.2.held.filter fun h => h.sends = 0).length s) s

/-- Put a record in the context's next sequenced frame and send it. -/
def sendSeq (n : Nat) (rcd : Rec) (ord mgmt : Bool) (s : State) : State :=
  let c := ctx s n
  let h : Held := { seq := c.sndNext, ord := ord, mgmt := mgmt, rcd := rcd, plane := c.plane,
                    sentAt := now s, sends := 0 }
  let s1 := setCtx n (fun c => { c with held := c.held ++ [h], sndNext := (c.sndNext + 1) % 2 ^ 32 }) s
  flushCtx n ((ctx s1 n).held.length) s1

/-- Send a record in a frame that is not sequenced, on a plane that reaches the node; `sacks` are the ranges it acknowledges. -/
def sendPlain (n plane : Nat) (sacks : List (Nat × Nat)) (rcd : Rec) (s : State) : State :=
  if !carries s n plane rcd then s
  else acked n sacks (emit n plane { seqd := false, seq := (ctx s n).sndNext, rcd := rcd } s)

def fenced (s : State) (n : Nat) : Bool := kget false s.mach.fence n

/-- The node certificate in the words NODE_CERT (R391). -/
def nodeCert (s : State) : List Byte :=
  (List.range 98).flatMap fun i => leBytes 8 (cwRaw s (0x0B0400 + i))

/-- The first 8 bytes of SHA-256 of a modulus. -/
def signerOf (modulus : List Byte) : List Byte := (sha256 (padTo 384 modulus)).take 8

/-- The YM9's certificate: NODE_CERT, or self-signed before one is committed (R391, R392). -/
def ownCert (s : State) : List Byte :=
  if s.nor.certCommitted then nodeCert s
  else
    let body := [1, 1] ++ leBytes 2 (nodeId s) ++ leBytes 4 0 ++ signerOf Config.idModulus ++ padTo 384 Config.idModulus
    body ++ padTo 384 (Config.rsaSign body)

/-- The OPEN record of an open of the YM9's own (R393; log entry 7). -/
def ownOpenRec (o : OwnOpen) (s : State) : Rec :=
  let eh := Config.rsaEncrypt [] o.half
  .sessionOpen o.seq0 o.nonce (ownCert s) eh (Config.rsaSign (openBody o.seq0 o.nonce (ownCert s) eh))

/-- The plane a new context starts on (R107): its home plane where that is usable with no frame held, else the other. -/
def startPlane (s : State) (n : Nat) : Nat :=
  let h := homePlane s n
  if decide (reach s n h ≠ 0) && !(linksUp s h).isEmpty then h else 1 - h

/-- Send a frame of session 0 (R112, R488). -/
def emitOpenFrame (n plane seq0 : Nat) (rcd : Rec) (s : State) : State :=
  emit n plane { seqd := false, opening := true, seq := seq0, rcd := rcd } s

/-- Contexts held (R110). -/
def ctxCount (s : State) : Nat := (s.kt.ctxs.filter fun p => p.2.live).length

/-- Begin an open of the YM9's own toward a node, with a record that waits for the session (R112, R391, R488). Without a committed NODE_CERT none is opened and the record is dropped; so is one to a fenced node or one with no reach (Table 15.1). The open waits while the node's old context closes, or while every context is in use (R112). -/
def openOrQueue (n : Nat) (w : Rec × Bool × Bool) (s : State) : State :=
  let o := kget {} s.kt.ownOpens n
  if o.live then
    s.onKt fun k => { k with ownOpens := kput {} k.ownOpens n { o with queue := o.queue ++ [w] } }
  else if !s.nor.certCommitted || fenced s n || n = nodeId s || decide (s.pwr.pstate = .halted)
      || (decide (reach s n 0 = 0) && decide (reach s n 1 = 0)) then s
  else
    let (nonce, s1) := drbgBytes 32 s
    let (half, s2) := drbgBytes 32 s1
    let (q, s3) := drbgBytes 4 s2
    let p := startPlane s3 n
    let o' : OwnOpen := { live := true, nonce := nonce, half := half, seq0 := leNat q, plane := p,
                          sentAt := now s3, queue := [w],
                          waiting := (ctx s n).live || decide (16384 ≤ ctxCount s) }
    let s4 := s3.onKt fun k => { k with ownOpens := kput {} k.ownOpens n o' }
    if o'.waiting then s4 else
    emitOpenFrame n p (leNat q) (ownOpenRec o' s3) s4

/-- Send a record to a node: in its context, or after a session opened for it. The frame carries ORD 1 where R142 asks for it. A context that is closing takes no new request (R488); a NOTIFY or EVENT waits for the next session. -/
def sendRec (n : Nat) (rcd : Rec) (ord mgmt : Bool) (s : State) : State :=
  let c := ctx s n
  if !c.live then openOrQueue n (rcd, ord, mgmt) s
  else if c.bootstrap && !mgmt then s
  else match c.closing, rcd with
    | some _, .req .. => s
    | some _, .notify .. => openOrQueue n (rcd, ord, mgmt) s
    | some _, .event .. => openOrQueue n (rcd, ord, mgmt) s
    | _, _ => sendSeq n rcd ord mgmt s

/-! ### Health log and events (R433, R434) -/

/-- An event: class and code of Table 16.3, the unit or node, the partition, and what its records show. `nodes` names the recipients where a rule does; `force` marks decisions, changes of health state and injections, which are always logged. -/
structure Ev where
  cls : Nat
  code : Nat
  kind : Nat := kNone
  unit : Nat := 0
  part : Option Nat := none
  status : Nat := 0
  addr : Nat := 0
  detail : Nat := 0
  injected : Bool := false
  decision : Bool := false
  dry : Bool := false
  force : Bool := false
  nodes : Option (List Nat) := none

/-- PART of Tables 16.2 and 16.4. -/
def partByte (p : Option Nat) : Nat := match p with | some n => n | none => 0x80

/-- Entries of the health log. -/
def hlogCap : Nat := 128 * 1024

/-- Write a health-log entry; without the NOR link it counts in HLOG_LOST. The index is returned when written. -/
def hlogWrite (e : Ev) (s : State) : Option Nat × State :=
  if !islandUp s 62 then (none, addStat (aGOV 14) 1 s)
  else
    let h := unitH s (unitKey e.kind e.unit)
    let i := s.nor.hlogNext
    let base := if i - s.nor.hlogBase = hlogCap then s.nor.hlogBase + 1024 else s.nor.hlogBase
    let ent : HlogEnt :=
      { idx := i, ts := now s, boot := s.nor.boot, cls := e.cls, code := e.code, kind := e.kind,
        flags := b2n e.injected + 2 * b2n e.dry + 4 * b2n e.decision + 8 * halfInCharge s,
        unit := e.unit, part := partByte e.part, hstate := h.health.code,
        count := min 65535 ((h.counts.map (·.2)).sum), status := e.status, detail := e.detail,
        addr := e.addr }
    let s1 := s.onNor fun n =>
      { n with hlog := (n.hlog.filter fun x => decide (base ≤ x.idx)) ++ [ent], hlogNext := i + 1,
               hlogBase := base }
    let s2 := setUnitH (unitKey e.kind e.unit)
      (fun u => { u with lastHidx := i, logged := kput false u.logged e.cls true }) s1
    (some i, s2)

/-- An event is logged when it is a decision, a change of state, an injection, concerns a node or no unit, or is the first of its class against its unit in the window (R434). -/
def logsNow (e : Ev) (s : State) : Bool :=
  e.force || e.decision || e.kind = kNode || e.kind = kNone
    || !(kget false (unitH s (unitKey e.kind e.unit)).logged e.cls)

/-- The key under which events fold (R433). -/
def foldKey (e : Ev) : Nat :=
  ((unitKey e.kind e.unit) * 16 + e.cls) * 256 + partByte e.part

/-- The nodes an event's record goes to (R433). -/
def evTargets (e : Ev) (s : State) : List Nat :=
  let l := match e.nodes with
    | some ns => ns
    | none => match e.part with
      | some p => [notifyNode s p]
      | none => [eventNode s]
  l.filter fun n => decide (n ≠ 0xFFFF)

/-- Send the records of an event standing for `count` events. -/
def evSend (e : Ev) (count hidx : Nat) (ts : List Nat) (s : State) : State :=
  ts.foldl (fun s n =>
    sendRec n (.event e.cls e.code e.kind (partByte e.part) e.unit (now s) hidx (min 65535 count)
      e.status (b2n e.injected) e.addr) false false (addStat (aGOV 7) 1 s)) s

/-- Raise an event: log it, then send it or fold it (R433, R434). -/
def event0 (e : Ev) (s : State) : State :=
  let (h, s1) := if logsNow e s then hlogWrite e s else (none, s)
  let s2 := setUnitH (unitKey e.kind e.unit) (fun u => { u with lastTs := now s }) s1
  let ts := evTargets e s2
  if !evtEnabled s2 e.cls || ts.isEmpty then s2
  else
    let k := foldKey e
    let f := kget {} s2.gov.folds k
    if f.open_ && !elapsed s2 f.at_ 1000000 then
      addStat (aGOV 8) 1
        (s2.onGov fun g => { g with folds := kput {} g.folds k { f with folded := f.folded + 1 } })
    else
      let s3 := s2.onGov fun g =>
        { g with folds := kput {} g.folds k { open_ := true, at_ := now s2, folded := 0 } }
      evSend e (1 + f.folded) (h.getD (2 ^ 64 - 1)) ts s3

/-- Raise the OVERFLOW events of counters that have saturated (R448). -/
def raiseOverflows : Nat → State → State
  | 0, s => s
  | n + 1, s =>
    match s.gov.ovfPend with
    | [] => s
    | a :: r =>
      raiseOverflows n (event0 { cls := 7, code := 0, kind := kNone, detail := a, force := true }
        (s.onGov fun g => { g with ovfPend := r }))

/-- Raise an event. -/
def event (e : Ev) (s : State) : State :=
  let s1 := event0 e s
  if s1.gov.ovfPend.isEmpty then s1 else raiseOverflows 8 s1

/-- Count in a statistics counter, with the overflow rule of R448. -/
def bumpBy (a n : Nat) (s : State) : State :=
  let s1 := addStat a n s
  if s1.gov.ovfPend.isEmpty then s1 else raiseOverflows 8 s1

def bump (a : Nat) (s : State) : State := bumpBy a 1 s

/-! ### Bytes and poison of the range -/

def readByte (s : State) (off : Nat) : Byte := kget 0 s.store.mem off
def readBytes (s : State) (off n : Nat) : List Byte := (List.range n).map fun i => readByte s (off + i)
def readNat (s : State) (off n : Nat) : Nat := leNat (readBytes s off n)

/-- The canonical form of a memory: addresses rise strictly, and no entry holds 0, which an unlisted address reads as. -/
def Memory.wf (m : KMap Byte) : Bool := kwf (fun _ => 0) m

/-- Bytes written from an address upward. -/
def memPut : KMap Byte → Nat → List Byte → KMap Byte
  | m, _, [] => m
  | m, a, b :: bs => memPut (kput 0 m a b) (a + 1) bs

def writeBytes (off : Nat) (bs : List Byte) (s : State) : State :=
  s.onStore fun st => { st with mem := memPut st.mem off bs }

/-- Forget the bytes of a run of the range. -/
def eraseRange (off n : Nat) (s : State) : State :=
  s.onStore fun st => { st with
    mem := st.mem.filter fun p => decide (p.1 < off ∨ off + n ≤ p.1),
    poison := st.poison.filter fun p => decide (p.1 * 64 < off ∨ off + n ≤ p.1 * 64) }

def poisoned (s : State) (line : Nat) : Bool := kget false s.store.poison line
def setPoison (line : Nat) (b : Bool) (s : State) : State :=
  s.onStore fun st => { st with poison := kput false st.poison line b }

/-! ### Addresses (R54, R56, R172, R486) -/

/-- Fold the 4-bit groups of a number by exclusive-or. -/
def fold4 : Nat → Nat → Nat
  | 0, _ => 0
  | n + 1, g => (g % 16) ^^^ fold4 n (g / 16)

def homeBay (off : Nat) : Nat := fold4 8 (off / 2 ^ 19)
def lineBay (line : Nat) : Nat := homeBay (line * 64)
def pageBay (page : Nat) : Nat := homeBay (page * 65536)
def dirSet (line : Nat) : Nat := (line ^^^ (line / 2 ^ 15) ^^^ (line / 2 ^ 30)) % 32768
def lcSet (line : Nat) : Nat :=
  (line ^^^ (line / 2 ^ 12) ^^^ (line / 2 ^ 24) ^^^ (line / 2 ^ 36)) % 4096
def mapSet (g : Nat) : Nat := (g ^^^ (g / 2 ^ 11) ^^^ (g / 2 ^ 22)) % 2048
def extentOf (off : Nat) : Nat := off / 2 ^ 28
def globalOf (s : State) (off : Nat) : Nat := homeIndex s * 2 ^ 50 + off

def page (s : State) (p : Nat) : PageEnt := kget {} s.store.pages p
def setPage (p : Nat) (f : PageEnt → PageEnt) (s : State) : State :=
  s.onStore fun st => { st with pages := kmod {} st.pages p f }
def pageValid (e : PageEnt) : Bool := decide (e.tier ≠ 0)
def extent (s : State) (e : Nat) : Extent := kget {} s.sec.extents e
def setExtent (e : Nat) (f : Extent → Extent) (s : State) : State :=
  s.onSec fun x => { x with extents := kmod {} x.extents e f }
def part (s : State) (n : Nat) : Part := kget {} s.sec.parts n
def setPart (n : Nat) (f : Part → Part) (s : State) : State :=
  s.onSec fun x => { x with parts := kmod {} x.parts n f }

end Sys2Proof.Machine
end

