-- ==== Sys2Proof/Machine/Store.lean ====
section
/-! DEFINITION. The store's shared operations: page-map cache, line cache, heat, placement in the tiers, the codec, quotas, allocation, moves and the Millpond's blocks (R54-R99). -/

namespace Sys2Proof.Machine

/-! ### Codec (R82-R85) -/

/-- Copy `n` bytes from `d` back, byte by byte; the decoded bytes are held newest first. -/
def lbcCopy : Nat → Nat → List Byte → List Byte
  | 0, _, out => out
  | n + 1, d, out => lbcCopy n d (out.getD (d - 1) 0 :: out)

/-- Decode LBC tokens (Table 3.6); none where the block is corrupt (R84). `len` is the number of bytes decoded so far. -/
def lbcGo : Nat → List Byte → Nat → List Byte → Option (List Byte)
  | 0, _, _, _ => none
  | _ + 1, [], len, out => if len = 4096 then some out.reverse else none
  | fuel + 1, b :: bs, len, out =>
    if 4096 < len then none
    else if b.toNat < 0x80 then
      let n := b.toNat + 1
      let lit := bs.take n
      if lit.length < n then none else lbcGo fuel (bs.drop n) (len + n) (lit.reverse ++ out)
    else
      match bs with
      | x :: y :: r =>
        let w := x.toNat + 256 * y.toNat
        let n := b.toNat % 128 + 3
        let d := w % 4096 + 1
        if 4096 ≤ w ∨ len < d then none else lbcGo fuel r (len + n) (lbcCopy n d out)
      | _ => none

/-- Decode a codec block by its METHOD and stored bytes (Table 3.5); none where it is corrupt. -/
def decodeBlock (method : Nat) (data : List Byte) : Option (List Byte) :=
  match method with
  | 0 => if data.isEmpty then some (List.replicate 4096 0) else none
  | 1 => if data.length = 4096 then some data else none
  | 2 => lbcGo (data.length + 1) data 0 []
  | _ => none

/-- METHOD and stored bytes of a block (R85): ZERO when it is all zero, LBC when that is at least 64 B shorter than 4,096, RAW otherwise. The LBC tokens are the encoder's own choice, which decode to the block (log entry 10). -/
def encodeBlock (bs : List Byte) : Nat × List Byte :=
  if bs.all (· = 0) then (0, [])
  else
    let l := Config.lbcEncode bs
    if l.length + 64 ≤ 4096 && lbcGo (l.length + 1) l 0 [] = some bs then (2, l) else (1, bs)

/-- The header and the data of an image whose blocks are laid out one after the other from an offset (R82). -/
def layImage : Nat → List (Nat × List Byte) → List Byte × List Byte
  | _, [] => ([], [])
  | off, (m, d) :: r =>
    let x := layImage (off + d.length) r
    (leBytes 4 (m * 2 ^ 30 + d.length * 2 ^ 17 + off) ++ x.1, d ++ x.2)

/-- The codec image of a page's bytes: the header of sixteen descriptors, then the blocks without a gap (R82). -/
def pageImage (mem : KMap Byte) (p : Nat) : List Byte :=
  let x := layImage 64 ((List.range 16).map fun c =>
    encodeBlock ((List.range 4096).map fun i => kget 0 mem (p * 65536 + c * 4096 + i)))
  x.1 ++ x.2

/-- A block descriptor (Table 3.5): METHOD, LEN and OFFSET. -/
structure BlockDesc where
  method : Nat
  len : Nat
  off : Nat
  deriving DecidableEq, Repr

/-- The sixteen descriptors of an image header. -/
def parseHeader (h : List Byte) : List BlockDesc :=
  (List.range 16).map fun i =>
    let w := field h (4 * i) 4
    { method := bits w 31 30, len := bits w 29 17, off := bits w 16 0 }

/-- A descriptor agrees with its own fields and with the others: its data lie in the image, in no other block's (R82, R84). -/
def descOk (ds : List BlockDesc) (i : Nat) : Bool :=
  let d := ds.getD i { method := 3, len := 0, off := 0 }
  let total := 64 + (ds.map (·.len)).sum
  (match d.method with
   | 0 => d.len = 0
   | 1 => d.len = 4096
   | 2 => within d.len 1 4032
   | _ => false)
  && (d.len = 0 || (decide (64 ≤ d.off ∧ d.off + d.len ≤ total)
    && (List.range 16).all fun j =>
      let e := ds.getD j d
      i = j || e.len = 0 || decide (e.off + e.len ≤ d.off ∨ d.off + d.len ≤ e.off)))

/-- Image length in bytes of a page (R82). -/
def imageLen (mem : KMap Byte) (p : Nat) : Nat := (pageImage mem p).length

def units64 (n : Nat) : Nat := (n + 63) / 64
def units4k (n : Nat) : Nat := (n + 4095) / 4096

/-! ### Encryption (R19, R27, R61, R79, R134, R389)

The model keeps each byte of the range once, as the XTS engines show it to the home slices, the engines and the Sluices; what a medium holds are the ciphertexts below. A move decrypts under the source's tweak and encrypts under the destination's; only a change between lines and image units changes the tweak (log entry 27). The scrub passes the engines by: it writes zeros to the medium itself and reads those back. -/

/-- The tweak of a line of a page (Table 14.7). -/
def lineTweak (line : Nat) : Nat := line

/-- The tweak of unit `j` of the codec image of page `p`. -/
def unitTweak (p j : Nat) : Nat := 2 ^ 126 + p * 2 ^ 11 + j

/-- The tweak of a line of the T2 reservation. -/
def mapTweak (off : Nat) : Nat := 2 ^ 127 + off / 64

/-- The key of a page's storage: that of the partition in its entry (R27, R79). -/
def pageKey (s : State) (p : Nat) : List Byte := (part s (page s p).part).key

/-- A line as an uncompressed T1 or T2 page stores it. -/
def storedLine (s : State) (line : Nat) : List Byte :=
  xtsEnc (pageKey s (line / 1024)) (lineTweak line) (readBytes s (line * 64) 64)

/-- The units of a page's codec image as T2 or T3 stores them: compressed first, then encrypted. -/
def storedImage (s : State) (p : Nat) : List (List Byte) :=
  let im := pageImage s.store.mem p
  (List.range (units64 im.length)).map fun j =>
    xtsEnc (pageKey s p) (unitTweak p j) (padTo 64 (slice im (64 * j) 64))

/-- Encrypted units of an image, from unit `j` on, back in plaintext. -/
def openUnits (key : List Byte) (p : Nat) : Nat → Nat → List Byte → List Byte
  | 0, _, _ => []
  | n + 1, j, bs => xtsDec key (unitTweak p j) (bs.take 64) ++ openUnits key p n (j + 1) (bs.drop 64)

/-- A line of the T2 reservation, which holds the maps, as T2 stores it under the map key (R61). -/
def storedMapLine (s : State) (off : Nat) (bs : List Byte) : List Byte := xtsEnc s.sec.mapKey (mapTweak off) bs

/-- A page-map entry as its word (Table 3.4). -/
def entryWord (e : PageEnt) : Nat :=
  if e.tier = 0 then 0
  else 2 ^ 63 + e.tier * 2 ^ 61 + e.part * 2 ^ 56 + b2n e.pin * 2 ^ 55 + b2n e.mig * 2 ^ 54 + b2n e.comp * 2 ^ 53
    + e.clen * 2 ^ 48 + e.heat * 2 ^ 40 + e.epoch * 2 ^ 32 + e.frame

/-- The page-map line of an eight-page group as T2 holds it (R61, R63). -/
def storedGroup (s : State) (g : Nat) : List Byte :=
  storedMapLine s (g * 64) ((List.range 8).flatMap fun i => leBytes 8 (entryWord (page s (g * 8 + i))))

/-! ### Page-map cache (R64, R65, R441) -/

/-- The populated DDR5 channel that holds a T2 unit (R59). -/
def t2Channel (s : State) (u : Nat) : Nat :=
  if s.store.populated.length = 0 then 0 else s.store.populated.getD (u % s.store.populated.length) 0

def ddrDead (s : State) (u : Nat) : Bool := (island s (48 + t2Channel s u)).st = .retired

/-- The T2 unit of a page-map line: eight entries of 8 B a line, 64 lines a unit (R63). -/
def mapUnit (g : Nat) : Nat := g / 64

/-- Tags of the same bay and set as a group's. -/
def mapSetMates (s : State) (g : Nat) : List (Nat × CacheTag) :=
  s.store.mapCache.filter fun p => homeBay (p.1 * 2 ^ 19) = homeBay (g * 2 ^ 19) && mapSet p.1 = mapSet g

/-- The least recently used of some tags. -/
def lru : List (Nat × CacheTag) → Option (Nat × CacheTag)
  | [] => none
  | x :: xs => match lru xs with
    | none => some x
    | some y => if x.2.use ≤ y.2.use then some x else some y

/-- A page-map line leaves the cache: written back, or its pages are lost where its unit is unreadable (R441). -/
def mapEvict (g : Nat) (t : CacheTag) (s : State) : State :=
  let s1 := s.onStore fun st => { st with mapCache := kput {} st.mapCache g {} }
  if t.modified && ddrDead s (mapUnit g) then
    s1.onStore fun st => { st with mapLost := kput 0 st.mapLost g 2 }
  else s1

/-- Bring a page-map line into its bay's cache, or mark its use. -/
def mapTouch (g : Nat) (dirty : Bool) (s : State) : State :=
  let t := kget {} s.store.mapCache g
  let clk := s.store.useClock + 1
  let s0 := s.onStore fun st => { st with useClock := clk }
  if kget 0 s.store.mapLost g ≠ 0 then s
  else if t.held then
    s0.onStore fun st => { st with
      mapCache := kput {} st.mapCache g { t with use := clk, modified := t.modified || dirty } }
  else if ddrDead s (mapUnit g) then
    s0.onStore fun st => { st with mapLost := kput 0 st.mapLost g 2 }
  else
    let mates := mapSetMates s g
    let s1 := if 8 ≤ mates.length then
        match lru mates with | some v => mapEvict v.1 v.2 s0 | none => s0
      else s0
    s1.onStore fun st => { st with
      mapCache := kput {} st.mapCache g { held := true, modified := dirty, use := clk } }

/-- Change a page-map entry through the cache of its home bay. -/
def editPage (p : Nat) (f : PageEnt → PageEnt) (s : State) : State :=
  setPage p f (mapTouch (p / 8) true s)

/-! ### Millpond slices -/

def millpond (s : State) (q : Nat) : Millpond := kget {} s.store.millponds q
def setMillpond (q : Nat) (f : Millpond → Millpond) (s : State) : State :=
  s.onStore fun st => { st with millponds := kmod {} st.millponds q f }

/-- Raw blocks of a slice. -/
def mpBlocks (m : Millpond) : Nat := (m.targets.map fun t => t.blocks).sum

/-- What a 16 KiB NAND page holds (R90): four LDPC codewords of 4,096 data and 448 parity bytes, and 64 B of page metadata. -/
def codewords : Nat := 4
def codewordData : Nat := 4096
def codewordParity : Nat := 448
def pageMeta : Nat := 64

/-- The spare bytes of a NAND page that the layout takes (R89, R90). -/
def spareNeeded : Nat := codewords * codewordParity + pageMeta

/-- Slots of a slice: usable bytes, seven eighths of raw, divided by 16 KiB (R60, R90). -/
def mpSlots (m : Millpond) : Nat := (m.targets.map fun t => t.blocks * t.ppb).sum * 7 / 8

/-- The images of a slice and `n` more 64 B units stay within its usable capacity, so that the reserved eighth is left to the free pool, the spares and the system blocks (R90). -/
def mpRoom (m : Millpond) (n : Nat) : Bool :=
  decide ((m.slots.map fun x => x.2.len).sum + n ≤ mpSlots m * 256)

/-- T2 byte offset of a slice's forward map in the reservation (Table 3.3). -/
def fwdBase (s : State) (q : Nat) : Nat :=
  mapExtents s * 32768 + ((List.range q).map fun i => mpSlots (millpond s i) * 8).sum

/-- T2 byte offset of a slice's block table. -/
def blkBase (s : State) (q : Nat) : Nat :=
  fwdBase s 4 + ((List.range q).map fun i => mpBlocks (millpond s i) * 16).sum

/-- The size of the reservation in 4 KiB units (R60). -/
def reservation (s : State) : Nat :=
  (blkBase s 4 + 65535) / 65536 * 16

def slotOf (f : Nat) : Nat := f % 2 ^ 30
def sliceOf (f : Nat) : Nat := f / 2 ^ 30
def fwd (s : State) (f : Nat) : FwdEnt := kget {} (millpond s (sliceOf f)).slots (slotOf f)

/-! ### Where a page is, and whether it can be reached -/

/-- The bay's channels and their frames (R58). -/
def framesPerLane : Nat := 18432
def frameLane (f : Nat) : Nat := f / framesPerLane

/-- T2 units a page takes. -/
def t2Size (e : PageEnt) : Nat := if e.comp then e.clen + 1 else 16

/-- Stored size in 4 KiB units (R86). -/
def storedSize (s : State) (e : PageEnt) : Nat :=
  match e.tier with
  | 1 => 16
  | 2 => t2Size e
  | 3 => units4k ((fwd s e.frame).len * 64)
  | _ => 0

def usedBy (s : State) (n t : Nat) : Nat :=
  ((s.store.pages.filter fun p => p.2.part = n && p.2.tier = t).map fun p => storedSize s p.2).sum

/-- A page of a retired unit (R98, R441): its requests are answered TARGET_DEAD. -/
def pageLost (s : State) (p : Nat) : Bool :=
  let e := page s p
  e.lost || decide (kget 0 s.store.mapLost (p / 8) = 2)
  || (e.tier = 2 && (List.range (t2Size e)).any fun i => ddrDead s (e.frame + i))
  || (e.tier = 3 && ((millpond s (sliceOf e.frame)).st = .retired
      || ddrDead s ((fwdBase s (sliceOf e.frame) + slotOf e.frame * 8) / 4096)))

/-- A page whose page-map line could not be corrected (R65). -/
def pageUnusable (s : State) (p : Nat) : Bool := decide (kget 0 s.store.mapLost (p / 8) = 1)

/-! ### Free space -/

/-- The least number from `k` that is not listed. -/
def firstFree : Nat → Nat → List Nat → Nat
  | 0, k, _ => k
  | fuel + 1, k, used => if used.contains k then firstFree fuel (k + 1) used else k

def laneUp (s : State) (lane : Nat) : Bool :=
  let h := (unitH s (unitKey kLane lane)).health
  !(h = .retired) && !(h = .pending)

def usedFrames (s : State) : List Nat :=
  ((s.store.pages.filter fun p => p.2.tier = 1).map fun p => p.2.frame)
  ++ ((s.store.moves.filter fun p => p.2.tier = 1).map fun p => p.2.frame) ++ s.store.deadFrames

/-- Free frames of a channel lane. -/
def laneFree (s : State) (lane : Nat) : Nat :=
  if laneUp s lane then framesPerLane - ((usedFrames s).filter fun f => frameLane f = lane).length else 0

/-- Free frames of a bay. -/
def bayFree (s : State) (b : Nat) : Nat := ((List.range 16).map fun c => laneFree s (16 * b + c)).sum

/-- The lane with the most free frames, the lowest among equals (R58). -/
def bestLane (s : State) (b : Nat) : Option Nat :=
  (List.range 16).foldl (fun r c =>
    let n := laneFree s (16 * b + c)
    if n = 0 then r else match r with
      | none => some (16 * b + c)
      | some l => if laneFree s l < n then some (16 * b + c) else some l) none

/-- A free frame of a bay (R58): the lowest free one of the lane chosen (log entry 11). -/
def freeFrame (s : State) (b : Nat) : Option Nat :=
  (bestLane s b).map fun l => firstFree framesPerLane (l * framesPerLane) (usedFrames s)

def t2Total (s : State) : Nat := s.store.populated.length * s.store.unitsPerChannel

/-- T2 units in use, as runs. -/
def t2Runs (s : State) : List (Nat × Nat) :=
  ((s.store.pages.filter fun p => p.2.tier = 2).map fun p => (p.2.frame, t2Size p.2))
  ++ ((s.store.moves.filter fun p => p.2.tier = 2).map fun p =>
      (p.2.frame, if p.2.comp then p.2.clen + 1 else 16))
  ++ s.store.deadUnits.map fun u => (u, 1)

/-- A run of free T2 units, the lowest one (log entry 11). -/
def freeRun (s : State) (n : Nat) : Option Nat :=
  let runs := t2Runs s
  let ok (c : Nat) : Bool := decide (s.store.reserved ≤ c ∧ c + n ≤ t2Total s)
    && runs.all fun r => decide (r.1 + r.2 ≤ c ∨ c + n ≤ r.1)
  ((s.store.reserved :: runs.map fun r => r.1 + r.2).filter ok).min?

def t2Free (s : State) : Nat :=
  t2Total s - s.store.reserved - ((t2Runs s).map fun r => r.2).sum

/-- The quota has room for `n` more 4 KiB units (R67). -/
def quotaRoom (s : State) (prt t n : Nat) : Bool := decide (usedBy s prt t + n ≤ quota s prt t * 16)

/-- A target's place in its slice: channel × 8 + number. -/
def tgPos (t : MpTarget) : Nat := t.ch * 8 + t.tg

/-- The target of a block number (place × 65,536 + block), and its capacity in 64 B units. -/
def tgOf (m : Millpond) (b : Nat) : Option MpTarget := m.targets.find? fun t => tgPos t = b / 65536 && decide (b % 65536 < t.blocks)
def blkCap (m : Millpond) (b : Nat) : Nat := ((tgOf m b).map fun t => t.ppb * 256).getD 0

/-- Block numbers of a target. -/
def tgBlocks (t : MpTarget) : List Nat := (List.range t.blocks).map fun b => tgPos t * 65536 + b

/-- A block whose line of the block table lies on a retired DDR5 channel: it is neither programmed nor erased again before the next reset (R441). -/
def blkOut (s : State) (q b : Nat) : Bool :=
  let before := (((millpond s q).targets.filter fun t => decide (tgPos t < b / 65536)).map (·.blocks)).sum
  ddrDead s ((blkBase s q + (before + b % 65536) * 16) / 4096)

def blk (m : Millpond) (b : Nat) : Blk := kget {} m.blocks b

/-- The free block of a target with the lowest erase count (R96), the lowest number among equals; `out` names blocks that are not programmed. -/
def freeBlock (out : Nat → Bool) (m : Millpond) (t : MpTarget) : Option Nat :=
  (tgBlocks t).foldl (fun r b =>
    if (blk m b).st = .free && !out b then match r with
      | none => some b
      | some x => if (blk m b).erases < (blk m x).erases then some b else some x
    else r) none

/-- The open block of a target. -/
def openBlock (out : Nat → Bool) (m : Millpond) (t : MpTarget) : Option Nat :=
  (m.blocks.find? fun p => p.1 / 65536 = tgPos t && p.2.st = .opened && !out p.1).map (·.1)

/-- Append an image of `n` 64 B units on a target (R91): in its open block, or in a new one where the rest does not hold it. -/
def appendOn (out : Nat → Bool) (m : Millpond) (t : MpTarget) (n : Nat) : Option (Nat × Nat × Millpond) :=
  let put (m : Millpond) (b : Nat) : Nat × Nat × Millpond :=
    let k := blk m b
    let k' : Blk := { k with st := .opened, wp := k.wp + n, valid := k.valid + n }
    (b, k.wp, { m with blocks := kput {} m.blocks b k' })
  let fresh (m : Millpond) : Option (Nat × Nat × Millpond) := (freeBlock out m t).map fun b => put m b
  match openBlock out m t with
  | some b =>
    if (blk m b).wp + n ≤ blkCap m b then some (put m b)
    else fresh { m with blocks := kmod {} m.blocks b fun k => { k with st := .full } }
  | none => fresh m

/-- Append an image, the targets taken in round-robin order (R91): channel by channel and target by target, one without room passed over (DESIGN CHOICE, log entry 28: the rule gives neither). -/
def appendImage (out : Nat → Bool) (m : Millpond) (n : Nat) : Option (Nat × Nat × Millpond) :=
  let k := m.targets.length
  (List.range k).foldl (fun r j => match r with
    | some x => some x
    | none =>
      let i := (m.rr + j) % k
      match m.targets[i]? with
      | some t =>
        if m.dead.contains t.ch then none
        else (appendOn out m t n).map fun (b, w, m') => (b, w, { m' with rr := (i + 1) % k })
      | none => none) none

/-- A free slot of a slice: the lowest (DESIGN CHOICE, log entry 11: the rules name none). -/
def freeSlot (m : Millpond) : Option Nat :=
  let used := (m.slots.filter fun p => p.2.len ≠ 0).map (·.1)
  let i := firstFree (used.length + 1) 0 used
  if i < mpSlots m then some i else none

/-- The slices a page of a quarter may go to, in the order of R92; none while its own slice is Scanning or Off (R99). -/
def t3Order (s : State) (q : Nat) : List Nat :=
  if (millpond s q).st = .scanning || (millpond s q).st = .off then []
  else ((List.range 4).map fun i => (q + i) % 4).filter fun i => (millpond s i).st = .serving

/-- Place an image of `n` 64 B units of a page in T3: the slot index with the slice number in its top bits (R91, R92). -/
def placeT3 (s : State) (pg q n : Nat) : Option (Nat × State) :=
  (t3Order s q).foldl (fun r i => match r with
    | some x => some x
    | none =>
      let m := millpond s i
      match (if mpRoom m n then freeSlot m else none), appendImage (blkOut s i) m n with
      | some k, some (b, w, m') =>
        let ent : FwdEnt := { blk := b, start := w, len := n, page := pg }
        some (i * 2 ^ 30 + k, setMillpond i (fun _ => { m' with slots := kput {} m'.slots k ent }) s)
      | _, _ => none) none

/-- A load that needs a codec block of a T3 page reads its forward-map entry: the NAND block named there has one more read in progress until the read completes (R91, R95). -/
def beginT3 (key : Nat) (s : State) : State :=
  let e := page s (key / 16)
  if e.tier ≠ 3 || decide ((kget (0, 0) s.store.t3Reads key).1 ≠ 0) || pageLost s (key / 16) then s
  else
    let f := fwd s e.frame
    let s1 := setMillpond (sliceOf e.frame) (fun m => { m with
      blocks := kmod {} m.blocks f.blk fun k => { k with reads := k.reads + 1 } }) s
    s1.onStore fun st => { st with t3Reads := kput (0, 0) st.t3Reads key (sliceOf e.frame + 1, f.blk) }

/-- A read of a codec block has completed: its NAND block is left. -/
def endT3 (key : Nat) (s : State) : State :=
  let r := kget (0, 0) s.store.t3Reads key
  if r.1 = 0 then s
  else
    let s1 := setMillpond (r.1 - 1) (fun m => { m with
      blocks := kmod {} m.blocks r.2 fun k => { k with reads := k.reads - 1 } }) s
    s1.onStore fun st => { st with t3Reads := kput (0, 0) st.t3Reads key (0, 0) }

/-- Free a T3 slot: its block holds that many valid bytes fewer. -/
def freeT3 (f : Nat) (s : State) : State :=
  let e := fwd s f
  setMillpond (sliceOf f) (fun m => { m with
    slots := kput {} m.slots (slotOf f) {},
    blocks := kmod {} m.blocks e.blk fun k => { k with valid := k.valid - e.len } }) s

/-! ### First writes (R67-R69) -/

/-- The quarter of a page. -/
def pageQuarter (p : Nat) : Nat := pageBay p / 4

/-- Allocate a never-written page for a partition before the writes `w` are applied: the status, 0 when allocated (R67, R68). -/
def allocPage (pg prt : Nat) (w : List (Nat × List Byte)) (s : State) : Nat × State :=
  let new (t f : Nat) (comp : Bool) (s : State) : State :=
    editPage pg (fun _ => { tier := t, part := prt, comp := comp, epoch := s.store.epoch, frame := f }) s
  let q1 := quotaRoom s prt 1 16
  let q2 := quotaRoom s prt 2 16
  let n := units64 (imageLen (w.foldl (fun m p => memPut m p.1 p.2) s.store.mem) pg)
  let q3 := quotaRoom s prt 3 (units4k (n * 64))
  match (if q1 then freeFrame s (pageBay pg) else none) with
  | some f => (0, new 1 f false s)
  | none =>
    match (if q2 then freeRun s 16 else none) with
    | some u => (0, new 2 u false s)
    | none =>
      match (if q3 then placeT3 s pg (pageQuarter pg) n else none) with
      | some (f, s1) => (0, new 3 f true (s1.onStore fun st => { st with newT3 := st.newT3 ++ [pg] }))
      | none => (if q1 || q2 || q3 then sNORES else sQUOTA, s)

/-! ### Heat (R70-R73) -/

/-- HEAT brought up to date (R71). -/
def heatNow (epoch : Nat) (e : PageEnt) : Nat :=
  let d := (epoch + 256 - e.epoch) % 256
  if 8 ≤ d then 0 else e.heat / 2 ^ d

def promoteHeat (s : State) : Nat := cfg s 0x020001 47 40

/-- Queue a promotion candidate (R73). -/
def queuePromo (p : Nat) (s : State) : State :=
  let q := pageQuarter p
  let l := kget [] s.store.promo q
  if l.contains p || decide (256 ≤ l.length) then s
  else s.onStore fun st => { st with promo := kput [] st.promo q (l ++ [p]) }

/-- One 64 B access to a page (R70, R73). -/
def touchPage (p : Nat) (s : State) : State :=
  let e := page s p
  if !pageValid e then mapTouch (p / 8) false s
  else
    let h := min 255 (heatNow s.store.epoch e + 1)
    let s1 := editPage p (fun e => { e with heat := h, epoch := s.store.epoch }) s
    let raised := decide (heatNow s.store.epoch e < h)
    if raised && decide (promoteHeat s ≤ h) && decide (2 ≤ e.tier) && !e.pin && !e.mig then queuePromo p s1 else s1

/-! ### Home line cache (R169, R486) -/

def lcMates (s : State) (line : Nat) : List (Nat × CacheTag) :=
  s.store.lineCache.filter fun p => lineBay p.1 = lineBay line && lcSet p.1 = lcSet line

/-- A tag that may be evicted: modified lines of a page held as a codec image stay until its move completes (R77). -/
def lcEvictable (s : State) (p : Nat × CacheTag) : Bool :=
  !(p.2.modified && (page s (p.1 / 1024)).comp)

/-- Hold a line in its home line cache, evicting the least recently used of a full set; `modified` marks a write. A set whose ways all hold modified lines of codec images takes no further line: the access goes past the cache (DESIGN CHOICE, log entry 29). -/
def lcTouch (line : Nat) (modified : Bool) (s : State) : State :=
  let t := kget {} s.store.lineCache line
  let clk := s.store.useClock + 1
  let s0 := s.onStore fun st => { st with useClock := clk }
  let hold (s : State) : State := s.onStore fun st => { st with
    lineCache := kput {} st.lineCache line { held := true, modified := t.modified || modified, use := clk } }
  let mates := lcMates s line
  let ways := 16 - kget 0 s.home.waysOut (lineBay line * 65536 + 32768 + lcSet line)
  if t.held || decide (mates.length < ways) then hold s0
  else match lru (mates.filter (lcEvictable s)) with
    | some v => hold (s0.onStore fun st => { st with lineCache := kput {} st.lineCache v.1 {} })
    | none => s0

def lcDrop (line : Nat) (s : State) : State :=
  s.onStore fun st => { st with lineCache := kput {} st.lineCache line {} }

/-! ### Moves (R74-R81) -/

def moveOf (s : State) (p : Nat) : Option Move :=
  if (page s p).mig then some (kget {} s.store.moves p) else none

/-- A page's lines are held while a compressed source moves (R76), or until its codec image has moved for a write (R77). -/
def pageMoving (s : State) (p : Nat) : Bool := (page s p).mig

/-- The page holds a poisoned line. -/
def pagePoisoned (s : State) (p : Nat) : Bool :=
  s.store.poison.any fun x => x.1 / 1024 = p && x.2

/-- Ask for a move, once (R77, R80, R81): of a page that is moving already only an evacuation, which is then still due. -/
def requestMove (p : Nat) (w : MoveWhy) (s : State) : State :=
  let q := pageQuarter p
  let l := kget [] s.store.moveQ q
  if (l.any fun r => r.page = p && r.why = w) || ((page s p).mig && decide (w ≠ .evacuate)) then s
  else s.onStore fun st => { st with moveQ := kput [] st.moveQ q (l ++ [{ page := p, why := w }]) }

/-- A write to a line of a page being moved from an uncompressed source makes it dirty (R76). -/
def markDirty (line : Nat) (s : State) : State :=
  let p := line / 1024
  if (page s p).mig && !(page s p).comp then
    s.onStore fun st => { st with moves := kmod {} st.moves p (fun m =>
      if m.dirty.contains line then m else { m with dirty := m.dirty ++ [line] }) }
  else s

/-- Free what a page held before a move. -/
def freeSource (e : PageEnt) (s : State) : State :=
  if e.tier = 3 then freeT3 e.frame s else s

/-- What a move was asked for still holds: the page's frame is on a lane that left service, or it is held as a codec image. -/
def moveWanted (s : State) (p : Nat) (w : MoveWhy) : Bool :=
  let e := page s p
  match w with
  | .evacuate => e.tier = 1 && !laneUp s (frameLane e.frame)
  | .takeWrite => e.comp
  | _ => true

/-- Give up a move (R76); a page on a lane that left service has still to be evacuated (R81). -/
def abandonMove (p : Nat) (s : State) : State :=
  match moveOf s p with
  | none => s
  | some m =>
    let s1 := if m.tier = 3 then freeT3 m.frame s else s
    let s2 := editPage p (fun e => { e with mig := false })
      (s1.onStore fun st => { st with moves := kput {} st.moves p {} })
    if moveWanted s2 p .evacuate then requestMove p .evacuate s2 else s2

/-- Begin a move to a place already found. -/
def beginMove (p : Nat) (m : Move) (s : State) : State :=
  editPage p (fun e => { e with mig := true })
    (s.onStore fun st => { st with moves := kput {} st.moves p m })

/-- A place in T2 for a page: as an image when that takes at most 15 units and the page holds no poisoned line (R85, R430). -/
def t2Place (s : State) (p prt : Nat) (quotaToo imageOk : Bool) : Option Move :=
  let n := units4k (imageLen s.store.mem p)
  let comp := imageOk && decide (n ≤ 15) && !pagePoisoned s p
  let k := if comp then n else 16
  if quotaToo && !quotaRoom s prt 2 k then none
  else (freeRun s k).map fun u => { tier := 2, frame := u, comp := comp, clen := if comp then n - 1 else 0 }

/-- A place in T3; a page with a poisoned line never goes there (R430). -/
def t3Place (s : State) (p prt : Nat) (quotaToo : Bool) : Option (Move × State) :=
  let n := units64 (imageLen s.store.mem p)
  if pagePoisoned s p || (quotaToo && !quotaRoom s prt 3 (units4k (n * 64))) then none
  else (placeT3 s p (pageQuarter p) n).map fun (f, s') => ({ tier := 3, frame := f, comp := true }, s')

/-- A place in T1. -/
def t1Place (s : State) (p prt : Nat) (quotaToo : Bool) : Option Move :=
  if quotaToo && !quotaRoom s prt 1 16 then none
  else (freeFrame s (pageBay p)).map fun f => { tier := 1, frame := f }

/-- The destination of a move by its cause (R74, R75, R77, R81); none where there is none. -/
def moveDest (p : Nat) (w : MoveWhy) (s : State) : Option (Move × State) :=
  let e := page s p
  let prt := e.part
  let tag (m : Move) : Move := { m with why := w }
  let here (m : Option Move) : Option (Move × State) := m.map fun m => (tag m, s)
  let also' (m : Option (Move × State)) : Option (Move × State) := m.map fun x => (tag x.1, x.2)
  match w with
  | .evacuate =>
    here (t1Place s p prt false) <|> here (t2Place s p prt false true) <|> also' (t3Place s p prt false)
  | .takeWrite => here (t1Place s p prt true) <|> here (t2Place s p prt true false)
  | .promote =>
    here (t1Place s p prt true)
    <|> (if e.tier = 3 then here (t2Place s p prt true true) else none)
  | .demote =>
    if e.tier = 1 then here (t2Place s p prt true true) <|> also' (t3Place s p prt true)
    else also' (t3Place s p prt true)

/-- An extent whose pages no move may start on, but for a write admitted earlier (R378). -/
def extentClosed (s : State) (p : Nat) : Bool := decide (2 ≤ (extent s (p / 4096)).xstate)

/-- Start a move of a page (R76): refused for a page never written, moving, lost, pinned (but for an evacuation or a write), or in a closed extent. -/
def startMove (p : Nat) (w : MoveWhy) (s : State) : Bool × State :=
  let e := page s p
  if !pageValid e || e.mig || pageLost s p || pageUnusable s p || !moveWanted s p w
      || (e.pin && !(w = .evacuate || w = .takeWrite))
      || (extentClosed s p && !(w = .takeWrite)) then (false, s)
  else match moveDest p w s with
    | some (m, s1) => (true, beginMove p m s1)
    | none => (false, s)

/-- The place that a move ends at: for an image the one that its encoding at the end takes, found again where that differs from the one held since the start (R76); none where there is no room for it. -/
def finalPlace (p : Nat) (m : Move) (s : State) : Option (Move × State) :=
  let prt := (page s p).part
  let quotaToo := decide (m.why ≠ .evacuate)
  let without (s : State) : State := s.onStore fun st => { st with moves := kput {} st.moves p {} }
  let found (r : Option (Move × State)) : Option (Move × State) := r.map fun x => ({ x.1 with why := m.why }, x.2)
  if m.tier = 3 then
    (if (fwd s m.frame).len = units64 (imageLen s.store.mem p) then some (m, s)
     else found (t3Place (without (freeT3 m.frame s)) p prt quotaToo))
  else if m.tier = 2 && decide (m.why ≠ .takeWrite) then
    (let n := units4k (imageLen s.store.mem p)
     let comp := decide (n ≤ 15) && !pagePoisoned s p
     if comp = m.comp && (!comp || decide (n = m.clen + 1)) then some (m, s)
     else found ((t2Place (without s) p prt quotaToo true).map fun x => (x, without s)))
  else some (m, s)

/-- The switch of a move (R76): the entry names the destination, the source is freed. -/
def switchMove (p : Nat) (m : Move) (s : State) : State :=
  let e := page s p
  let s1 := freeSource e s
  let s2 := editPage p (fun e => { e with
    tier := m.tier, frame := m.frame, comp := m.comp, clen := m.clen, mig := false }) s1
  bump (0x020010 + pageQuarter p)
    (s2.onStore fun st => { st with moves := kput {} st.moves p {} })

/-- Free a page's storage and make its entry invalid (R88, R381): on a retired unit its place stays out of use. -/
def dropPage (p : Nat) (s : State) : State :=
  let e := page s p
  let s1 := abandonMove p s
  let s2 :=
    if pageLost s p then
      if e.tier = 1 then s1.onStore fun st => { st with deadFrames := st.deadFrames ++ [e.frame] }
      else if e.tier = 2 then s1.onStore fun st =>
        { st with deadUnits := st.deadUnits ++ (List.range (t2Size e)).map fun i => e.frame + i }
      else s1
    else freeSource e s1
  eraseRange (p * 65536) 65536
    (editPage p (fun _ => {}) (s2.onStore fun st => { st with
      lineCache := st.lineCache.filter fun x => x.1 / 1024 ≠ p,
      promo := (st.promo.map fun x => (x.1, x.2.filter fun y => y ≠ p)).filter fun x => !x.2.isEmpty }))

end Sys2Proof.Machine
end

