-- ==== Sys2Proof/Machine/GovOps.lean ====
section
/-! DEFINITION. The Governor's shared operations: counting health events against units, poisoning a line, armed injections (R426-R433, R436, R449-R451). -/

namespace Sys2Proof.Machine

/-- A number for each event kind of Table 16.5. -/
def evIdx : EvKind → Nat
  | .leatReplay => 0 | .leatFailure => 1 | .sramReread => 2 | .sramFailure => 3
  | .t1Corrected => 4 | .t1Uncorrectable => 5 | .t2Corrected => 6 | .t2Uncorrectable => 7
  | .nandRetry => 8 | .fecSymbols => 9 | .fecCodewords => 10 | .lockLoss => 11 | .slowBay => 12

/-- Window length in ns (Table 16.5). -/
def evWindow : EvKind → Nat
  | .leatFailure | .sramFailure | .t1Uncorrectable | .t2Uncorrectable | .lockLoss => 86400 * 1000000000
  | .slowBay => 100000000
  | _ => 1000000000

/-- The suspect threshold (Table 16.5). -/
def evSuspectAt : EvKind → Nat
  | .leatReplay | .sramReread => 64
  | .t1Corrected | .t2Corrected => 1024
  | .nandRetry => 4096
  | .fecSymbols => 2 ^ 24
  | .fecCodewords => 16
  | _ => 1

/-- The Governor statistic of an event kind (R453). -/
def evStat : EvKind → Option Nat
  | .leatReplay => some 0 | .leatFailure => some 1 | .sramReread => some 2 | .sramFailure => some 3
  | .t1Corrected | .t2Corrected => some 4
  | .t1Uncorrectable | .t2Uncorrectable => some 5
  | _ => none

/-- The EVENT class and code raised when an event of a kind is counted (Table 16.3); the failures raise POISON or UNIT events where their outcome is. -/
def evClass : EvKind → Option (Nat × Nat)
  | .leatReplay => some (1, 0) | .sramReread => some (1, 1)
  | .t1Corrected => some (0, 0) | .t2Corrected => some (0, 1) | .nandRetry => some (0, 2)
  | _ => none

/-- The Governor counts: not while it is Off. -/
def govCounts (s : State) : Bool := decide (s.gov.state ≠ 0)

/-- Count an event against a unit in its window and in its total (R436, R449), in the statistics, and raise its EVENT. -/
def countEvent (k : EvKind) (kind unit : Nat) (addr : Nat) (inj : Bool) (s : State) : State :=
  let s1 := match evStat k with | some i => bump (aGOV i) s | none => s
  let s2 := if govCounts s then setUnitH (unitKey kind unit) (fun u => { u with
      counts := kmod 0 u.counts (evIdx k) (· + 1), total := min 65535 (u.total + 1),
      lastTs := now s,
      injected := if inj then kput false u.injected (evIdx k) true else u.injected }) s1 else s1
  match evClass k with
  | some (c, d) => event { cls := c, code := d, kind := kind, unit := unit, addr := addr, injected := inj } s2
  | none => s2

/-- A line becomes poisoned (R430); one event against the unit concerned, none for an owner's loss. An injection's poison is of one read alone and is not kept (R451). -/
def poisonLine (line : Nat) (u : Option (Nat × Nat)) (inj : Bool) (s : State) : State :=
  let s1 := bump (aGOV 6) (if inj then s else setPoison line true s)
  let (k, n) := u.getD (kNone, 0)
  event { cls := 2, code := 0, kind := k, unit := n, addr := globalOf s (line * 64), injected := inj } s1

/-- An item of a partition consumed poisoned data (R432). -/
def poisonConsumed (prt addr status : Nat) (s : State) : State :=
  event { cls := 2, code := 1, part := some prt, status := status, addr := addr } s

/-- The T2 unit of a codec image, from its first, that a block of a page begins in. -/
def imageUnitOf (s : State) (p k : Nat) : Nat :=
  ((parseHeader (slice (pageImage s.store.mem p) 0 64)).getD k { method := 0, len := 0, off := 0 }).off / 4096

/-- The unit that stores a line of a page: the channel lane of a T1 frame, the DDR5 channel of a T2 unit, which for a codec image is the one that its block begins in. -/
def lineUnit (s : State) (line : Nat) : Option (Nat × Nat) :=
  let e := page s (line / 1024)
  match e.tier with
  | 1 => some (kLane, frameLane e.frame)
  | 2 =>
    let u := if e.comp then min e.clen (imageUnitOf s (line / 1024) (line % 1024 / 64)) else line % 1024 / 64
    some (kDdr, t2Channel s (e.frame + u))
  | _ => none

/-- The lines of a codec block. -/
def blockLines (p k : Nat) : List Nat := (List.range 64).map fun i => p * 1024 + k * 64 + i

/-- The lines that an uncorrectable stored line poisons: itself, or of a codec image every line of its block, which cannot be decoded (R84), but those that the line cache holds. -/
def linesLost (s : State) (line : Nat) : List Nat :=
  if (page s (line / 1024)).comp then
    (blockLines (line / 1024) (line % 1024 / 64)).filter fun l => !(kget ({} : CacheTag) s.store.lineCache l).held
  else [line]

/-- Take one armed injection of a unit whose fault is listed. -/
def takeArmed (kind unit : Nat) (faults : List Nat) (s : State) : Option Nat × State :=
  match s.gov.injects.find? fun p =>
      p.2.live && p.2.kind = kind && p.2.unit = unit && decide (0 < p.2.armed) && faults.contains p.2.fault with
  | some (i, j) => (some j.fault, s.onGov fun g =>
      { g with injects := kput {} g.injects i { j with armed := j.armed - 1 } })
  | none => (none, s)

/-- What the memory code makes of a line read: clean, corrected, or uncorrectable. -/
inductive CodeRes where
  | clean | corrected | uncorrectable
  deriving DecidableEq, Repr

/-- The outcome of a line with symbols in error (R426, R427): up to 4 anywhere, or those of the devices marked erased with up to 3 others. -/
def codeResult (e : SymErr) (marked : List Nat) : CodeRes :=
  let n := e.devSyms + e.other
  if n = 0 then .clean
  else if marked.isEmpty then (if n ≤ 4 then .corrected else .uncorrectable)
  else if e.other + (if marked.contains e.dev then 0 else e.devSyms) ≤ 3 then .corrected
  else .uncorrectable

/-- Note the device or byte lane whose symbols showed errors, for the window's count (R427). -/
def noteDevice (k u : Nat) (e : SymErr) (s : State) : State :=
  if e.devSyms = 0 then s else setUnitH (unitKey k u) (fun x => { x with devLines := kmod 0 x.devLines e.dev (· + 1) }) s

/-- Read a line from its tier with symbols in error: count what the code finds, and poison an uncorrectable line (R426, R430). An injected fault acts on this read alone and leaves the line unpoisoned: then the read is poisoned (true) though the medium is not (R451). -/
def tierRead (line : Nat) (syms : SymErr) (s : State) : Bool × State :=
  match lineUnit s line with
  | none => (poisoned s line, s)
  | some (k, u) =>
    if poisoned s line then (true, s)
    else
      let (arm, s0) := takeArmed k u [0x10, 0x11, 0x12] s
      let marked := (hist s (unitKey k u)).erased
      let addr := globalOf s (line * 64)
      let kc : EvKind := if k = kLane then .t1Corrected else .t2Corrected
      let ku : EvKind := if k = kLane then .t1Uncorrectable else .t2Uncorrectable
      match arm with
      | some f =>
        if f = 0x10 || (f = 0x11 && !marked.isEmpty) then (false, countEvent kc k u addr true s0)
        else (true, poisonLine line (some (k, u)) true (countEvent ku k u addr true s0))
      | none =>
        match codeResult syms marked with
        | .clean => (false, s0)
        | .corrected => (false, countEvent kc k u addr false (noteDevice k u syms s0))
        | .uncorrectable =>
          (true, (linesLost s0 line).foldl (fun s l => poisonLine l (some (k, u)) false s)
            (countEvent ku k u addr false (noteDevice k u syms s0)))

end Sys2Proof.Machine
end

