-- ==== Sys2Proof/Machine/KtOps.lean ====
section
/-! DEFINITION. Shared operations of Krathar transport: serial numbers, acknowledgement, timeouts, plane switches, lanes and links (R103, R111, R116-R121). -/

namespace Sys2Proof.Machine

/-! ### Timers (R120) -/

def rto (s : State) (c : Ctx) : Nat :=
  match c.srtt with
  | none => rtoMin s
  | some t => min (rtoMax s) (max (rtoMin s) (2 * t))

/-- A new round-trip sample (R120). -/
def newSrtt (old : Option Nat) (x : Nat) : Nat :=
  match old with
  | none => x
  | some t => (((t : Int) + ((x : Int) - t) / 8).toNat)

/-- Frames that a cumulative ACK or a SACK range releases (R117). -/
def released (ack : Nat) (sacks : List (Nat × Nat)) (h : Held) : Bool :=
  decide (0 < h.sends) && (precedes h.seq ack || sacks.any (inSack h.seq))

/-- Apply an acknowledgement: release frames, take a round-trip sample of each that was sent once, less the delay that an ACK record gives, reset the retry state, and send what the window now admits (R117, R120). -/
def applyAck (n ack rwnd delay : Nat) (sacks : List (Nat × Nat)) (s : State) : State :=
  let c := ctx s n
  let gone := c.held.filter (released ack sacks)
  let srtt := (gone.filter fun h => h.sends = 1).foldl (fun t h => some (newSrtt t (now s - h.sentAt - delay))) c.srtt
  let s1 := setCtx n (fun c => { c with
    held := c.held.filter fun h => !released ack sacks h,
    sndAck := if precedes c.sndAck ack then ack else c.sndAck,
    rwnd := rwnd, srtt := srtt,
    tries := if gone.isEmpty then c.tries else 0,
    switched := if gone.isEmpty then c.switched else false,
    silentRep := if gone.isEmpty then c.silentRep else false }) s
  if gone.isEmpty then flushCtx n (ctx s1 n).held.length s1 else flushAll s1

/-- A plane can carry a context's frames (R120). -/
def usable (s : State) (n plane : Nat) : Bool :=
  decide (reach s n plane ≠ 0) && !(linksUp s plane).isEmpty
  && (reach s n plane = 1 || (ctx s n).held.all fun h => h.rcd.message)

/-- The oldest frame that has been sent and not acknowledged. -/
def oldestHeld (c : Ctx) : Option Held := c.held.find? fun h => decide (0 < h.sends)

/-- Resend every sent frame on a plane, in sequence order. -/
def resendAll (n plane : Nat) (s : State) : State :=
  ((ctx s n).held.filter fun h => decide (0 < h.sends)).foldl (fun s h => sendHeld n h plane s) s

/-- Move a context to the other plane with all it holds; a timeout marks it switched, the loss of a plane does not (R120, R121). -/
def planeSwitch (n plane : Nat) (timeout : Bool) (s : State) : State :=
  let s1 := setCtx n (fun c => { c with plane := plane, tries := 0, switched := c.switched || timeout, srtt := none,
                                        lastProbe := now s, probeReplies := 0, probeOut := false }) s
  resendAll n plane (bump (aKT 3) s1)

/-- A plane whose last link is gone moves every context on it (R121). -/
def leavePlane (plane : Nat) (s : State) : State :=
  if (linksUp s plane).isEmpty then
    s.kt.ctxs.foldl (fun s p => if p.2.live && p.2.plane = plane then planeSwitch p.1 (1 - plane) false s else s) s
  else s

/-! ### Acknowledging (R119) -/

/-- Ranges of received numbers above the cumulative one, at most four. -/
def sackRanges : List Nat → List (Nat × Nat)
  | [] => []
  | x :: xs => match sackRanges xs with
    | (a, b) :: r => if (x + 1) % 2 ^ 32 = a then (x, b) :: r else (x, x) :: (a, b) :: r
    | [] => [(x, x)]

/-- Send a standalone ACK record (R119, Table 4.9). -/
def sendAck (n : Nat) (s : State) : State :=
  let c := ctx s n
  let ranges := (sackRanges c.rcvAbove).take 4
  sendPlain n c.plane ranges (.ack c.rcvNext (now s - c.newest) ranges) s

/-! ### Lanes and links (R100, R103) -/

def lane (s : State) (l : Nat) : LaneState := kget .off s.kt.lanes l
def setLane (l : Nat) (x : LaneState) (s : State) : State :=
  s.onKt fun k => { k with lanes := kput .off k.lanes l x }
def setLink (l : Nat) (x : Link) (s : State) : State :=
  s.onKt fun k => { k with links := kput {} k.links l x }

/-- MODE of a port (Table 4.1). -/
def portMode (s : State) (p : Nat) : Nat := cfg s (0x030000 + p) 15 14

/-- First lane and lane count of link `i` of a port in a mode; no lanes where the mode has no such link. -/
def linkLanes (mode i : Nat) : Nat × Nat :=
  match mode with
  | 1 => if i = 0 then (0, 8) else (0, 0)
  | 2 => if i < 2 then (4 * i, 4) else (0, 0)
  | 3 => (2 * i, 2)
  | _ => (0, 0)

/-- The widest aligned group of in-service lanes of a link, the lowest first lane among equals: first lane and count (R103). -/
def widestGroup (s : State) (p base cnt : Nat) : Option (Nat × Nat) :=
  let ok (w f : Nat) : Bool := decide (base ≤ f ∧ f + w ≤ base + cnt)
    && (List.range w).all fun i => lane s (8 * p + f + i) = .inService
  let try' (w : Nat) : Option (Nat × Nat) :=
    (((List.range (8 / w)).map fun i => i * w).find? (ok w)).map fun f => (f, w)
  try' 8 <|> try' 4 <|> try' 2

/-- A link that has trained comes up at its group's width (Table 4.4). -/
def linkUp (l : Nat) (s : State) : State :=
  let p := l / 4
  let g := linkLanes (portMode s p) (l % 4)
  match widestGroup s p g.1 g.2 with
  | some (f, w) => setLink l { st := .up, width := w / 2, first := f } s
  | none => setLink l { st := .retired } s

/-- A link forms again on the lanes left to it (R103): Training, or up at once in the forced mode of AN_EN 0 (Table 4.2; DEDUCED, log entry 22), or Retired where no group of two remains. -/
def reformLink (l : Nat) (s : State) : State :=
  let p := l / 4
  let g := linkLanes (portMode s p) (l % 4)
  if g.2 = 0 then setLink l {} s
  else if (widestGroup s p g.1 g.2).isNone then setLink l { st := .retired } s
  else if bit (cfg s (0x030000 + p) 13 13) 0 then setLink l { st := .training } s
  else linkUp l s

/-- The lanes of a port that are Off come into service. -/
def lanesOn (p : Nat) (s : State) : State :=
  (List.range 8).foldl (fun s i => if lane s (8 * p + i) = .off then setLane (8 * p + i) .inService s else s) s

/-- The lanes of a port that are not retired go Off. -/
def lanesOff (p : Nat) (s : State) : State :=
  (List.range 8).foldl (fun s i => if lane s (8 * p + i) = .retired then s else setLane (8 * p + i) .off s) s

/-- A write to MODE or PHY_TYPE: every link of the port forms again; in mode 0 the port is Off (Tables 4.1 and 4.3). A retired port, and one whose islands do not run, stays as it is. -/
def reformPort (p : Nat) (s : State) : State :=
  if unitLost s kPort p || !(islandUp s (2 * p) && islandUp s (2 * p + 1)) then s
  else
    let s1 := if portMode s p = 0 then lanesOff p s else lanesOn p s
    leavePlane (linkPlane (4 * p)) ((List.range 4).foldl (fun s i => reformLink (4 * p + i) s) s1)

/-- A port whose links are all Retired is retired (R104). -/
def portDead (s : State) (p : Nat) : Bool :=
  let ls := (List.range 4).filter fun i => (linkLanes (portMode s p) i).2 ≠ 0
  !ls.isEmpty && ls.all fun i => (link s (4 * p + i)).st = .retired

end Sys2Proof.Machine
end

