-- ==== Sys2Proof/Machine/SetOps.lean ====
section
/-! DEFINITION. Erasure arithmetic (R287) and the rules of set windows (R408-R417): which slot a line lies in, what a write there needs, and holds. -/

namespace Sys2Proof.Machine

/-! ### GF(2^8), modulo 0x11D (R287) -/

/-- Times α. -/
def gfX (a : Nat) : Nat := if 128 ≤ a then (a * 2) ^^^ 0x11D else a * 2

/-- Product: `n` bits of `b`, from the lowest. -/
def gfGo : Nat → Nat → Nat → Nat
  | 0, _, _ => 0
  | n + 1, a, b => (if b % 2 = 1 then a else 0) ^^^ gfGo n (gfX a) (b / 2)

def gfMul (a b : Nat) : Nat := gfGo 8 a b

/-- α to a power. -/
def gfPow : Nat → Nat
  | 0 => 1
  | n + 1 => gfX (gfPow n)

/-- The inverse: α^(255 − log a), found by search. -/
def gfInv (a : Nat) : Nat := ((List.range 255).map fun i => gfPow i).find? (fun x => gfMul a x = 1) |>.getD 0

/-- COEF × bytes. -/
def gfScale (c : Nat) (bs : List Byte) : List Byte := bs.map fun b => BitVec.ofNat 8 (gfMul c b.toNat)

/-- Byte-wise exclusive-or. -/
def xorBytes (a b : List Byte) : List Byte := List.zipWith (fun x y => x ^^^ y) a b

/-! ### Sets -/

def setSt (s : State) (i : Nat) : SetSt := kget {} s.mach.sets i
def setSet (i : Nat) (f : SetSt → SetSt) (s : State) : State :=
  s.onMach fun m => { m with sets := kmod {} m.sets i f }

def slotSetId (s : State) (i : Nat) : Nat := cfg s (0x0C0100 + 4 * i) 63 48
def slotPart (s : State) (i : Nat) : Nat := cfg s (0x0C0100 + 4 * i) 47 43
def slotFirst (s : State) (i : Nat) : Nat := cfg s (0x0C0100 + 4 * i) 41 21
def slotCount (s : State) (i : Nat) : Nat := cfg s (0x0C0100 + 4 * i) 20 0

/-- The slot of a set. -/
def slotOfSet (s : State) (id : Nat) : Option Nat :=
  if id = 0xFFFF then none else (List.range 16).find? fun i => slotSetId s i = id

/-- 4 KiB units of a member's set data. -/
def setUnits (s : State) (i : Nat) : Nat := (slotCount s i * 2 ^ 28 - 65536) / 4096

/-- The member count of a mode (Table 15.2). -/
def memberCount (mode k : Nat) : Nat := if mode = 3 then k + 2 else k

/-- The slot whose window holds an offset, where the set is defined. -/
def windowOf (s : State) (off : Nat) : Option Nat :=
  (List.range 16).find? fun i =>
    decide (slotSetId s i ≠ 0xFFFF) && decide ((setSt s i).sstate ≠ 0)
    && decide (slotFirst s i ≤ extentOf off ∧ extentOf off < slotFirst s i + slotCount s i)

/-- Offset within the slot's window. -/
def winOff (s : State) (i off : Nat) : Nat := off - slotFirst s i * 2 ^ 28

/-- The data unit of an offset of a window; none on the control page. -/
def unitOf (s : State) (i off : Nat) : Option Nat :=
  let w := winOff s i off
  if w < 65536 then none else some ((w - 65536) / 4096)

def memberAt (r : SetSt) (p : Nat) : Nat := r.members.getD p 0xFFFF

/-- The members of a record but this YM9 that are not fenced. -/
def liveOthers (s : State) (r : SetSt) : List Nat :=
  (r.members.filter fun n => decide (n ≠ nodeId s) && !fenced s n)

/-- Members fenced, in this member's view. -/
def lostMembers (s : State) (r : SetSt) : Nat := (r.members.filter fun n => fenced s n).length

/-- Members a mode may lose (Table 15.2). -/
def mayLose (r : SetSt) : Nat := match r.mode with | 2 => r.k - 1 | 3 => 2 | _ => 0

/-- SSTATE by R415; a rebuild in progress shows as Rebuilding. -/
def newSstate (s : State) (r : SetSt) : Nat :=
  if r.sstate = 0 then 0
  else if r.broken || decide (mayLose r < lostMembers s r) then 4
  else if !r.rbAll.isEmpty then 3
  else if lostMembers s r = 0 then 1 else 2

/-- Bring SSTATE of every slot up to date. -/
def refreshSets (s : State) : State :=
  s.onMach fun m => { m with
    sets := (m.sets.map fun p => (p.1, { p.2 with sstate := newSstate s p.2 })) }

/-- What a write to a line asks of a set (R411, R412, R416). -/
inductive SetRule where
  /-- A plain write. -/
  | plain
  /-- Answered DENIED; counted in MISDIRECT when the flag is set. -/
  | denied (misdirect : Bool)
  /-- Answered RETRY under a hold (R416). -/
  | held
  /-- Performed here and forwarded whole to these nodes. -/
  | forward (nodes : List Nat)
  /-- Performed here, with deltas of the listed (node, COEF). -/
  | deltas (ds : List (Nat × Nat))
  deriving DecidableEq, Repr

/-- An access: the write as a set sees it (its opcode, COUNT of a STORE_LINES, STRICT, its sender, none for this YM9's own engines, and for a STORE its size and data); and the waiting request that an engine makes it for, and whether an on-die holder keeps a copy of what it reads. -/
structure SetWrite where
  op : Nat
  count : Nat := 1
  strict : Bool := false
  node : Option Nat := none
  size : Nat := 0
  data : List Byte := []
  item : Option Nat := none
  hold : Bool := false

/-- A rebuild write (R416). -/
def isRebuildWrite (s : State) (i u : Nat) (w : SetWrite) : Bool :=
  let r := setSt s i
  w.op = 0x12 && w.strict && w.node = some r.master && decide (r.holdLo ≤ u ∧ u < r.holdHi)
  && decide (r.validTo < setUnits s i)

/-- The rule of a write at an offset. -/
def setRule (s : State) (off : Nat) (w : SetWrite) : SetRule :=
  match windowOf s off with
  | none => .plain
  | some i =>
    let r := setSt s i
    match unitOf s i off with
    | none =>
      if decide (winOff s i off < 64) && w.op = 0x10 && w.size = 64 && w.node = some r.master
          && decide (field w.data 24 8 = r.epoch) then .plain
      else .denied false
    | some u =>
      if isRebuildWrite s i u w then .plain
      else if r.holdLo ≤ u ∧ u < r.holdHi then .held
      else match r.mode with
        | 2 =>
          if r.master = nodeId s then .forward (liveOthers s r)
          else if w.op = 0x12 && w.count = 1 && (match w.node with | some n => r.members.contains n | none => false)
          then .plain else .denied true
        | 3 =>
          if r.pos < r.k then
            .deltas ((if fenced s (memberAt r r.k) then [] else [(memberAt r r.k, 1)])
              ++ (if fenced s (memberAt r (r.k + 1)) then [] else [(memberAt r (r.k + 1), gfPow r.pos)]))
          else if w.op = 0x63 && (match w.node with
              | some n => (r.members.take r.k).contains n | none => false)
          then .plain else .denied false
        | _ => .plain

/-- A load of a unit not yet valid on the position under rebuild is answered RETRY (R416). -/
def loadHeld (s : State) (off : Nat) : Bool :=
  match windowOf s off with
  | none => false
  | some i => match unitOf s i off with
    | none => false
    | some u => decide ((setSt s i).validTo ≤ u)

/-- A window whose atomics are never folded (R413). -/
def noFold (s : State) (off : Nat) : Bool :=
  match windowOf s off with
  | none => false
  | some i => (unitOf s i off).isSome && (decide ((setSt s i).mode = 2) || decide ((setSt s i).mode = 3))

end Sys2Proof.Machine
end

