-- ==== Sys2Proof/Machine/Home.lean ====
section
/-! DEFINITION. The home slices: the checks of Table 5.5, the Weir, responses, the directory and its transactions, the combining buffer, and how a request is performed at its line (R127-R164, R166-R192). -/

namespace Sys2Proof.Machine

/-! ### Weir (R136) -/

/-- Lines that a request or its response carries, at least one (R136). A MSG_APPEND carries its message: neither the LENGTH field nor the entry's header adds a line (DESIGN CHOICE, log entry 30). -/
def chargeLines (op param : Nat) (payload : List Byte) : Nat :=
  match op with
  | 0x01 | 0x12 | 0x61 => param + 1
  | 0x63 => max 1 (field payload 0 1)
  | 0x11 => 1
  | 0x70 => max 1 (units64 (field payload 0 4))
  | _ => max 1 (units64 payload.length)

/-- The agent's bucket in tenths of a byte, brought up to date (R136): RATE × 100 MB/s is RATE tenths of a byte per ns. -/
def bucketNow (s : State) (c : Ctx) (prt : Nat) : Int :=
  let top : Int := weirBurst s prt * 1024 * 10
  match c.bucket with
  | none => top
  | some b => min top (b + weirRate s prt * (now s - c.bucketAt))

/-- Step 4 of Table 5.5: the outstanding count and the bucket of the agent's context. -/
def weirAdmit (n prt lines : Nat) (s : State) : Bool × State :=
  let c := ctx s n
  let b := bucketNow s c prt
  let charge : Int := lines * 64 * 10
  let ok := decide (c.outstanding < maxOut s prt) && decide (charge ≤ b)
  (ok, setCtx n (fun c => { c with
    bucket := some (if ok then b - charge else b), bucketAt := now s,
    outstanding := if ok then c.outstanding + 1 else c.outstanding }) s)

/-! ### Partition checks (steps 5 and 6) -/

def grantOf (s : State) (n e : Nat) : Option Grant :=
  s.sec.grants.find? fun g => g.node = n && decide (g.first ≤ e ∧ e < g.first + g.count)

/-- Step 6 for a fabric node (R132): the DENIED conditions before the REVOKED one. -/
def grantCheck (s : State) (n prt off : Nat) (write : Bool) : Nat :=
  let e := extent s (extentOf off)
  if mapExtents s ≤ extentOf off then sDENIED
  else if e.xstate = 0 ∨ e.failed ∨ e.part ≠ prt then sDENIED
  else match grantOf s n (extentOf off) with
    | none => sDENIED
    | some g =>
      if !bit g.rights (if write then 1 else 0) then sDENIED
      else if e.xstate ≠ 1 || g.draining then sREVOKED else sOK

/-- Step 6 for this YM9's own engines and streams (R372). -/
def ownCheck (s : State) (prt off : Nat) : Nat :=
  let e := extent s (extentOf off)
  if mapExtents s ≤ extentOf off then sDENIED
  else if e.xstate = 0 ∨ e.failed ∨ e.part ≠ prt then sDENIED
  else if e.xstate ≠ 1 then sREVOKED else sOK

/-- Step 6 by who asks. -/
def srcCheck (s : State) (src : Src) (prt off : Nat) (write : Bool) : Nat :=
  match src with
  | .agent n => grantCheck s n prt off write
  | .call _ _ => ownCheck s prt off

/-- The status of several checks of one step: DENIED before REVOKED (R132), then the first that fails. -/
def worst (l : List Nat) : Nat :=
  if l.contains sDENIED then sDENIED
  else if l.contains sREVOKED then sREVOKED
  else (l.find? fun x => decide (x ≠ sOK)).getD sOK

/-- Steps 5 and 6 for a global address. -/
def addrCheck (s : State) (src : Src) (prt addr : Nat) (write : Bool) : Nat :=
  if addr / 2 ^ 50 = homeIndex s then srcCheck s src prt (addr % 2 ^ 50) write else sDENIED

/-- The checks of a run of extents. -/
def runCheck (s : State) (src : Src) (prt off len : Nat) (write : Bool) : Nat :=
  let a := extentOf off
  let b := extentOf (off + len - 1)
  worst ((List.range (b + 1 - a)).map fun i => srcCheck s src prt ((a + i) * 2 ^ 28) write)

/-- A DENIED of step 5 or 6 (R133). -/
def partFail (n : Nat) (s : State) : State :=
  let s1 := bump (aTXN 8) s
  let first := !(ctx s n).secSent
  let s2 := setCtx n (fun c => { c with partFails := c.partFails + 1, secSent := true }) s1
  if first then event { cls := 5, code := 1, kind := kNode, unit := n, status := sDENIED } s2 else s2

/-- A DENIED of step 5 or 6, by who asked: it counts in PART_FAIL, and in the agent's Weir entry (R133). -/
def srcFail (src : Src) (s : State) : State :=
  match src with
  | .agent n => partFail n s
  | .call _ _ => bump (aTXN 8) s

/-! ### Responses (R137, R139, R144, R146) -/

/-- Stores, atomics and PUBLISH (R144). -/
def isWriteOp (op : Nat) : Bool :=
  [0x10, 0x11, 0x12, 0x13, 0x40].contains op || within op 0x20 0x2A

/-- LOAD_LEVEL of a response (R137). -/
def loadLevel (s : State) (n bay prt status : Nat) : Nat :=
  if status = sRETRY then 15
  else if !s.kt.windowed then 0
  else
    let c := ctx s n
    let lp := if c.plane = 0 then s.kt.lvlPlaneA else s.kt.lvlPlaneB
    let la := if maxOut s prt = 0 then 14 else 15 * c.outstanding / maxOut s prt
    max (min 14 (kget 0 s.kt.lvlSlice bay)) (max (min 14 lp) (min 14 la))

/-- Set a field of an issued word of a stream. -/
def setIssued (sid num : Nat) (f : Issued → Issued) (s : State) : State :=
  s.onCore fun c => { c with streams := kmod {} c.streams sid fun t =>
    { t with issued := t.issued.map fun w => if w.num = num then f w else w } }

/-- A response record that does not end its request: an interim, or one of several (R140, R159). -/
def respondMore (it : Item) (status value : Nat) (interim : Bool) (payload : List Byte) (s : State) : State :=
  match it.src with
  | .agent n =>
    let l := loadLevel s n (homeBay it.off) it.part status
    let s1 := if interim then bump (aTXN 12) s else if status = sPOISONED then bump (aTXN 11) s else s
    sendRec n (.resp it.op it.tag status l interim value payload) false false s1
  | .call _ _ => s

/-- The marks a RETRY leaves on the context (R144, R146). -/
def retryMarks (n : Nat) (it : Item) (quiet : Bool) (s : State) : State :=
  setCtx n (fun c => { c with
    refused := c.refused || (isWriteOp it.op && !quiet),
    strictTag := if it.strict && c.strictTag.isNone then some it.tag else c.strictTag,
    strictAt := if it.strict && c.strictTag.isNone then it.id else c.strictAt }) s

/-- The last response of a request: its record, its counters, and the end of its place in the Weir. -/
def finishQ (quiet : Bool) (it : Item) (status value : Nat) (payload : List Byte) (s : State) : State :=
  let s0 := if status = sPOISONED then
      poisonConsumed it.part (globalOf s (it.off % 2 ^ 50)) status (bump (aTXN 11) s)
    else if status = sREVOKED then bump (aTXN 9) s
    else if status = sDEAD then bump (aTXN 10) s else s
  match it.src with
  | .agent n =>
    let l := loadLevel s0 n (homeBay it.off) it.part status
    let s1 := sendRec n (.resp it.op it.tag status l false value payload) false false s0
    let s2 := if it.weir then setCtx n (fun c => { c with outstanding := c.outstanding - 1 }) s1 else s1
    if status = sRETRY then retryMarks n it quiet s2 else s2
  | .call sid num => setIssued sid num (fun w => { w with value := some (status, value) }) s0

def finish (it : Item) (status value : Nat) (payload : List Byte) (s : State) : State :=
  finishQ false it status value payload s

/-- All bytes 0xFF (R160, R161, R164). -/
def ffs (n : Nat) : List Byte := List.replicate n 0xFF

/-- Width in bytes of an atomic. -/
def atomicWidth (param : Nat) : Nat := match param % 4 with | 0 => 4 | 1 => 8 | _ => 16

/-- The TARGET_DEAD answer of a request (R160, R161). -/
def deadAnswer (it : Item) : Nat × List Byte :=
  if it.op = 0x00 then (0, ffs (it.param + 1))
  else if within it.op 0x20 0x2A && !bit it.param 7 then
    (if atomicWidth it.param = 16 then (0, ffs 16) else (2 ^ (8 * atomicWidth it.param) - 1, []))
  else (0, [])

/-! ### Requests of the YM9's own (R147, R159, R403) -/

/-- A rebuild is under way, with this YM9 as the set's master (R417). -/
def rebuilding (s : State) : Bool := s.mach.sets.any fun p => p.2.master = nodeId s && !p.2.rbAll.isEmpty

/-- STRICT of an own request (R147): during start-up, under STRICT_TEST, and during recovery. -/
def ownStrict (s : State) : Bool :=
  s.pwr.pstate = .starting || bit (cfg s 0x040100 39 39) 0 || rebuilding s

/-- The home index a node serves in HOME_MAP. -/
def homeOf (s : State) (n : Nat) : Option Nat :=
  (s.cw.filter fun p => decide (0x0C1000 ≤ p.1 ∧ p.1 < 0x0C2000)).findSome? fun p =>
    ((List.range 4).find? fun j => bits p.2.toNat (16 * j + 15) (16 * j) = n).map fun j =>
      (p.1 - 0x0C1000) * 4 + j

/-- Requests sent to a peer and not answered. -/
def ownOut (c : Ctx) : Nat := (c.own.filter fun o => !o.queued && !o.backoff).length

/-- Send the requests that the context's window now has room for, oldest first (R138). -/
def ownPump (n : Nat) : Nat → State → State
  | 0, s => s
  | fuel + 1, s =>
    let c := ctx s n
    match c.own.find? (·.queued) with
    | some o =>
      if ownOut c < c.window then
        ownPump n fuel (sendRec n o.rcd (match o.rcd with | .req _ _ st _ _ _ _ => st | _ => false) false
          (setCtx n (fun c => { c with own := c.own.map fun x =>
            if x.tag = o.tag then { x with queued := false, sentAt := now s } else x }) s))
      else s
    | none => s

/-- Send a request of the YM9's own, kept until its response; it waits while the context's window is full (R128, R138, R159). `slot` names the set whose rebuild it serves. Returns its TAG. -/
def ownRequestFor (slot : Option Nat) (n op param addr : Nat) (strict : Bool) (prt : Nat) (payload : List Byte) (s : State) :
    Nat × State :=
  let tag := ((ctx s n).lastTag + 1) % 2 ^ 32
  let st := strict || ownStrict s
  let rcd := Rec.req op tag st prt param addr payload
  let full := (ctx s n).live && decide ((ctx s n).window ≤ ownOut (ctx s n))
  let s1 := setCtx n (fun c => { c with lastTag := tag, own := c.own ++
    [{ tag := tag, rcd := rcd, sentAt := now s, queued := full, slot := slot }] }) s
  (tag, if full then s1 else sendRec n rcd st false s1)

/-- A forward or a delta of a write. -/
def ownRequest (n op param addr : Nat) (strict : Bool) (prt : Nat) (payload : List Byte) (s : State) : Nat × State :=
  ownRequestFor none n op param addr strict prt payload s

/-! ### Directory (R169-R178) -/

def dirEnt (s : State) (line : Nat) : DirEnt := kget {} s.home.dir line
def setDir (line : Nat) (f : DirEnt → DirEnt) (s : State) : State :=
  s.onHome fun h => { h with dir := kmod {} h.dir line f }
def freeDir (line : Nat) (s : State) : State :=
  s.onHome fun h => { h with dir := kput {} h.dir line {} }

/-- A transient state (Table 6.1): the entry is pinned (R174). -/
def HState.transient : HState → Bool
  | .g | .si | .xr | .bi => true
  | _ => false

/-- HSTATE codes of Table 6.1. -/
def HState.code : HState → Nat
  | .i => 0 | .s => 1 | .x => 2 | .g => 3 | .si => 4 | .xr => 5 | .bi => 6

/-- The pointers of an entry, the owner as pointer 0 in X, XR and G from a GRANT 2 (R172). -/
def DirEnt.pointers (e : DirEnt) : List Nat :=
  if e.st = .x || e.st = .xr || (e.st = .g && e.after) then [e.owner] else e.ptrs

/-- Entries of a line's directory set. -/
def dirMates (s : State) (line : Nat) : List (Nat × DirEnt) :=
  s.home.dir.filter fun p => lineBay p.1 = lineBay line && dirSet p.1 = dirSet line && decide (p.2.st ≠ .i)

def dirWays (s : State) (line : Nat) : Nat := 16 - kget 0 s.home.waysOut (lineBay line * 65536 + dirSet line)

def pinnedWays (s : State) (line : Nat) : Nat := ((dirMates s line).filter fun p => p.2.st.transient).length

/-- Every way but one is pinned (R174, R425). -/
def setPinned (s : State) (line : Nat) : Bool := decide (dirWays s line - 1 ≤ pinnedWays s line)

/-- The sharers or the owner that an invalidation of an entry goes to (R173), but one node. -/
def snoopTargets (s : State) (e : DirEnt) (but : Option Nat) : List Nat :=
  let l : List Nat := match e.st with
    | .x => [e.owner]
    | _ => if e.coarse then (s.kt.ctxs.filter fun p => p.2.live && p.2.cacher && bit e.vec (p.1 % 64)).map (·.1)
           else e.ptrs
  l.filter fun n => decide (some n ≠ but)

/-- Send a snoop to a node; its TAG (R170). A line's snoop runs on behalf of the partition that owns its extent; a flush on none's. -/
def sendSnoop (n op line param : Nat) (s : State) : Nat × State :=
  let tag := (s.home.snoopTag + 1) % 2 ^ 32
  let st := ownStrict s
  let addr := if op = 0x5A then homeIndex s * 2 ^ 50 else globalOf s (line * 64)
  let prt := if op = 0x5A then 0 else (extent s (extentOf (line * 64))).part
  let s1 := bump (aCOH 0) (s.onHome fun h => { h with snoopTag := tag })
  (tag, sendRec n (.req op tag st prt param addr []) st false s1)

/-- Snoops to several nodes: the responses awaited. -/
def sendSnoops (op line : Nat) (ns : List Nat) (s : State) : List (Nat × Nat) × State :=
  ns.foldl (fun r n => let (t, s') := sendSnoop n op line 0 r.2; (r.1 ++ [(n, t)], s')) ([], s)

/-- The state an entry takes when its snoops are complete: shared by the holders left, or I (Table 6.3). -/
def endTxn (line : Nat) (s : State) : State :=
  let e := dirEnt s line
  if (e.st = .si || e.st = .xr || e.st = .bi) && e.acks.isEmpty && !e.race then
    if e.st = .bi || (e.ptrs.isEmpty && !e.coarse && !e.eng) then freeDir line s
    else setDir line (fun e => { e with st := .s, down := false, late := false, revoking := false, owner := 0 }) s
  else s

/-- Invalidate every holder of a shared entry but one: SI (R177, R181). The one kept stays listed; where a coarse entry listed it by its group, it may hold no copy. -/
def startSI (line : Nat) (but : Option Nat) (s : State) : State :=
  let e := dirEnt s line
  let ts := snoopTargets s e but
  let (acks, s1) := sendSnoops 0x58 line ts s
  let s2 := if e.eng then bump (aCOH 1) s1 else s1
  let keep := match but with
    | some n => if e.coarse then (if bit e.vec (n % 64) then [n] else []) else e.ptrs.filter fun x => decide (x = n)
    | none => []
  endTxn line (setDir line (fun e => { e with
    st := .si, acks := acks, race := e.eng, eng := false, coarse := false, vec := 0, ptrs := keep,
    vague := e.vague || e.coarse, since := now s, late := false }) s2)

/-- Recall a line from its owner: XR, with SNP_DOWN or SNP_INV (R177). -/
def startXR (line : Nat) (down : Bool) (s : State) : State :=
  let e := dirEnt s line
  let (acks, s1) := sendSnoops (if down then 0x59 else 0x58) line [e.owner] s
  setDir line (fun e => { e with st := .xr, acks := acks, down := down, ptrs := [], since := now s, late := false }) s1

/-- Pass a victim through BI, to make room for a line (R175). -/
def startBI (line room : Nat) (s : State) : State :=
  let e := dirEnt s line
  let (acks, s1) := sendSnoops 0x58 line (snoopTargets s e none) (bump (aCOH 2) s)
  let s2 := if e.eng then bump (aCOH 1) s1 else s1
  endTxn line (setDir line (fun e => { e with st := .bi, acks := acks, race := e.eng, eng := false, room := some room,
                                              since := now s, late := false }) s2)

/-- A line with an open transaction, or whose last write still waits for its forwards (R411), or whose slice is Flushing (R189). -/
def lineBusy (s : State) (line : Nat) : Bool :=
  (dirEnt s line).st.transient || kget false s.home.forwardBusy line
  || kget .off s.home.slices (lineBay line) = .flushing

/-- Whether a request may use a line now: it may, it must wait, or a transaction was opened for it. -/
inductive Prep where
  | ready
  | wait
  | go (s : State)

/-- An uncached read of a line (Table 6.3). A transaction pins its entry, so it waits while every way but one of the set is pinned (R174). -/
def prepRead (line : Nat) (s : State) : Prep :=
  if lineBusy s line then .wait
  else match (dirEnt s line).st with
    | .x => if setPinned s line then .wait else .go (startXR line true s)
    | _ => .ready

/-- A write to a line, or ownership of it for one node (Table 6.3): no other copy may stay. -/
def prepWrite (line : Nat) (own : Option Nat) (s : State) : Prep :=
  if lineBusy s line then .wait
  else
    let e := dirEnt s line
    match e.st with
    | .x => if own = some e.owner then .ready else if setPinned s line then .wait else .go (startXR line false s)
    | .s =>
      if e.coarse || e.eng || (e.ptrs.any fun n => decide (some n ≠ own)) || own.isNone then
        (if setPinned s line then .wait else .go (startSI line own s))
      else .ready
    | _ => .ready

/-- The victim of a full set (R175). -/
def victim (ms : List (Nat × DirEnt)) : Option (Nat × DirEnt) :=
  let cls (e : DirEnt) : Nat :=
    if e.st = .x then 2 else if e.eng && !e.coarse && e.ptrs.isEmpty then 0 else 1
  (ms.filter fun p => !p.2.st.transient).foldl (fun r p => match r with
    | none => some p
    | some q => if cls p.2 < cls q.2 || (cls p.2 = cls q.2 && decide (p.2.use < q.2.use)) then some p else r) none

/-- A way for a line that has no entry: free, or that of one victim after BI (R175). -/
def prepEntry (line : Nat) (s : State) : Prep :=
  let ms := dirMates s line
  if decide ((dirEnt s line).st ≠ .i) then .ready
  else if ms.length < dirWays s line then .ready
  else if (ms.any fun p => p.2.room = some line) || setPinned s line then .wait
  else match victim ms with
    | some (v, _) => .go (startBI v line s)
    | none => .wait

/-- The way a new entry takes. -/
def freeWay (s : State) (line : Nat) : Nat := firstFree 16 0 ((dirMates s line).map fun p => p.2.way)

/-- Add a sharer (R173): the entry turns coarse with its fifth. -/
def addSharer (line n : Nat) (s : State) : State :=
  let e := dirEnt s line
  if e.coarse then setDir line (fun e => { e with vec := e.vec ||| 2 ^ (n % 64) }) s
  else if e.ptrs.contains n then s
  else if e.ptrs.length < 4 then setDir line (fun e => { e with ptrs := e.ptrs ++ [n] }) s
  else bump (aCOH 4) (setDir line (fun e => { e with
    coarse := true, ptrs := [], vec := (e.ptrs ++ [n]).foldl (fun v x => v ||| 2 ^ (x % 64)) 0 }) s)

/-- Take a node out of the sharers of an entry; a coarse one is unchanged (Table 6.3). -/
def dropSharer (n line : Nat) (s : State) : State :=
  let e := dirEnt s line
  if e.st ≠ .s || e.coarse then s
  else
    let ps := e.ptrs.filter fun x => decide (x ≠ n)
    if ps.isEmpty && !e.eng then freeDir line s else setDir line (fun e => { e with ptrs := ps }) s

/-- Send a grant; the line is in G until the grantee's GRANT_ACK (R178). -/
def grantLine (it : Item) (n line g value : Nat) (data : List Byte) (s : State) : State :=
  let w := freeWay s line
  let old := (dirEnt s line).st
  let s1 := if g = 1 then addSharer line n s else s
  let s2 := setDir line (fun e => { e with
    st := .g, way := if old = .i then w else e.way, grantee := n, grantTag := it.tag, after := g = 2,
    owner := if g = 2 then n else 0, ptrs := if g = 2 then [] else e.ptrs,
    coarse := if g = 2 then false else e.coarse, vec := if g = 2 then 0 else e.vec,
    eng := if g = 2 then false else e.eng,
    wrote := false, vague := false, room := none, since := now s, late := false, use := s.store.useClock + 1 }) s1
  finish it sOK value data (s2.onStore fun st => { st with useClock := st.useClock + 1 })

/-! ### Reading lines -/

/-- An island that takes words: Running, and not draining for a change of step (R46, R47). -/
def islandOpen (s : State) (i : Nat) : Bool := islandUp s i && (island s i).toStep.isNone

/-- The medium of a line can be read now: its channel's island takes words, or its T3 block has just been read (R47, R93). -/
def mediumReady (s : State) (line : Nat) : Bool :=
  match lineUnit s line with
  | some (k, u) => islandOpen s (if k = kLane then 16 + u / 8 else 48 + u)
  | none => decide ((page s (line / 1024)).tier ≠ 3) || s.store.t3Ready.contains (line / 64)

/-- A line is readable when its page is not lost and its line cache holds it or its medium can be read. -/
def lineReadable (s : State) (line : Nat) : Bool :=
  !pageLost s (line / 1024) && ((kget {} s.store.lineCache line).held || mediumReady s line)

/-- Bring a line into its home line cache: whether it is poisoned, and the state after its tier was read (R169, R426). -/
def fetchLine (line : Nat) (syms : SymErr) (s : State) : Bool × State :=
  let hit := (kget {} s.store.lineCache line).held
  if !pageValid (page s (line / 1024)) then (poisoned s line, s)
  else
    let (p, s1) := if hit then (poisoned s line, s) else tierRead line syms s
    (p, if p && !poisoned s1 line then s1 else lcTouch line false s1)

/-- Read one line for a request: an access that counts in its page's heat (R70). -/
def accessLine (line : Nat) (syms : SymErr) (s : State) : Bool × State := fetchLine line syms (touchPage (line / 1024) s)

/-! ### Writing lines -/

/-- The lines that some writes touch, in ascending order. -/
def writeLines (ws : List (Nat × List Byte)) : List Nat :=
  (ws.flatMap fun w => (List.range ((w.1 % 64 + w.2.length + 63) / 64)).map fun i => w.1 / 64 + i).dedup

/-- A write covers a whole line (R431). -/
def coversLine (ws : List (Nat × List Byte)) (line : Nat) : Bool :=
  (List.range 64).all fun i => ws.any fun w => decide (w.1 ≤ line * 64 + i ∧ line * 64 + i < w.1 + w.2.length)

/-- Allocate every never-written page that some writes touch; all or none (R67, R68, R157). -/
def allocFor (prt : Nat) (ws : List (Nat × List Byte)) (s : State) : Nat × State :=
  let ps := ((writeLines ws).map (· / 1024)).dedup.filter fun p => !pageValid (page s p)
  let r := ps.foldl (fun (r : Nat × State) p => if r.1 ≠ 0 then r else allocPage p prt ws r.2) (0, s)
  if r.1 ≠ 0 then (r.1, s) else r

/-- A node that requests of this YM9 can be sent to (Table 15.1): within one stage on a plane. -/
def sendable (s : State) (n : Nat) : Bool := decide (reach s n 0 = 1) || decide (reach s n 1 = 1)

/-- A replica or parity unit goes stale (R414). -/
def staleUnit (off : Nat) (s : State) : State :=
  event { cls := 10, code := 6, addr := globalOf s off } (bump (aSET 4) s)

/-- Stands for a forward or delta that cannot be sent and so is answered DENIED (Table 15.1). -/
def unsent : Nat × Nat := (0xFFFF, 0)

/-- Send the forwards and deltas that a line's new value asks of its set (R411, R412): the responses awaited. -/
def setUpdates (prt line : Nat) (rule : SetRule) (old new : List Byte) (s : State) : List (Nat × Nat) × State :=
  let send (n op param : Nat) (pl : List Byte) (r : List (Nat × Nat) × State) : List (Nat × Nat) × State :=
    match homeOf r.2 n, sendable r.2 n with
    | some h, true =>
      let (t, s') := ownRequest n op param (h * 2 ^ 50 + line * 64) false prt pl r.2
      (r.1 ++ [(n, t)], bump (aSET (if op = 0x12 then 2 else 3)) s')
    | _, _ => (r.1 ++ [unsent], staleUnit (line * 64) r.2)
  match rule with
  | .forward ns => ns.foldl (fun r n => send n 0x12 0 new r) ([], s)
  | .deltas ds => ds.foldl (fun r d => send d.1 0x63 d.2 (leBytes 8 1 ++ xorBytes old new) r) ([], s)
  | _ => ([], s)

/-- Perform writes in the home line cache: bytes, poison cleared by whole lines, heat, dirty lines of a move, the move of a codec image (R77), and what a set asks. A page that the write has just allocated in T3 is written there in full (R67): its lines are not left modified. -/
def putLines (prt : Nat) (w : SetWrite) (ws : List (Nat × List Byte)) (heat : Bool) (s : State) :
    List (Nat × Nat) × State :=
  let ls := writeLines ws
  let olds := ls.map fun l => (l, readBytes s (l * 64) 64, setRule s (l * 64) w)
  let s1 := ws.foldl (fun s w => writeBytes w.1 w.2 s) s
  let s2 := ls.foldl (fun s l =>
    let whole := s.store.newT3.contains (l / 1024)
    let s1 := if coversLine ws l then setPoison l false s else s
    let s2 := markDirty l (lcTouch l (!whole) s1)
    let s3 := if heat then touchPage (l / 1024) s2 else s2
    if (page s3 (l / 1024)).comp && !whole then requestMove (l / 1024) .takeWrite s3 else s3) s1
  let s3 := s2.onStore fun st => { st with newT3 := [] }
  olds.foldl (fun r o =>
    let (a, s') := setUpdates prt o.1 o.2.2 o.2.1 (readBytes r.2 (o.1 * 64) 64) r.2
    (r.1 ++ a, if a.all (· = unsent) then s' else s'.onHome fun h => { h with forwardBusy := kput false h.forwardBusy o.1 true }))
    ([], s3)

/-- What stops a write to some lines before it is performed: it must wait, is answered, or may go on. -/
inductive Stop where
  | go
  | wait (s : State)
  | answer (status : Nat) (s : State)

/-- The page of a line can take a write (R65, R77, R161): a lost page waits for its deadline, a codec image for its move. -/
def pageForWrite (p : Nat) (s : State) : Stop :=
  let e := page s p
  if pageUnusable s p then .answer sPOISONED s
  else if pageLost s p then .wait s
  else if !pageValid e then .go
  else if e.comp then
    if e.mig then .wait s
    else match moveDest p .takeWrite s with
      | some _ => .wait (requestMove p .takeWrite s)
      | none => .answer (if quotaRoom s e.part 1 16 || quotaRoom s e.part 2 16 then sNORES else sQUOTA) s
  else .go

/-- A request's record of its write for the rules of sets. -/
def itemWrite (it : Item) : SetWrite :=
  { op := it.op, count := if it.op = 0x12 then it.param + 1 else 1, strict := it.strict,
    node := (match it.src with | .agent n => some n | _ => none),
    size := if it.op = 0x10 then it.param + 1 else 0, data := it.payload }

/-! ### Combining buffer (R150-R153, R183) -/

def comb (s : State) (line : Nat) : CombEnt := kget {} s.home.comb line
def combOpen (s : State) (line : Nat) : Bool := decide ((comb s line).width ≠ 0)

/-- A signed value of a width in bytes. -/
def toSigned (w x : Nat) : Int := if x < 2 ^ (8 * w - 1) then x else (x : Int) - 2 ^ (8 * w)

/-- The new value of an atomic (Table 5.4). -/
def atomicNew (op w old x cmp : Nat) : Nat :=
  match op with
  | 0x20 => (old + x) % 2 ^ (8 * w)
  | 0x21 => fadd w old x
  | 0x22 => old &&& x
  | 0x23 => old ||| x
  | 0x24 => old ^^^ x
  | 0x25 => if toSigned w old ≤ toSigned w x then old else x
  | 0x26 => if toSigned w x ≤ toSigned w old then old else x
  | 0x27 => min old x
  | 0x28 => max old x
  | 0x29 => x
  | _ => if old = cmp then x else old

/-- Apply an entry's running results to its line, read into the line cache, and free it (R151). A line that is poisoned takes no effect (R431). -/
def drainComb (line : Nat) (s : State) : State :=
  let c := comb s line
  if c.width = 0 then s
  else
    let (bad, s0) := fetchLine line {} (s.onHome fun h => { h with comb := kput {} h.comb line {} })
    if bad then s0
    else
      let ws := c.acc.map fun a =>
        let off := line * 64 + a.1
        (off, leBytes c.width (atomicNew c.op c.width (readNat s off c.width) a.2 0))
      (putLines (page s (line / 1024)).part { op := c.op } ws false s0).2

/-- Fold an operand into an entry's running result. -/
def foldAcc (op w : Nat) (i x : Nat) : List (Nat × Nat) → List (Nat × Nat)
  | [] => [(i, x)]
  | (j, y) :: r => if i = j then (j, atomicNew op w y x 0) :: r else (j, y) :: foldAcc op w i x r

/-- Entries open in a bay. -/
def combBay (s : State) (b : Nat) : List (Nat × CombEnt) := s.home.comb.filter fun p => lineBay p.1 = b

/-- Fold an atomic into its line's entry: performed, and answered at once (R150). -/
def foldInto (it : Item) (s : State) : State :=
  let line := it.off / 64
  let w := atomicWidth it.param
  let x := field it.payload 0 w
  let fresh := !combOpen s line
  let s1 := s.onHome fun h => { h with comb := kmod {} h.comb line fun c =>
    { op := it.op, width := w, acc := foldAcc it.op w (it.off % 64) x c.acc,
      at_ := if fresh then now s else c.at_ } }
  finish it sOK 0 [] (touchPage (line / 1024) (bump (aTXN 3) (bump (aTXN 2) s1)))

/-! ### Waiting (R148, R174) -/

/-- An engine's or a stream's request, which goes from line to line. -/
def Item.engine (it : Item) : Bool := within it.op 0x60 0x6B || decide (0x100 ≤ it.op)

/-- Lines at whose queues a request holds a place: those it has still to perform; of an engine's those it waits for. A WB_DIRTY, and a request that waits for its forwards alone, hold none (R176). -/
def itemLines (it : Item) : List Nat :=
  if it.answer.isSome || it.op = 0x53 then []
  else if it.op = 0x01 || it.op = 0x12 then
    ((List.range (it.param + 1)).filter fun i => !(kget {} it.got i).done).map fun i => it.off / 64 + i
  else if it.engine then it.wants
  else [it.off / 64]

/-- When a request took its place in the queues of its lines, in request numbers. -/
def Item.since (it : Item) : Nat := if it.engine then it.asked else it.id

def lineWaiting (s : State) (line : Nat) : Nat :=
  (s.home.waitq.filter fun it => (itemLines it).contains line).length

def sliceWaiting (s : State) (b : Nat) : Nat :=
  ((s.home.waitq.map fun it => ((itemLines it).filter fun l => lineBay l = b).length)).sum

def sliceSt (s : State) (b : Nat) : SliceState := kget .off s.home.slices b

def removeItem (id : Nat) (s : State) : State :=
  s.onHome fun h => { h with waitq := h.waitq.filter fun x => decide (x.id ≠ id) }

def updateItem (id : Nat) (f : Item → Item) (s : State) : State :=
  s.onHome fun h => { h with waitq := h.waitq.map fun x => if x.id = id then f x else x }

/-- An interim response (R159): FLASH_DEADLINE counts from admission. -/
def engInterim (it : Item) (s : State) : State :=
  respondMore it sOK 0 true [] (updateItem it.id (fun x => { x with flash := true }) s)

/-- A group is open from the OPEN response, and was never opened where that is no OK (R281). -/
def settleGroup (off : Nat) (ok : Bool) (s : State) : State :=
  if (kget {} s.eng.groups off).opening then
    s.onEng fun e => { e with groups := kmod {} e.groups off fun g => if ok then { g with opened := true, opening := false } else {} }
  else s

/-- End a request that waits; a Quern invocation or a search completed, whatever its status, is counted (Tables 10.12 and 12.10). -/
def endItem (it : Item) (status value : Nat) (payload : List Byte) (s : State) : State :=
  let s1 := if status = sRETRY then s
    else if within it.op 0x60 0x63 then bump (aQN 0) s else if it.op = 0x68 then bump (aBL 0) s else s
  let s2 := if it.op = 0x62 && it.param = 0 then settleGroup it.off (status = sOK) s1 else s1
  finish it status value payload (removeItem it.id s2)

/-- A request waits for the answers to forwards and deltas of its writes. -/
def addForwards (id : Nat) (fw : List (Nat × Nat)) (s : State) : State :=
  if fw.isEmpty then s
  else updateItem id (fun x => { x with
    forwards := x.forwards ++ fw.filter (fun a => decide (a ≠ unsent)), fwdBad := x.fwdBad || fw.contains unsent }) s

/-- End a request whose forwards are all answered: TARGET_DEAD where one was refused (R414). -/
def endForwarded (it : Item) (bad : Bool) (status value : Nat) (payload : List Byte) (s : State) : State :=
  if bad then endItem it sDEAD (deadAnswer it).1 (deadAnswer it).2 s else endItem it status value payload s

/-- End a write: at once, or when its forwards and deltas are answered (R411, R412). -/
def endWrite (it : Item) (fw : List (Nat × Nat)) (status value : Nat) (payload : List Byte) (s : State) : State :=
  let s1 := addForwards it.id fw s
  match s1.home.waitq.find? fun x => x.id = it.id with
  | none => endItem it status value payload s1
  | some x =>
    if x.forwards.isEmpty then endForwarded it x.fwdBad status value payload s1
    else updateItem it.id (fun x => { x with answer := some (status, value, payload) }) s1

/-! ### Performing a request at one of its lines -/

/-- A LOAD (R140, R164). -/
def serveLoad (it : Item) (s : State) : Option State :=
  let line := it.off / 64
  let p := line / 1024
  let n := it.param + 1
  if pageUnusable s p then some (endItem it sPOISONED 0 (ffs n) s)
  else if loadHeld s it.off then some (endItem it sRETRY 0 [] (bump (aSET 5) s))
  else if !lineReadable s line then none
  else match prepRead line s with
    | .wait => none
    | .go s' => some s'
    | .ready =>
      let (bad, s1) := accessLine line it.syms s
      let s2 := bump (aTXN 0) s1
      some (if bad then endItem it sPOISONED 0 (ffs n) s2
        else endItem it sOK 0 (readBytes s it.off n) s2)

/-- Send the responses of a LOAD_LINES whose lines are all performed: one record for each group of up to 16 lines (Table 5.3, R164). -/
def loadLinesAnswer (it : Item) (s : State) : State :=
  let n := it.param + 1
  let rec' (g : Nat) : Nat × Nat × List Byte :=
    let is := (List.range 16).filter fun i => decide (16 * g + i < n)
    let map := (is.map fun i => if (kget {} it.got (16 * g + i)).poison then 2 ^ i else 0).sum
    (if map = 0 then sOK else sPOISONED, 16 * g + map * 65536,
      is.flatMap fun i => let x := kget {} it.got (16 * g + i); if x.poison then ffs 64 else x.data)
  let last := (n + 15) / 16 - 1
  let s1 := (List.range last).foldl (fun s g => let (st, v, d) := rec' g; respondMore it st v false d s) s
  let (st, v, d) := rec' last
  endItem it st v d (bump (aTXN 0) s1)

/-- One line of a LOAD_LINES. -/
def serveLoadLine (it : Item) (line : Nat) (s : State) : Option State :=
  let i := line - it.off / 64
  if pageUnusable s (line / 1024) then
    let it' := { it with got := kput {} it.got i { done := true, poison := true } }
    let s1 := updateItem it.id (fun _ => it') s
    some (if (itemLines it').isEmpty then loadLinesAnswer it' s1 else s1)
  else if loadHeld s (line * 64) then some (endItem it sRETRY 0 [] (bump (aSET 5) s))
  else if !lineReadable s line then none
  else match prepRead line s with
    | .wait => none
    | .go s' => some s'
    | .ready =>
      let (bad, s1) := accessLine line {} s
      let g : LineGot := { done := true, poison := bad, data := readBytes s (line * 64) 64 }
      let it' := { it with got := kput {} it.got i g }
      let s2 := updateItem it.id (fun _ => it') s1
      some (if (itemLines it').isEmpty then loadLinesAnswer it' s2 else s2)

/-- What a write makes of its line: the writes, the status, VALUE and payload of its answer. -/
def writeResult (it : Item) (line : Nat) (s : State) : List (Nat × List Byte) × Nat × Nat × List Byte :=
  match it.op with
  | 0x11 =>
    let m := field it.payload 64 8
    (((List.range 64).filter fun i => bit m i).map fun i => (it.off + i, slice it.payload i 1), sOK, 0, [])
  | 0x12 => ([(line * 64, slice it.payload ((line - it.off / 64) * 64) 64)], sOK, 0, [])
  | 0x40 =>
    let v := readNat s it.off 8
    if v = 2 ^ 64 - 1 then ([], sNORES, v, [])
    else if v = field it.payload 0 8 then
      ([(it.off, leBytes 8 (v + 1) ++ slice it.payload 8 56)], sOK, v + 1, [])
    else ([], sCONFLICT, v, [])
  | 0x10 | 0x13 => ([(it.off, slice it.payload 0 (it.param + 1))], sOK, 0, [])
  | _ =>
    let w := atomicWidth it.param
    let old := readNat s it.off w
    let x := if it.op = 0x2A then field it.payload (max 8 w) w else field it.payload 0 w
    let nw := atomicNew it.op w old x (field it.payload 0 w)
    let ret := !bit it.param 7
    ([(it.off, leBytes w nw)], sOK, if ret && w ≠ 16 then old else 0,
      if ret && w = 16 then leBytes 16 old else [])

/-- The statistic of a write (Table 5.15). -/
def writeStat (op status : Nat) (s : State) : State :=
  if op = 0x40 then bump (aTXN (if status = sOK then 4 else 5)) s
  else if within op 0x20 0x2A then bump (aTXN 2) s
  else bump (aTXN 1) s

/-- The control line of a set takes effect: holds and VALID_TO (R416). -/
def applyControl (off : Nat) (data : List Byte) (s : State) : State :=
  match windowOf s off with
  | some i => if winOff s i off < 64 then
      setSet i (fun r => { r with holdLo := field data 0 8, holdHi := field data 8 8, validTo := field data 16 8 }) s
    else s
  | none => s

/-- Earlier writes to units a control STORE holds must be performed first (R416). -/
def controlWaits (it : Item) (s : State) : Bool :=
  match windowOf s it.off with
  | some i => winOff s i it.off < 64 && s.home.waitq.any fun x =>
      decide (x.id < it.id) && isWriteOp x.op && (windowOf s x.off = some i)
      && (match unitOf s i x.off with
          | some u => decide (field it.payload 0 8 ≤ u ∧ u < field it.payload 8 8)
          | none => false)
  | none => false

/-- A write that no tier can take (R68, R77), with the count of a PUBLISH so answered (Table 5.15). -/
def refuseWrite (it : Item) (st : Nat) (s : State) : State :=
  endItem it st 0 [] (if it.op = 0x40 && st = sNORES then bump (aTXN 5) s else s)

/-- A store, an atomic or a PUBLISH at one line. One that does not cover its line reads it into the line cache first (R183). -/
def serveWrite (it : Item) (line : Nat) (s : State) : Option State :=
  match setRule s (line * 64) (itemWrite it) with
  | .denied m => some (endItem it sDENIED 0 [] (if m then bump (aSET 7) s else s))
  | .held => some (endItem it sRETRY 0 [] (bump (aSET 5) s))
  | _ =>
    if it.op = 0x10 && controlWaits it s then none
    else match pageForWrite (line / 1024) s with
    | .wait s' => if (kget [] s'.store.moveQ (pageQuarter (line / 1024))).length
          ≠ (kget [] s.store.moveQ (pageQuarter (line / 1024))).length then some s' else none
    | .answer st s' => some (if st = sPOISONED then endItem it st 0 (deadAnswer it).2 s' else refuseWrite it st s')
    | .go =>
      match prepWrite line none s with
      | .wait => none
      | .go s' => some s'
      | .ready =>
        let (ws, st, v, pl) := writeResult it line s
        let whole := coversLine ws line
        if !whole && !lineReadable s line then none
        else
        let (bad, s0) := if whole then (false, s) else fetchLine line {} s
        if bad then some (endItem it sPOISONED 0 (deadAnswer it).2 s0)
        else
          let (a, s1) := if ws.isEmpty then (0, touchPage (line / 1024) s0) else allocFor it.part ws s0
          if a ≠ 0 then some (refuseWrite it a s0)
          else
            let (fw, s2) := putLines it.part (itemWrite it) ws true s1
            let s3 := if it.op = 0x10 then applyControl it.off it.payload s2 else s2
            if it.op = 0x12 then
              let it' := { it with got := kput {} it.got (line - it.off / 64) { done := true } }
              let s4 := addForwards it.id fw (updateItem it.id (fun _ => it') s3)
              if (itemLines it').isEmpty then some (endWrite it' [] sOK 0 [] (writeStat it.op st s4))
              else some s4
            else some (endWrite it fw st v pl (writeStat it.op st s3))

/-! ### Messages (R156, R157) -/

/-- A ring's control line. -/
structure Ring where
  base : Nat
  cap : Nat
  head : Nat
  tail : Nat
  deriving DecidableEq, Repr

def ringAt (s : State) (off : Nat) : Ring :=
  { base := readNat s off 8, cap := readNat s (off + 8) 4, head := readNat s (off + 16) 8,
    tail := readNat s (off + 24) 8 }

/-- The control line keeps the rules of R156 for a partition. -/
def ringOk (s : State) (r : Ring) (prt : Nat) : Bool :=
  r.base % 64 = 0 && r.cap % 64 = 0 && decide (64 ≤ r.cap)
  && (List.range (extentOf (r.base + r.cap - 1) + 1 - extentOf r.base)).all fun i =>
      let e := extent s (extentOf r.base + i)
      decide (e.xstate ≠ 0) && e.part = prt

/-- The addresses of entry bytes, wrapped at the buffer's end. -/
def ringBytes (r : Ring) (pos n : Nat) : List Nat := (List.range n).map fun i => r.base + (pos + i) % r.cap

def ringLines (r : Ring) (pos n : Nat) : List Nat := ((ringBytes r pos n).map (· / 64)).dedup

/-- Step 6 for a ring's buffer (R132): at admission, or where the control line named another buffer then, when the request is performed. A request admitted goes on under a revocation (R134). -/
def ringCheck (it : Item) (r : Ring) (s : State) : Nat :=
  if it.ring = some (r.base, r.cap) then sOK else runCheck s it.src it.part r.base r.cap true

/-- End a request at step 6 (R133). -/
def denyItem (it : Item) (st : Nat) (s : State) : State :=
  endItem it st 0 [] (if st = sDENIED then srcFail it.src s else s)

/-- Make every line ready, opening what transactions are needed; an open combining entry drains first (R151). -/
def prepAll (f : Nat → State → Prep) (ls : List Nat) (s : State) : Prep :=
  if ls.any (combOpen s) then .go (ls.foldl (fun s l => drainComb l s) s)
  else ls.foldl (fun r l => match r with
    | .ready => f l s
    | .wait => (match f l s with | .go s' => .go s' | _ => .wait)
    | .go s1 => (match f l s1 with | .go s2 => .go s2 | _ => .go s1)) .ready

/-- MSG_APPEND (R157). -/
def serveAppend (it : Item) (s : State) : Option State :=
  let cl := it.off / 64
  let len := field it.payload 0 4
  let size := (8 + len + 63) / 64 * 64
  match prepWrite cl none s with
  | .wait => none
  | .go s' => some s'
  | .ready =>
    if pageUnusable s (cl / 1024) then some (endItem it sPOISONED 0 [] s)
    else if !lineReadable s cl then none
    else
      let (bad, s0) := fetchLine cl {} s
      let seen := touchPage (cl / 1024) s0
      let r := ringAt s it.off
      let node := match it.src with | .agent n => n | _ => nodeId s
      let c := ringCheck it r s
      if bad then some (endItem it sPOISONED 0 [] seen)
      else if !ringOk s r it.part then some (endItem it sBAD 0 [] seen)
      else if c ≠ sOK then some (denyItem it c seen)
      else if r.cap < size then some (endItem it sBAD 0 [] seen)
      else if r.cap < r.tail + size - r.head then some (endItem it sNORES 0 [] seen)
      else
        let addrs := ringBytes r r.tail size
        let bytes := leBytes 4 len ++ leBytes 2 node ++ [0, 0] ++ slice it.payload 8 len
        let data := bytes ++ List.replicate (size - bytes.length) 0
        let ws := (List.zipWith (fun a b => (a, [b])) addrs data) ++ [(it.off + 24, leBytes 8 (r.tail + size))]
        let ls := writeLines ws
        match prepAll (fun l s => prepWrite l none s) ls s0 with
        | .wait => none
        | .go s' => some s'
        | .ready =>
          if ls.any (poisoned s0) then some (endItem it sPOISONED 0 [] seen) else
          let stop := ls.foldl (fun r l => match r with
            | .go => pageForWrite (l / 1024) s0
            | r => r) Stop.go
          match stop with
          | .wait s' => if s'.store.moveQ = s0.store.moveQ then none else some s'
          | .answer st s' => some (endItem it st 0 [] (touchPage (cl / 1024) s'))
          | .go =>
            let (a, s1) := allocFor it.part ws s0
            if a ≠ 0 then some (endItem it a 0 [] seen)
            else
              let (fw, s2) := putLines it.part (itemWrite it) ws true s1
              some (endWrite it fw sOK (r.tail + size) [] s2)

/-- The largest record a frame toward a node can carry (R157). -/
def frameRoom (s : State) (n : Nat) : Nat :=
  let c := ctx s n
  if routedOn s n c.plane then routeMtu s c.plane - 104
  else match pickLink s c.plane n with
    | some l => maxFrame s l - 70
    | none => maxFrame s (16 * c.plane) - 70

/-- MSG_TAKE (R157). -/
def serveTake (it : Item) (s : State) : Option State :=
  let cl := it.off / 64
  match prepWrite cl none s with
  | .wait => none
  | .go s' => some s'
  | .ready =>
    if pageUnusable s (cl / 1024) then some (endItem it sPOISONED 0 [] s)
    else if !lineReadable s cl then none
    else
      let (bad, s0) := fetchLine cl {} s
      let seen := touchPage (cl / 1024) s0
      let r := ringAt s it.off
      let c := ringCheck it r s
      if bad then some (endItem it sPOISONED 0 [] seen)
      else if !ringOk s r it.part then some (endItem it sBAD 0 [] seen)
      else if c ≠ sOK then some (denyItem it c seen)
      else if r.head = r.tail then some (endItem it sOK 0 [] seen)
      else
        let hl := ringLines r r.head 8
        match prepAll (fun l s => prepRead l s) hl s0 with
        | .wait => none
        | .go s' => some s'
        | .ready =>
          if hl.any fun l => pageUnusable s (l / 1024) then some (endItem it sPOISONED 0 [] seen)
          else if hl.any fun l => !lineReadable s0 l then none
          else
            let (hbad, sh) := hl.foldl (fun (x : Bool × State) l =>
              let y := fetchLine l {} x.2
              (x.1 || y.1, y.2)) (false, s0)
            let len := leNat ((ringBytes r r.head 4).map (readByte s))
            let size := (8 + len + 63) / 64 * 64
            let room := match it.src with | .agent n => frameRoom s n | _ => 9216
            let done (st : Nat) : State := endItem it st 0 [] (touchPage (cl / 1024) sh)
            if hbad then some (done sPOISONED)
            else if len = 0 ∨ 8192 < len ∨ r.tail < r.head + size then some (done sBAD)
            else if room < (16 + len + 63) / 64 * 64 then some (done sNORES)
            else
              let ml := ringLines r r.head size
              match prepAll (fun l s => prepRead l s) ml sh with
              | .wait => none
              | .go s' => some s'
              | .ready =>
                if ml.any (fun l => !lineReadable sh l && !pageUnusable sh (l / 1024)) then none
                else match pageForWrite (cl / 1024) sh with
                | .wait s' => if s'.store.moveQ = sh.store.moveQ then none else some s'
                | .answer st s' => some (endItem it st 0 [] (touchPage (cl / 1024) s'))
                | .go =>
                  let (mbad, s1) := ml.foldl (fun (x : Bool × State) l =>
                    let y := accessLine l {} x.2
                    (x.1 || y.1 || pageUnusable x.2 (l / 1024), y.2)) (false, sh)
                  let msg := ((ringBytes r r.head (8 + len)).drop 8).map (readByte s)
                  let (fw, s2) := putLines it.part (itemWrite it) [(it.off + 16, leBytes 8 (r.head + size))] true s1
                  let extra := (units64 len - 1) * 640
                  let s3 := match it.src with
                    | .agent n => setCtx n (fun c => { c with bucket := c.bucket.map fun b => b - (extra : Int) }) s2
                    | _ => s2
                  some (endWrite it fw (if mbad then sPOISONED else sOK) len
                    (if mbad then ffs len else msg) s3)

/-! ### Coherence requests (R177) -/

/-- RD_SHARED, RD_OWN and UPGRADE. A poisoned line is answered at once, whatever its state (R171). -/
def serveCoh (it : Item) (s : State) : Option State :=
  let line := it.off / 64
  let p := line / 1024
  let n := match it.src with | .agent n => n | _ => nodeId s
  let e := dirEnt s line
  let own := decide (it.op ≠ 0x50)
  if lineBusy s line then none
  else if pageUnusable s p || poisoned s line then some (endItem it sPOISONED 0 (ffs 64) s)
  else if own && (match setRule s (line * 64) (itemWrite it) with | .denied _ => true | _ => false) then
    some (endItem it sDENIED 0 []
      (match setRule s (line * 64) (itemWrite it) with | .denied true => bump (aSET 7) s | _ => s))
  else if it.op ≠ 0x52 && loadHeld s it.off then some (endItem it sRETRY 0 [] (bump (aSET 5) s))
  else if !lineReadable s line then none
  else
    let pr := if own then prepWrite line (some n) s
      else match e.st with
        | .x => if e.owner = n then .ready
          else if setPinned s line then .wait
          else .go (updateItem it.id (fun x => { x with shared := true }) (startXR line true s))
        | _ => .ready
    match pr with
    | .wait => none
    | .go s' => some s'
    | .ready =>
      match prepEntry line s with
      | .wait => none
      | .go s' => some s'
      | .ready =>
        if setPinned s line then none
        else
        let (a, s0) := if own then allocFor it.part [(line * 64, [0])] s else (0, s)
        if a ≠ 0 then some (endItem it a 0 [] s)
        else
          let (bad, s1) := accessLine line {} (s0.onStore fun st => { st with newT3 := [] })
          if bad then some (endItem it sPOISONED 0 (ffs 64) (removeItem it.id s1))
          else
            let data := readBytes s (line * 64) 64
            let s2 := removeItem it.id s1
            if it.op = 0x50 then
              let g := match e.st with
                | .x => 2
                | .s => 1
                | _ => if bit (cfg s 0x060000 0 0) 0 && pageValid (page s p) && !it.shared then 2 else 1
              some (grantLine it n line g g data s2)
            else if it.op = 0x51 then some (grantLine it n line 2 2 data s2)
            else
              let listed := e.st = .s && !e.coarse && !e.vague && e.ptrs.contains n
              some (grantLine it n line 2 (if listed then 2 else 6) (if listed then [] else data) s2)

/-- EVICT_CLEAN. -/
def serveEvict (it : Item) (s : State) : Option State :=
  let line := it.off / 64
  let n := match it.src with | .agent n => n | _ => nodeId s
  let e := dirEnt s line
  if lineBusy s line then none
  else
    let s1 := match e.st with
      | .x => if e.owner = n then freeDir line s else s
      | .s => dropSharer n line s
      | _ => s
    some (endItem it sOK 0 [] s1)

/-- WB_DIRTY, performed on arrival (R176, R179): accepted from the owner, also in G ahead of its GRANT_ACK; otherwise stale. -/
def serveWb (it : Item) (s : State) : State :=
  let line := it.off / 64
  let n := match it.src with | .agent n => n | _ => nodeId s
  let e := dirEnt s line
  let mine := (e.st = .x && e.owner = n) || (e.st = .g && e.after && e.owner = n)
    || (e.st = .xr && e.owner = n) || (e.st = .bi && e.owner = n && e.ptrs.isEmpty && !e.coarse && !e.acks.isEmpty)
  let flushing := sliceSt s (lineBay line) = .flushing && pageValid (page s (line / 1024))
  if mine || flushing then
    let (fw, s1) := putLines it.part (itemWrite it) [(it.off, slice it.payload 0 64)] true s
    let s2 := if bit it.param 0 then poisonLine line none false s1 else s1
    let s3 := bump (aCOH 5) s2
    let s4 := if e.st = .x then freeDir line s3
      else if e.st = .g then setDir line (fun e => { e with wrote := true }) s3
      else if e.st = .xr || e.st = .bi then
        endTxn line (setDir line (fun e => { e with acks := e.acks.filter fun a => decide (a.1 ≠ n), ptrs := [] }) s3)
      else s3
    if fw.isEmpty then finish it sOK 0 [] s4
    else endWrite it fw sOK 0 [] (s4.onHome fun h => { h with waitq := h.waitq ++ [it] })
  else
    finish it sOK 0 [] (bump (aCOH 6) (dropSharer n line s))

/-! ### Order between requests of a pair (R143, R146) -/

/-- A request held until every earlier one of its pair is performed: STORE_FLAG, PUBLISH and MSG_APPEND in an ORD 1 frame, and strict requests. -/
def heldBack (it : Item) : Bool :=
  it.strict || it.op = 0x13 || ((it.op = 0x40 || it.op = 0x70) && it.ord)

/-- It must still wait for an earlier request of its pair. -/
def orderWaits (it : Item) (s : State) : Bool :=
  heldBack it && match it.src with
  | .agent n =>
    (s.home.waitq.any fun x => decide (x.id < it.id) && x.src = it.src)
    || it.behind.any fun b => (ctx s n).inbox.any fun d => d.op = b.1 && d.tag = b.2
  | _ => false

end Sys2Proof.Machine
end

