-- ==== Sys2Proof/Machine/Flags.lean ====
section
/-! DEFINITION. The flags of an operation (Table 7.13) and the number formats with their rounding (R200, R217, R218): which flags a rounded result sets; and how a stream and CORE_FLAGS take them up (R219). -/

namespace Sys2Proof.Machine

/-! ### The flag bits of Table 7.13 -/

def fINEXACT : Nat := 1
def fUNDERFLOW : Nat := 2
def fOVERFLOW : Nat := 4
def fINVALID : Nat := 8
def fSAT : Nat := 16
def fSPAN : Nat := 32

/-- A flag set when a condition holds. -/
def flagIf (b : Bool) (f : Nat) : Nat := if b then f else 0

/-! ### Formats (Table 7.3) -/

/-- Exponent and fraction bits of a floating format; none for the integer formats and for codes that are no number format. -/
def fmtFloat (f : Nat) : Option (Nat × Nat) :=
  match f with
  | 0 => some (2, 1) | 2 => some (2, 3) | 3 => some (3, 2) | 4 => some (4, 3) | 5 => some (5, 2)
  | 7 => some (8, 7) | 8 => some (5, 10) | 9 => some (8, 23) | 10 => some (11, 52)
  | _ => none

/-- Bits of an element. -/
def fmtBits (f : Nat) : Nat :=
  [4, 4, 6, 6, 8, 8, 8, 16, 16, 32, 64, 32, 128].getD f 0

/-- A format with infinities and NaNs laid out as IEEE 754: all but FP4, FP6 and E4M3. -/
def fmtIeee (f : Nat) : Bool := decide (5 ≤ f) && (fmtFloat f).isSome

/-- The default NaN of a format (R218); none where the format has no NaN. -/
def fmtNan (f : Nat) : Option Nat :=
  match f with
  | 4 | 5 => some 0x7F
  | 7 => some 0x7FC0
  | 8 => some 0x7E00
  | 9 => some 0x7FC00000
  | 10 => some 0x7FF8000000000000
  | _ => none

/-- The code of the largest finite magnitude of a floating format. -/
def fmtMax (f : Nat) : Nat :=
  match fmtFloat f with
  | some (eb, mb) => if f = 4 then 0x7E else if fmtIeee f then (2 ^ eb - 1) * 2 ^ mb - 1 else 2 ^ (eb + mb) - 1
  | none => 0

/-- The value an element's bits stand for (R200). -/
def fmtDecode (f w : Nat) : FV :=
  match fmtFloat f with
  | none =>
    let b := fmtBits f
    if w < 2 ^ (b - 1) then .fin false w 0 else .fin true (2 ^ b - w) 0
  | some (eb, mb) =>
    if fmtIeee f then ieeeDecode eb mb w
    else
      let n := decide (w / 2 ^ (eb + mb) % 2 = 1)
      let x := w / 2 ^ mb % 2 ^ eb
      let m := w % 2 ^ mb
      let bias : Int := 2 ^ (eb - 1) - 1
      if f = 4 ∧ w % 128 = 127 then .nan
      else if x = 0 then .fin n m (1 - bias - mb)
      else .fin n (m + 2 ^ mb) (x - bias - mb)

/-! ### Rounding (R217, R218) -/

/-- How a result is rounded: RND, the 16-bit random value of a stochastic rounding, and the free value of a result the spec states no value for. -/
structure Rnd where
  mode : Nat := 0
  r16 : Nat := 0
  free : Nat := 0

/-- Whether a magnitude rounds away from zero: `r` of `2^k` is the part discarded, `more` says that the exact value lies above that by less than one. -/
def roundsUp (rd : Rnd) (q r k : Nat) (more : Bool) : Bool :=
  match rd.mode with
  | 0 => decide (2 ^ k < 2 * r) || (decide (2 * r = 2 ^ k) && (more || decide (q % 2 = 1)))
  | 2 => decide (rd.r16 < r * 65536 / 2 ^ k)
  | _ => false

/-- A magnitude `m · 2^e` (a little more where `more` holds) as a multiple of `2^q`: the multiple and whether it was rounded. -/
def roundMag (rd : Rnd) (m : Nat) (e q : Int) (more : Bool) : Nat × Bool :=
  if q ≤ e then (m * 2 ^ (e - q).toNat, more)
  else
    let k := (q - e).toNat
    let t := m / 2 ^ k
    let r := m % 2 ^ k
    (t + b2n (roundsUp rd t r k more), decide (r ≠ 0) || more)

/-- A finite value rounded into an integer format: saturated in INT32 (R218), a free value where INT4 or INT8 cannot hold it (log entry 12). -/
def roundInt (f : Nat) (rd : Rnd) (neg : Bool) (m : Nat) (e : Int) (more : Bool) : Nat × Nat :=
  let b := fmtBits f
  let (t, x) := roundMag rd m e 0 more
  let v : Int := if neg then -t else t
  let lo : Int := -(2 ^ (b - 1))
  let hi : Int := 2 ^ (b - 1) - 1
  if lo ≤ v ∧ v ≤ hi then ((v % 2 ^ b).toNat, flagIf x fINEXACT)
  else if f = 11 then (((if neg then lo else hi) % 2 ^ b).toNat, fOVERFLOW + fSAT)
  else (rd.free % 2 ^ b, fOVERFLOW)

/-- A result beyond the largest finite value of a floating format (R218): infinity, or toward zero that value; E4M3 saturates; other formats without infinity state no value (log entry 12). -/
def overflowOut (f eb mb : Nat) (rd : Rnd) (neg : Bool) : Nat × Nat :=
  let sgn := if neg then 2 ^ (eb + mb) else 0
  if fmtIeee f then
    (sgn + (if rd.mode = 1 then fmtMax f else (2 ^ eb - 1) * 2 ^ mb), fOVERFLOW + fINEXACT)
  else if f = 4 then (sgn + fmtMax f, fOVERFLOW + fSAT + fINEXACT)
  else (rd.free % 2 ^ (1 + eb + mb), fOVERFLOW)

/-- A sum of finite terms that went beyond the range, in a floating format. -/
def sumOverflow (f : Nat) (rd : Rnd) (neg : Bool) : Nat × Nat :=
  match fmtFloat f with
  | some (eb, mb) => overflowOut f eb mb rd neg
  | none => (rd.free % 2 ^ fmtBits f, fOVERFLOW)

/-- A finite value rounded into a floating format (R217, R218). -/
def roundFloat (f eb mb : Nat) (rd : Rnd) (neg : Bool) (m : Nat) (e : Int) (more : Bool) : Nat × Nat :=
  let sgn := if neg then 2 ^ (eb + mb) else 0
  let bias : Int := 2 ^ (eb - 1) - 1
  let emin : Int := 1 - bias
  let q := max ((bitLen m : Int) - 1 + e - mb) (emin - mb)
  let (r, x) := roundMag rd m e q more
  let code := (q - (emin - mb)).toNat * 2 ^ mb + r
  if code ≤ fmtMax f then
    (sgn + code, flagIf x fINEXACT + flagIf (x && decide ((bitLen m : Int) + e ≤ emin)) fUNDERFLOW)
  else overflowOut f eb mb rd neg

/-- A value rounded into a format: its bits and the flags it sets. -/
def fmtRound (f : Nat) (rd : Rnd) (v : FV) (more : Bool) : Nat × Nat :=
  match v with
  | .nan => ((fmtNan f).getD (rd.free % 2 ^ fmtBits f), 0)
  | .inf n =>
    match fmtFloat f with
    | some (eb, mb) =>
      if fmtIeee f then ((if n then 2 ^ (eb + mb) else 0) + (2 ^ eb - 1) * 2 ^ mb, 0)
      else if f = 4 then ((if n then 128 else 0) + fmtMax 4, fOVERFLOW + fSAT)
      else (rd.free % 2 ^ fmtBits f, fOVERFLOW)
    | none =>
      if f = 11 then ((if n then 2 ^ 31 else 2 ^ 31 - 1), fOVERFLOW + fSAT)
      else (rd.free % 2 ^ fmtBits f, fOVERFLOW)
  | .fin n m e =>
    match fmtFloat f with
    | some (eb, mb) =>
      if m = 0 then ((if n then 2 ^ (eb + mb) else 0), 0) else roundFloat f eb mb rd n m e more
    | none => if m = 0 then (0, 0) else roundInt f rd n m e more

/-- A result and its flags, INVALID included: a NaN from operands that hold none (R218). -/
def fmtResult (f : Nat) (rd : Rnd) (ops : List FV) (v : FV) (more : Bool) : Nat × Nat :=
  let (w, fl) := fmtRound f rd v more
  (w, fl ||| flagIf (v.isNan && !ops.any FV.isNan) fINVALID)

/-! ### Taking flags up (R219) -/

def stream (s : State) (sid : Nat) : Stream := kget {} s.core.streams sid
def setStream (sid : Nat) (f : Stream → Stream) (s : State) : State :=
  s.onCore fun c => { c with streams := kmod {} c.streams sid f }

/-- OR flags into a stream's flags and into CORE_FLAGS of its partition. -/
def orFlags (sid fl : Nat) (s : State) : State :=
  let p := (stream s sid).part
  (setStream sid (fun t => { t with flags := t.flags ||| fl }) s).onCore fun c =>
    { c with coreFlags := kmod 0 c.coreFlags p (· ||| fl) }

end Sys2Proof.Machine
end

