-- ==== Sys2Proof/Machine/Operands.lean ====
section
/-! DEFINITION. Operand forms: the fields of operation words (Tables 8.3-8.11), the parameters of Felset commands, the fields of request records, scratchpad addresses and packed elements (R196, R201). -/

namespace Sys2Proof.Machine

/-! ### Operation words -/

/-- Bits [h:l] of an operation word. -/
def wf (w : BitVec 256) (h l : Nat) : Nat := bits w.toNat h l

def wOp (w : BitVec 256) : Nat := wf w 7 0
def wSigEn (w : BitVec 256) : Bool := bit w.toNat 31
def wSigTok (w : BitVec 256) : Nat := wf w 30 25
def wWaitEn (w : BitVec 256) : Bool := bit w.toNat 24
def wWaitTok (w : BitVec 256) : Nat := wf w 23 18
def wWaitKeep (w : BitVec 256) : Bool := bit w.toNat 17
def wWaitN (w : BitVec 256) : Nat := wf w 16 8
def wImm (w : BitVec 256) : Nat := wf w 255 192
def wKtop (w : BitVec 256) : Nat := wf w 75 68
def wCount (w : BitVec 256) : Nat := wf w 67 52
def wImmB (w : BitVec 256) : Bool := bit w.toNat 51
def wFunc (w : BitVec 256) : Nat := wf w 50 47
def wRb (w : BitVec 256) : Nat := wf w 46 42
def wRa (w : BitVec 256) : Nat := wf w 41 37
def wRd (w : BitVec 256) : Nat := wf w 36 32

/-- The header rules of R231; WAIT_N is 1-511 where WAIT_EN is 1 (Table 8.3). -/
def headerOk (w : BitVec 256) : Bool :=
  (if wWaitEn w then decide (wWaitN w ≠ 0) else decide (wf w 23 8 = 0))
  && (wSigEn w || decide (wf w 30 25 = 0))

/-- The opcodes of Table 8.4. -/
def opAssigned (op : Nat) : Bool :=
  within op 0x00 0x07 || decide (op = 0x10) || within op 0x20 0x2E || within op 0x30 0x32
  || within op 0x40 0x43 || decide (op = 0x50)

/-- The fields of Table 8.5 that a scalar, synchronisation or call opcode uses: KTOP, COUNT, IMMB, FUNC, RB, RA, RD, IMM. -/
def scalarUses (op : Nat) : Bool × Bool × Bool × Bool × Bool × Bool × Bool × Bool :=
  match op with
  | 0x02 => (false, false, false, false, false, false, true, true)
  | 0x03 => (false, false, true, true, true, true, true, true)
  | 0x04 => (false, false, true, true, true, true, false, true)
  | 0x05 => (false, false, false, false, false, false, true, true)
  | 0x06 => (false, false, false, false, false, true, true, true)
  | 0x07 => (false, false, false, false, true, true, false, true)
  | 0x41 => (false, false, false, true, false, false, false, true)
  | 0x42 => (false, true, false, false, false, false, false, true)
  | 0x43 => (false, false, false, false, false, true, false, true)
  | 0x50 => (true, false, false, true, true, true, true, true)
  | _ => (false, false, false, false, false, false, false, false)

/-- FUNC values an opcode assigns (Table 8.6). -/
def scalarFuncOk (op fn : Nat) : Bool :=
  match op with
  | 0x03 => decide (fn ≤ 12)
  | 0x04 => decide (fn ≤ 6)
  | 0x41 | 0x50 => decide (fn ≤ 1)
  | _ => true

/-- The field rules of a scalar, synchronisation or call word. -/
def scalarOk (w : BitVec 256) : Bool :=
  let op := wOp w
  let (k, c, ib, fn, rb, ra, rd, im) := scalarUses op
  decide (wf w 191 76 = 0)
  && (k || decide (wKtop w = 0)) && (c || decide (wCount w = 0)) && (ib || !wImmB w)
  && (fn || decide (wFunc w = 0)) && (rb || decide (wRb w = 0)) && (ra || decide (wRa w = 0))
  && (rd || decide (wRd w = 0)) && (im || decide (wImm w = 0))
  && scalarFuncOk op (wFunc w) && (!decide (op = 0x50) || within (wKtop w) 0x60 0x6B)

/-- Registers a word reads at issue (R233). -/
def wReads (w : BitVec 256) : List Nat :=
  match wOp w with
  | 0x03 | 0x04 => if wImmB w then [wRa w] else [wRa w, wRb w]
  | 0x05 => [wRd w]
  | 0x06 | 0x43 | 0x50 => [wRa w]
  | 0x07 => [wRa w, wRb w]
  | 0x10 => [wf w 53 49]
  | 0x30 | 0x31 | 0x32 => [wf w 71 67, wf w 66 62]
  | op => if within op 0x20 0x2E then
      (if bit w.toNat 51 then [wf w 50 46, wf w 188 184] else [wf w 50 46]) else []

/-- Registers that an LD or CALL writes when it completes (R239, R240). -/
def wWritesLate (w : BitVec 256) : List Nat :=
  match wOp w with
  | 0x06 => [wRd w]
  | 0x50 => if bit (wFunc w) 0 then [wRd w, wRb w] else [wRd w]
  | _ => []

/-- A value sign-extended from `n` bits, modulo 2^64. -/
def sext (n v : Nat) : Nat := if v < 2 ^ (n - 1) then v else v + 2 ^ 64 - 2 ^ n

/-! ### Scratchpad addresses and windows (R196, R197) -/

/-- The bays in service, in ascending physical order. -/
def baysIn (s : State) : List Nat := (List.range 16).filter fun b => !bayMapped s b

/-- The physical bay of a logical one; none at or above the number in service. -/
def physBay (s : State) (j : Nat) : Option Nat := (baysIn s)[j]?

def spKey (bay off : Nat) : Nat := bay * 2 ^ 24 + off

/-- First offset beyond a bay's scratchpad. -/
def spTop : Nat := 0xC00000

/-- A run of scratchpad bytes of one logical bay. -/
structure SpRun where
  bay : Nat
  off : Nat
  len : Nat
  deriving DecidableEq, Repr

/-- Offsets and bays that exist (R196). -/
def runExists (s : State) (r : SpRun) : Bool :=
  decide (r.bay < (baysIn s).length) && (decide (r.len = 0) || decide (r.off + r.len ≤ spTop))

/-- Inside the window of a partition (R197). -/
def runInWindow (s : State) (p : Nat) (r : SpRun) : Bool :=
  decide (r.len = 0)
  || decide (swBase s p * 65536 ≤ r.off ∧ r.off + r.len ≤ (swBase s p + swSize s p) * 65536)

def runsOverlap (a b : SpRun) : Bool :=
  decide (a.bay = b.bay ∧ a.off < b.off + b.len ∧ b.off < a.off + a.len)

/-! ### Packed elements (R201) -/

/-- The bits of element `i` of a packed array, given the bytes by offset. -/
def getElem (rd : Nat → Byte) (off b i : Nat) : Nat :=
  let lo := i * b
  let first := lo / 8
  let cnt := (lo + b + 7) / 8 - first
  leNat ((List.range cnt).map fun k => rd (off + first + k)) / 2 ^ (lo % 8) % 2 ^ b

/-- The bytes that an element's bits change, given the bytes by offset. -/
def putElem (rd : Nat → Byte) (off b i v : Nat) : List (Nat × Byte) :=
  let lo := i * b
  let first := lo / 8
  let cnt := (lo + b + 7) / 8 - first
  let old := leNat ((List.range cnt).map fun k => rd (off + first + k))
  let nw := setBits old (lo % 8 + b - 1) (lo % 8) v
  (List.range cnt).zipWith (fun k x => (off + first + k, x)) (leBytes cnt nw)

/-- Bytes that `n` packed elements take. -/
def packBytes (b n : Nat) : Nat := (n * b + 7) / 8

/-! ### Parameters of Felset commands -/

/-- A little-endian parameter. -/
def prm (c : FsCmd) (off n : Nat) : Nat := field c.params off n

/-- The 32 bytes of a NODE_ID and the like as a big-endian-free plain run. -/
def prmBytes (c : FsCmd) (off n : Nat) : List Byte := slice c.params off n

/-! ### Fields of request records (Table 5.1) -/

def reqPart (c : TxnReq) : Nat := c.flags.toNat % 32
def reqStrict (c : TxnReq) : Bool := bit c.flags.toNat 6
def reqOff (c : TxnReq) : Nat := c.addr.toNat % 2 ^ 50

end Sys2Proof.Machine
end

