-- ==== Sys2Proof/Machine/Millstone.lean ====
section
/-! DEFINITION. The arithmetic of the Millstone (R202-R218): long accumulators, compensated pairs, their CHAIN forms, drains, and what one MM word reads, checks and writes (R241-R243). -/

namespace Sys2Proof.Machine

/-! ### The long accumulator (R209-R211) -/

/-- A window `w · 2^l`; `live` says that it has an anchor; special values as Table 7.9 codes them; whether bits were dropped by an earlier link and by this operation. -/
structure LAcc where
  w : Int := 0
  l : Int := 0
  live : Bool := false
  special : Nat := 0
  lost : Bool := false
  drop : Bool := false
  nanIn : Bool := false

/-- Product LSB place and top product place of an operand pair (Table 7.7). -/
def prodPlaces (fa fb : Nat) : Int × Int :=
  match fa, fb with
  | 0, 0 => (-2, 5) | 2, 2 => (-6, 5) | 3, 3 => (-8, 9) | 2, 3 | 3, 2 => (-7, 7)
  | 4, 4 => (-18, 17) | 5, 5 => (-32, 31) | 4, 5 | 5, 4 => (-25, 24)
  | 1, 1 => (0, 6) | _, _ => (0, 14)

/-- Drop `d` low bits, and whether one of them was not zero. -/
def dropLow (x : Int) (d : Nat) : Int × Bool := (x / 2 ^ d, decide (x % 2 ^ d ≠ 0))

/-- Add a block sum at place `at_` (its LSB) with scale sum `sc` to the accumulator (R210). -/
def LAcc.addBlock (tp : Int) (a : LAcc) (sum place sc : Int) : LAcc :=
  if sum = 0 then a
  else
    let t := if a.live then max (a.l + 110) (sc + tp + 16) else sc + tp + 16
    let l := t - 110
    let (w, d1) := if a.live then dropLow a.w (l - a.l).toNat else (0, false)
    let (b, d2) := if place ≤ l then dropLow sum (l - place).toNat else (sum * 2 ^ (place - l).toNat, false)
    let r := w + b
    let fits := decide (-(2 ^ 111) ≤ r ∧ r < 2 ^ 111)
    let (r', d3) := if fits then (r, false) else dropLow r 1
    { a with w := r', l := if fits then l else l + 1, live := true, drop := a.drop || d1 || d2 || d3 }

/-- Take a special product or term into the accumulator. -/
def addSpecial (old : Nat) (v : FV) : Nat :=
  match v with
  | .nan => 3
  | .inf n =>
    let k := if n then 2 else 1
    if old = 0 then k else if old = k then old else 3
  | .fin .. => old

/-- One block of products: operand values in pairs, and the two scale bytes where the operands are block-scaled. -/
def LAcc.block (lsb tp : Int) (a : LAcc) (ps : List (FV × FV)) (sa sb : Option Nat) : LAcc :=
  if sa = some 255 ∨ sb = some 255 then { a with special := 3, nanIn := true }
  else
    let ex (s : Option Nat) : Int := match s with | some e => (e : Int) - 127 | none => 0
    let sc := ex sa + ex sb
    let prods := ps.map fun p => FV.mul p.1 p.2
    let sum := (prods.map fun v => match v with
      | .fin n m e => FV.sig n m * 2 ^ (e - lsb).toNat
      | _ => 0).sum
    let a1 := { a with special := prods.foldl addSpecial a.special,
                       nanIn := a.nanIn || ps.any fun p => p.1.isNan || p.2.isNan }
    a1.addBlock tp sum (lsb + sc) sc

/-- The value an accumulator holds. -/
def LAcc.value (a : LAcc) : FV :=
  match a.special with
  | 0 => .fin (decide (a.w < 0)) a.w.natAbs a.l
  | 1 => .inf false
  | 2 => .inf true
  | _ => .nan

/-- The CHAIN element of Table 7.9. An accumulator that never took a non-zero block has no anchor: its L is a free value below every anchor a block can ask for (log entry 13). -/
def LAcc.chain (a : LAcc) (free : Nat) : Nat :=
  let l : Int := if a.live then a.l else -512 + (free % 128 : Nat)
  (a.w % 2 ^ 112).toNat + at' 112 (l % 1024).toNat + at' 125 (b2n (a.lost || a.drop)) + at' 126 a.special

/-- An accumulator from its CHAIN element. -/
def LAcc.ofChain (x : Nat) : LAcc :=
  let sx (b v : Nat) : Int := if v < 2 ^ (b - 1) then v else (v : Int) - 2 ^ b
  { w := sx 112 (bits x 111 0), l := sx 10 (bits x 121 112), live := true, special := bits x 127 126,
    lost := bit x 125, nanIn := decide (bits x 127 126 = 3) }

/-! ### Compensated pairs (R212, R213) -/

/-- Rounded to `p` significand bits with the exponent range of binary64, to nearest even. -/
def roundP (p : Nat) (v : FV) : FV :=
  match v with
  | .fin n m e =>
    if m = 0 then v
    else
      let (r, q) := roundTo (p - 1) (-1022) m e
      if (bitLen r : Int) + q ≤ 1024 then .fin n r q else .inf n
  | _ => v

/-- Add one term to a pair: TwoSum, then the error into lo. -/
def Pair.add (p : Nat) (a : Pair) (x : FV) : Pair :=
  let s := FV.add a.hi x
  let h := roundP p s
  match h with
  | .fin .. => { hi := h, lo := roundP p (FV.add a.lo (FV.add s (FV.neg h))) }
  | _ => { hi := h, lo := FV.zero }

/-- Add a pair to a pair, as partial sums are combined (R222). -/
def Pair.join (p : Nat) (a b : Pair) : Pair :=
  let c := Pair.add p a b.hi
  match c.hi with
  | .fin .. => { c with lo := roundP p (FV.add c.lo b.lo) }
  | _ => c

/-- The value drained from a pair. -/
def Pair.value (a : Pair) : FV := FV.add a.hi a.lo

def Pair.chain (a : Pair) : Nat := at' 64 (ieeeEncode 11 52 a.hi) + ieeeEncode 11 52 a.lo
def Pair.ofChain (x : Nat) : Pair :=
  { hi := ieeeDecode 11 52 (x / 2 ^ 64), lo := ieeeDecode 11 52 (x % 2 ^ 64) }

/-- The products of one k as terms (R213): an FP64 product is split in two. -/
def pairTerms (f : Nat) (a b : FV) : List FV :=
  let p := FV.mul a b
  if f = 10 then
    let h := roundP 53 p
    match h with
    | .fin .. => [h, FV.add p (FV.neg h)]
    | _ => [h]
  else [p]

/-! ### The MM word (Table 8.7) -/

structure MmF where
  aBay : Nat
  aOff : Nat
  asOff : Nat
  bOff : Nat
  bsOff : Nat
  cOff : Nat
  ciOff : Nat
  aStride : Nat
  m : Nat
  n : Nat
  k : Nat
  chin : Bool
  scb : Bool
  sca : Bool
  rnd : Nat
  fo : Nat
  fb : Nat
  fa : Nat

/-- The fields, with the base register's value [23:0] added to every offset. -/
def mmFields (w : BitVec 256) (base : Nat) : MmF :=
  let b := base % 2 ^ 24
  { aBay := wf w 255 252, aOff := wf w 251 228 + b, asOff := wf w 227 204 + b, bOff := wf w 203 180 + b,
    bsOff := wf w 179 156 + b, cOff := wf w 155 132 + b, ciOff := wf w 131 108 + b, aStride := wf w 107 92,
    m := wf w 91 76 + 1, n := wf w 75 64 + 1, k := wf w 63 54 + 1, chin := bit w.toNat 48, scb := bit w.toNat 47,
    sca := bit w.toNat 46, rnd := wf w 45 44, fo := wf w 43 40, fb := wf w 39 36, fa := wf w 35 32 }

/-- Accumulates in a long accumulator (R209). -/
def MmF.long (f : MmF) : Bool := decide (f.fa ≤ 6)

/-- Drain outputs of Table 7.10. -/
def MmF.outOk (f : MmF) : Bool :=
  match f.fa with
  | 0 | 2 | 3 | 4 | 5 => [9, 7, 8, 4, 5, 12].contains f.fo
  | 1 | 6 => [11, 9, 12].contains f.fo
  | 7 | 8 => [9, 7, 8, 12].contains f.fo
  | 9 => [9, 12].contains f.fo
  | _ => [10, 9, 12].contains f.fo

/-- Pairing, scaling, limits and outputs (R202-R204, R216, R217, R241). -/
def MmF.ok (f : MmF) : Bool :=
  let narrow := f.fa = 0 || f.fa = 1
  let pair := f.fa = f.fb || (f.fa = 4 && f.fb = 5) || (f.fa = 5 && f.fb = 4)
    || (f.fa = 2 && f.fb = 3) || (f.fa = 3 && f.fb = 2)
  let scale (x : Nat) (sc : Bool) : Bool := match x with
    | 0 | 2 | 3 => sc
    | 4 | 5 => true
    | _ => !sc
  decide (f.fa ≤ 10) && decide (f.fb ≤ 10) && pair && scale f.fa f.sca && scale f.fb f.scb
  && (!(f.sca || f.scb) || decide (f.k % 32 = 0)) && decide (f.n ≤ if narrow then 3072 else 1536)
  && decide (f.aStride % 8 = 0) && decide (packBytes (fmtBits f.fa) f.k ≤ f.aStride)
  && decide (f.rnd ≠ 3) && f.outOk

/-- Columns a bay holds in a pass. -/
def MmF.wb (f : MmF) : Nat := if f.fa = 0 || f.fa = 1 then 192 else 96

/-- Column passes (R208) with `nb` bays in service. -/
def MmF.passes (f : MmF) (nb : Nat) : Nat := (f.n + f.wb * nb - 1) / (f.wb * nb)

/-- Columns of a bay in a pass that are below N. -/
def MmF.cols (f : MmF) (nb p j : Nat) : Nat := min f.wb (f.n - p * f.wb * nb - f.wb * j)

/-- Passes and bays with columns. -/
def MmF.tiles (f : MmF) (nb : Nat) : List (Nat × Nat) :=
  ((List.range (f.passes nb)).flatMap fun p => (List.range nb).map fun j => (p, j)).filter fun x =>
    decide (f.cols nb x.1 x.2 ≠ 0)

def MmF.runsA (f : MmF) : List SpRun :=
  (List.range f.m).map fun r => ⟨f.aBay, f.aOff + r * f.aStride, packBytes (fmtBits f.fa) f.k⟩
def MmF.runsAS (f : MmF) : List SpRun := if f.sca then [⟨f.aBay, f.asOff, f.m * (f.k / 32)⟩] else []
def MmF.bRow (f : MmF) (p k : Nat) : Nat := f.bOff + (p * f.k + k) * (f.wb * fmtBits f.fb / 8)
def MmF.runsB (f : MmF) (nb : Nat) : List SpRun :=
  (f.tiles nb).flatMap fun x => (List.range f.k).map fun k =>
    ⟨x.2, f.bRow x.1 k, packBytes (fmtBits f.fb) (f.cols nb x.1 x.2)⟩
def MmF.bsRow (f : MmF) (p kb : Nat) : Nat := f.bsOff + (p * (f.k / 32) + kb) * f.wb
def MmF.runsBS (f : MmF) (nb : Nat) : List SpRun :=
  if f.scb then (f.tiles nb).flatMap fun x => (List.range (f.k / 32)).map fun kb =>
    ⟨x.2, f.bsRow x.1 kb, f.cols nb x.1 x.2⟩ else []
/-- Offset of row `r` of a pass in an output of `ob` bytes an element. -/
def MmF.cRow (f : MmF) (off ob p r : Nat) : Nat := off + (p * f.m + r) * f.wb * ob
def MmF.runsOut (f : MmF) (nb off ob : Nat) : List SpRun :=
  (f.tiles nb).flatMap fun x => (List.range f.m).map fun r =>
    ⟨x.2, f.cRow off ob x.1 r, f.cols nb x.1 x.2 * ob⟩
def MmF.ob (f : MmF) : Nat := fmtBits f.fo / 8

/-- The failure of an MM word's fields and addresses: CAUSE and status, none where it may run (R203, R241-R243). -/
def mmCheck (s : State) (p : Nat) (f : MmF) : Option (Nat × Nat) :=
  let nb := (baysIn s).length
  if !f.ok || nb = 0 then some (1, sBAD)
  else
    let ins := f.runsA ++ f.runsAS ++ f.runsB nb ++ f.runsBS nb
    let ci := if f.chin then f.runsOut nb f.ciOff 16 else []
    let out := f.runsOut nb f.cOff f.ob
    if !((ins ++ ci ++ out).all (runExists s)) then some (1, sBAD)
    else if !((ins ++ ci ++ out).all (runInWindow s p)) then some (2, sDENIED)
    else if out.any fun o => ins.any (runsOverlap o) then some (1, sBAD)
    else if f.chin && !(f.fo = 12 && f.cOff = f.ciOff) && out.any (fun o => ci.any (runsOverlap o)) then some (1, sBAD)
    else none

/-- One result element: its bits and flags. `rd` gives a byte of a logical bay. -/
def mmElem (rd : Nat → Nat → Byte) (f : MmF) (x : Nat × Nat) (r i : Nat) (rd' : Rnd) : Nat × Nat :=
  let elA (k : Nat) : FV := fmtDecode f.fa (getElem (rd f.aBay) (f.aOff + r * f.aStride) (fmtBits f.fa) k)
  let elB (k : Nat) : FV := fmtDecode f.fb (getElem (rd x.2) (f.bRow x.1 k) (fmtBits f.fb) i)
  let ci : Nat := if f.chin then leNat ((List.range 16).map fun b => rd x.2 (f.cRow f.ciOff 16 x.1 r + i * 16 + b)) else 0
  let drain (v : FV) (nanIn : Bool) : Nat × Nat :=
    let (w, fl) := fmtRound f.fo rd' v false
    (w, fl ||| flagIf (v.isNan && !nanIn) fINVALID)
  if f.long then
    let (lsb, tp) := prodPlaces f.fa f.fb
    let a0 : LAcc := if f.chin then LAcc.ofChain ci else {}
    let acc := (List.range ((f.k + 31) / 32)).foldl (fun a kb =>
      let ks := (List.range 32).filterMap fun t => if 32 * kb + t < f.k then some (32 * kb + t) else none
      a.block lsb tp (ks.map fun k => (elA k, elB k))
        (if f.sca then some (rd f.aBay (f.asOff + r * (f.k / 32) + kb)).toNat else none)
        (if f.scb then some (rd x.2 (f.bsRow x.1 kb + i)).toNat else none)) a0
    let (w, fl) := if f.fo = 12 then (acc.chain rd'.free, flagIf (acc.value.isNan && !acc.nanIn) fINVALID)
      else drain acc.value acc.nanIn
    (w, fl ||| flagIf acc.drop fSPAN)
  else
    let p := if f.fa = 7 || f.fa = 8 then 30 else 53
    let a0 : Pair := if f.chin then Pair.ofChain ci else {}
    let acc := (List.range f.k).foldl (fun a k => (pairTerms f.fa (elA k) (elB k)).foldl (Pair.add p) a) a0
    let nanIn := a0.hi.isNan || (List.range f.k).any fun k => (elA k).isNan || (elB k).isNan
    let ovf := flagIf (!acc.hi.isNan && (match acc.hi with | .inf _ => true | _ => false)
      && !(match a0.hi with | .inf _ => true | _ => false)
      && !((List.range f.k).any fun k => (match elA k with | .inf _ => true | _ => false)
        || (match elB k with | .inf _ => true | _ => false))) (fOVERFLOW + fINEXACT)
    let (w, fl) := if f.fo = 12 then (acc.chain, flagIf (acc.hi.isNan && !nanIn) fINVALID)
      else match ovf, acc.hi with
        | 0, _ => drain acc.value nanIn
        | _, .inf n => sumOverflow f.fo rd' n
        | _, _ => drain acc.value nanIn
    (w, fl ||| ovf)

/-- The free values of result `i` of an operation, a random one for its rounding among them. -/
def rndAt (s : State) (mode i : Nat) : Rnd :=
  { mode := mode, r16 := (Config.freeWord (s.free + i)).toNat % 65536, free := (Config.freeWord (s.free + i)).toNat }

/-- Those of a core result: the random value is the next of its bay's generator (R217), the `k`-th that the operation draws there. -/
def rndIn (s : State) (mode bay k i : Nat) : Rnd :=
  { rndAt s mode i with
    r16 := (Config.bayRandom (kget 0 s.core.seeds bay) (kget 0 s.core.draws bay + k)).toNat }

/-- An operation has drawn random values in some bays: how many in each (R217: one a result where it rounds stochastically). -/
def drawn (mode : Nat) (bs : List (Nat × Nat)) (s : State) : State :=
  if mode ≠ 2 then s
  else s.onCore fun c => { c with draws := bs.foldl (fun m b => kmod 0 m b.1 (· + b.2)) c.draws }

/-- The generators are reseeded from Novva's source at the start of a stream (R217). -/
def seedBays (s : State) : State :=
  (List.range 16).foldl (fun s b =>
    let (x, s1) := drbgBytes 8 s
    s1.onCore fun c => { c with seeds := kput 0 c.seeds b (BitVec.ofNat 64 (leNat x)), draws := kput 0 c.draws b 0 }) s

/-- Results of a bay in the passes before `p`. -/
def MmF.before (f : MmF) (nb j p : Nat) : Nat := ((List.range p).map fun q => f.m * f.cols nb q j).sum

/-- The random values that an MM word draws in each bay. -/
def MmF.drawsIn (f : MmF) (s : State) : List (Nat × Nat) :=
  let nb := (baysIn s).length
  (List.range nb).map fun j => ((physBay s j).getD 0, f.before nb j (f.passes nb))

/-- The places of an MM word's elements of 16 B at an offset, by physical scratchpad key (R215). -/
def MmF.chainKeys (s : State) (f : MmF) (off : Nat) : List Nat :=
  let nb := (baysIn s).length
  (f.tiles nb).flatMap fun x => (List.range f.m).flatMap fun r =>
    (List.range (f.cols nb x.1 x.2)).map fun i => spKey ((physBay s x.2).getD 0) (f.cRow off 16 x.1 r + i * 16)

/-- Every result of an MM word: the bytes to write by physical scratchpad key, and the flags. -/
def mmResults (s : State) (rd : Nat → Nat → Byte) (f : MmF) : List (Nat × Byte) × Nat :=
  let nb := (baysIn s).length
  let els := (f.tiles nb).flatMap fun x => (List.range f.m).flatMap fun r =>
    (List.range (f.cols nb x.1 x.2)).map fun i => (x, r, i)
  let res := els.zipIdx.map fun e =>
    let (x, r, i) := e.1
    let bay := (physBay s x.2).getD 0
    let (w, fl) := mmElem rd f x r i (rndIn s f.rnd bay (f.before nb x.2 x.1 + r * f.cols nb x.1 x.2 + i) e.2)
    let off := f.cRow f.cOff f.ob x.1 r + i * f.ob
    (((leBytes f.ob w).zipIdx.map fun (b : Byte × Nat) => (spKey bay (off + b.2), b.1)), fl)
  (res.flatMap (·.1), res.foldl (fun a x => a ||| x.2) 0)

/-- Results an MM word forms: how many free values it draws. -/
def MmF.results (f : MmF) : Nat := f.m * f.n

/-- Beats per streamed row (Table 7.4). -/
def MmF.c (f : MmF) : Nat := match f.fa with | 7 | 8 => 2 | 9 => 8 | 10 => 32 | _ => 1

end Sys2Proof.Machine
end

