-- ==== Sys2Proof/Machine/Vector.lean ====
section
/-! DEFINITION. The vector engine (R220-R222, R244): element operations, real functions, conversions, block scaling, reductions, and what one vector word reads, checks and writes. -/

namespace Sys2Proof.Machine

/-! ### Division, square root and real functions -/

/-- A result: a value with whether the exact one lies a little beyond it, or one the spec states no value for. -/
inductive VRes where
  | val (v : FV) (more : Bool)
  | open_

/-- A quotient (Table 8.10). A zero divisor and an infinity over an infinity have no stated result (log entry 12). -/
def divF (a b : FV) : VRes :=
  match a, b with
  | .nan, _ | _, .nan => .val .nan false
  | .inf _, .inf _ => .open_
  | .inf n, .fin k m _ => if m = 0 then .open_ else .val (.inf (n != k)) false
  | .fin n _ _, .inf k => .val (.fin (n != k) 0 0) false
  | .fin n1 m1 e1, .fin n2 m2 e2 =>
    if m2 = 0 then .open_
    else
      let k := 160 + bitLen m2
      .val (.fin (n1 != n2) (m1 * 2 ^ k / m2) (e1 - e2 - k)) (decide (m1 * 2 ^ k % m2 ≠ 0))

/-- A square root; of a negative number no result is stated (log entry 12). -/
def sqrtF (a : FV) : VRes :=
  match a with
  | .nan => .val .nan false
  | .inf n => if n then .open_ else .val (.inf false) false
  | .fin n m e =>
    if m = 0 then .val (.fin n 0 0) false
    else if n then .open_
    else
      let k : Nat := 320 + (e % 2).toNat
      let r := Nat.sqrt (m * 2 ^ k)
      .val (.fin false r ((e - k) / 2)) (decide (r * r ≠ m * 2 ^ k))

/-- Fixed-point numbers of the real functions: units of 2^-256. -/
def fxOne : Int := 2 ^ 256
def fxMul (a b : Int) : Int := a * b / fxOne

/-- A value in fixed point, dropping what lies below. -/
def fxOf (n : Bool) (m : Nat) (e : Int) : Int :=
  let x := if -256 ≤ e then m * 2 ^ (e + 256).toNat else m / 2 ^ (-256 - e).toNat
  FV.sig n x

/-- Σ of a series from its terms: `t` the present term, `f i t` the next. -/
def fxSeries (f : Nat → Int → Int) : Nat → Nat → Int → Int
  | 0, _, _ => 0
  | n + 1, i, t => t + fxSeries f n (i + 1) (f i t)

/-- e^r for 0 ≤ r < 1. -/
def fxExp (r : Int) : Int := fxSeries (fun i t => fxMul t r / (i + 1)) 90 0 fxOne

/-- 2·atanh(z) for small z: Σ 2 z^(2i+1) ÷ (2i+1), the power kept apart. -/
def fxAtanh2 (z : Int) : Int :=
  let z2 := fxMul z z
  let rec go : Nat → Nat → Int → Int
    | 0, _, _ => 0
    | n + 1, i, p => 2 * p / (2 * i + 1) + go n (i + 1) (fxMul p z2)
  go 110 0 z

def fxLn2 : Int := fxAtanh2 (fxOne / 3)

/-- A fixed-point number as a value. -/
def fxVal (x : Int) (sh : Int) : FV := .fin (decide (x < 0)) x.natAbs (sh - 256)

/-- e^x for a finite x: beyond the range of every format as a huge or a tiny number. -/
def expF (n : Bool) (m : Nat) (e : Int) : FV :=
  if 11 ≤ (bitLen m : Int) + e then (if n then .fin false 1 (-5000) else .fin false 1 5000)
  else
    let x := fxOf n m e
    let k := x / fxLn2
    fxVal (fxExp (x - k * fxLn2)) k

def exp2F (n : Bool) (m : Nat) (e : Int) : FV :=
  if 14 ≤ (bitLen m : Int) + e then (if n then .fin false 1 (-20000) else .fin false 1 20000)
  else
    let x := fxOf n m e
    let k := x / fxOne
    fxVal (fxExp (fxMul (x - k * fxOne) fxLn2)) k

/-- The natural logarithm of a positive value, in fixed point. -/
def lnFx (m : Nat) (e : Int) : Int :=
  let b := bitLen m
  let y : Int := (m : Int) * 2 ^ 256 / 2 ^ (b - 1)
  (e + b - 1) * fxLn2 + fxAtanh2 ((y - fxOne) * fxOne / (y + fxOne))

/-- 1 ÷ (1 + e^-x). -/
def sigmoidF (n : Bool) (m : Nat) (e : Int) : VRes :=
  divF (.fin false 1 0) (FV.add (.fin false 1 0) (expF (!n) m e))

/-- tanh: for small x from its first two terms, else from e^(-2|x|). -/
def tanhF (n : Bool) (m : Nat) (e : Int) : VRes :=
  if (bitLen m : Int) + e ≤ -30 then
    match divF (.fin n (m * m * m) (3 * e)) (.fin true 3 0) with
    | .val t _ => .val (FV.add (.fin n m e) t) true
    | r => r
  else
    let t := expF true m (e + 1)
    match divF (FV.add (.fin false 1 0) (FV.neg t)) (FV.add (.fin false 1 0) t) with
    | .val (.fin _ q x) _ => .val (.fin n q x) true
    | r => r

/-- π ÷ 4 by Machin's formula, in fixed point. -/
def fxAtan (d : Int) : Int :=
  let z := fxOne / d
  let z2 := fxMul z z
  let rec go : Nat → Nat → Int → Int
    | 0, _, _ => 0
    | n + 1, i, p => p / (2 * i + 1) - go n (i + 1) (fxMul p z2)
  go 80 0 z
def fxPi : Int := 4 * (4 * fxAtan 5 - fxAtan 239)

/-- erf: x · 2 ÷ √π · Σ (-x²)^i ÷ (i! (2i+1)), 1 less a little beyond 7. -/
def erfF (n : Bool) (m : Nat) (e : Int) : VRes :=
  if 7 * fxOne ≤ fxOf false m e ∨ 4 ≤ (bitLen m : Int) + e then .val (.fin n (2 ^ 60 - 1) (-60)) true
  else
    let x2 := fxMul (fxOf false m e) (fxOf false m e)
    let rec go : Nat → Nat → Int → Int
      | 0, _, _ => 0
      | k + 1, i, p => p / (2 * i + 1) - go k (i + 1) (fxMul p x2 / (i + 1))
    let g := go 260 0 fxOne
    let c := g * 2 * fxOne / (Nat.sqrt (fxPi * fxOne).toNat : Int)
    .val (FV.mul (.fin n m e) (fxVal c 0)) true

/-- The functions of FUNC1 of a finite operand; where none is defined, no result is stated (log entry 12). -/
def func1F (fn : Nat) (a : FV) : VRes :=
  match a with
  | .nan => .val .nan false
  | .inf _ => .open_
  | .fin n m e =>
    match fn with
    | 0 => divF (.fin false 1 0) a
    | 1 => if n || m = 0 then .open_
           else match divF (.fin false 1 0) a with
             | .val q _ => (match sqrtF q with | .val r _ => .val r true | r => r)
             | r => r
    | 2 => .val (expF n m e) true
    | 3 => .val (exp2F n m e) true
    | 4 => if n || m = 0 then .open_ else .val (fxVal (lnFx m e) 0) true
    | 5 => if n || m = 0 then .open_ else .val (fxVal (lnFx m e * fxOne / fxLn2) 0) true
    | 6 => tanhF n m e
    | 7 => sigmoidF n m e
    | _ => erfF n m e

/-- A FUNC1 result: a free one of the codes within the accuracy of Table 7.11 (1 ulp, or 2 for tanh, sigmoid and erf; log entry 14). One beyond the range overflows by RND (R218). -/
def func1Round (fn : Nat) (rd : Rnd) (a : FV) : Nat × Nat :=
  match func1F fn a with
  | .open_ => let w := rd.free % 2 ^ 32; (w, flagIf ((fmtDecode 9 w).isNan && !a.isNan) fINVALID)
  | .val v more =>
    match v with
    | .fin n _ _ =>
      let (w, fl) := fmtRound 9 { rd with mode := 1 } v more
      let d : Int := if 6 ≤ fn then (rd.free % 4 : Nat) - 1 else if more then (rd.free % 2 : Nat) else (rd.free % 3 : Nat) - 1
      let mag : Int := (w % 2 ^ 31 : Nat) + d
      if fl / fOVERFLOW % 2 = 1 then sumOverflow 9 rd n
      else if 0x7F800000 ≤ mag then (if rd.mode = 1 then (w, fl) else sumOverflow 9 rd n)
      else (w / 2 ^ 31 * 2 ^ 31 + (max 0 mag).toNat, fl)
    | _ => fmtResult 9 rd [a] v more

/-! ### The vector word (Table 8.9) -/

structure VecF where
  op : Nat
  d : Nat
  s1 : Nat
  s2 : Nat
  s3 : Nat
  s2raw : Nat
  len : Nat
  row : Nat
  mask : Nat
  rsvd : Nat
  s2reg : Bool
  s2val : Nat
  fn : Nat
  rnd : Nat
  fd : Nat
  fs : Nat

/-- The fields, with the base register added to every offset; `rv` is the value of the register S2REG names. -/
def vecFields (w : BitVec 256) (base rv : Nat) : VecF :=
  let b := base % 2 ^ 24
  { op := wOp w, d := wf w 255 232 + b, s1 := wf w 231 208 + b, s2 := wf w 207 184 + b, s3 := wf w 183 160 + b,
    s2raw := wf w 207 184, len := wf w 159 140 + 1, row := wf w 139 124 + 1, mask := wf w 123 108,
    rsvd := wf w 107 52, s2reg := bit w.toNat 51, s2val := rv, fn := wf w 45 42, rnd := wf w 41 40,
    fd := wf w 39 36, fs := wf w 35 32 }

def VecF.uses2 (f : VecF) : Bool := within f.op 0x20 0x28
def VecF.uses3 (f : VecF) : Bool := f.op = 0x23 || f.op = 0x27

/-- Formats and field rules (Tables 7.11, 8.9, 8.10; R244). -/
def VecF.ok (f : VecF) : Bool :=
  let fmts : Bool :=
    if within f.op 0x20 0x25 || f.op = 0x27 then
      [4, 5, 6, 7, 8, 9, 10, 11].contains f.fs && decide (f.fd = f.fs)
    else if f.op = 0x26 then [4, 5, 6, 7, 8, 9, 10, 11].contains f.fs
    else if f.op = 0x28 || f.op = 0x29 then [9, 10].contains f.fs && decide (f.fd = f.fs)
    else if f.op = 0x2A then decide (f.fs = 9) && decide (f.fd = 9)
    else if f.op = 0x2B then decide (f.fs ≤ 11) && decide (f.fd ≤ 11)
    else if f.op = 0x2C then [7, 8, 9].contains f.fs && [0, 2, 3, 4, 5].contains f.fd && decide (f.len % 32 = 0)
    else within f.fs 7 10 && within f.fd 7 10
  let fnOk := match f.op with
    | 0x26 => decide (f.fn ≤ 5)
    | 0x2A => decide (f.fn ≤ 8)
    | 0x2D | 0x2E => decide (f.fn ≤ 2)
    | _ => true
  fmts && fnOk && decide (f.rnd ≠ 3) && decide (f.rsvd = 0) && decide (f.mask ≠ 0)
  && (if f.op = 0x2D then decide (f.len % f.row = 0) else decide (f.row = 1))
  && (!f.s2reg || decide (f.s2raw / 32 = 0))

/-- Logical bays of the mask. -/
def VecF.bays (f : VecF) : List Nat := (List.range 16).filter fun j => bit f.mask j

def VecF.srcRuns (f : VecF) (j : Nat) : List SpRun :=
  let n := packBytes (fmtBits f.fs) f.len
  [⟨j, f.s1, n⟩] ++ (if f.uses2 && !f.s2reg then [⟨j, f.s2, n⟩] else [])
  ++ (if f.op = 0x23 then [⟨j, f.s3, n⟩] else if f.op = 0x27 then [⟨j, f.s3, f.len⟩] else [])

/-- The destination runs of a bay. -/
def VecF.dstRuns (f : VecF) (j : Nat) : List SpRun :=
  match f.op with
  | 0x26 => [⟨j, f.d, f.len⟩]
  | 0x2C => [⟨j, f.d, packBytes (fmtBits f.fd) f.len⟩, ⟨j, f.s3, f.len / 32⟩]
  | 0x2D => [⟨j, f.d, f.len / f.row * (fmtBits f.fd / 8)⟩]
  | 0x2E => if f.bays.head? = some j then [⟨j, f.d, fmtBits f.fd / 8⟩] else []
  | _ => [⟨j, f.d, packBytes (fmtBits f.fd) f.len⟩]

/-- The failure of a vector word's fields and addresses. -/
def vecCheck (s : State) (p : Nat) (f : VecF) : Option (Nat × Nat) :=
  if !f.ok then some (1, sBAD)
  else
    let src := f.bays.flatMap f.srcRuns
    let dst := f.bays.flatMap f.dstRuns
    if !((src ++ dst).all (runExists s)) then some (1, sBAD)
    else if !((src ++ dst).all (runInWindow s p)) then some (2, sDENIED)
    else if dst.any fun d => src.any fun x => runsOverlap d x && !decide (d = x) then some (1, sBAD)
    else none

/-- The lesser or greater of two values; NaN wins; between zeros of either sign a free choice (log entry 12). -/
def minMax (mx : Bool) (rd : Rnd) (a b : FV) : FV :=
  if a.isNan || b.isNan then .nan
  else if FV.lt a b then (if mx then b else a)
  else if FV.lt b a then (if mx then a else b)
  else if rd.free % 2 = 0 then a else b

/-- CMP predicates. -/
def cmpPred (fn : Nat) (a b : FV) : Bool :=
  match fn with
  | 0 => FV.eqv a b
  | 1 => !FV.eqv a b
  | 2 => FV.lt a b
  | 3 => FV.lt a b || FV.eqv a b
  | 4 => FV.lt b a
  | _ => FV.lt b a || FV.eqv a b

/-- A result with no stated value takes a free code; INVALID follows the code (log entry 12). -/
def vresRound (f : Nat) (rd : Rnd) (ops : List FV) : VRes → Nat × Nat
  | .val v more => fmtResult f rd ops v more
  | .open_ =>
    let w := rd.free % 2 ^ fmtBits f
    (w, flagIf ((fmtDecode f w).isNan && !ops.any FV.isNan) fINVALID)

/-- One element of an element-wise operation: the code of D and the flags; `c3` is the selector byte of SEL. -/
def vecElem (f : VecF) (rd : Rnd) (w1 w2 w3 c3 : Nat) : Nat × Nat :=
  let a := fmtDecode f.fs w1
  let b := fmtDecode f.fs w2
  let c := fmtDecode f.fs w3
  match f.op with
  | 0x20 => fmtResult f.fd rd [a, b] (FV.add a b) false
  | 0x21 => fmtResult f.fd rd [a, b] (FV.add a (FV.neg b)) false
  | 0x22 => fmtResult f.fd rd [a, b] (FV.mul a b) false
  | 0x23 => fmtResult f.fd rd [a, b, c] (FV.add (FV.mul a b) c) false
  | 0x24 => fmtResult f.fd rd [a, b] (minMax false rd a b) false
  | 0x25 => fmtResult f.fd rd [a, b] (minMax true rd a b) false
  | 0x26 => (b2n (cmpPred f.fn a b), 0)
  | 0x27 => (if c3 ≠ 0 then w1 else w2, 0)
  | 0x28 => vresRound f.fd rd [a, b] (divF a b)
  | 0x29 => vresRound f.fd rd [a] (sqrtF a)
  | 0x2A => func1Round f.fn rd a
  | _ => fmtResult f.fd rd [a] a false

/-- Codes packed into bytes, the rest of a last byte kept. -/
def packCodes (b : Nat) (codes : List Nat) (oldLast : Nat) : List Byte :=
  let n := packBytes b codes.length
  let k := b * codes.length
  let v := codes.foldr (fun c r => c % 2 ^ b + r * 2 ^ b) 0
  leBytes n (if k % 8 = 0 then v else v + oldLast / 2 ^ (k % 8) * 2 ^ k)

/-- The scale byte of a block (R221): 127 for zeros; none where the block holds a NaN or an infinity. -/
def blockScale (fd : Nat) (xs : List FV) : Option Nat :=
  if xs.any fun x => match x with | .fin .. => false | _ => true then none
  else
    let mx := xs.foldl (fun r x => match r, x with
      | .fin _ m e, .fin _ m' e' => if FV.lt (.fin false m e) (.fin false m' e') then .fin false m' e' else r
      | _, _ => r) FV.zero
    if mx.isZero then some 127
    else (List.range 255).find? fun e =>
      !FV.lt (FV.mul (fmtDecode fd (fmtMax fd)) (.fin false 1 ((e : Int) - 127))) mx

/-- Combine partial pairs along a tree: `fr` picks the two that each step joins (R222; log entry 15). -/
def joinAny (p : Nat) (fr : Nat → Nat) : Nat → Nat → List Pair → Pair
  | 0, _, l => l.headD {}
  | n + 1, k, l =>
    match l with
    | [] => {}
    | [a] => a
    | _ =>
      let i := fr k % l.length
      let l1 := l.eraseIdx i
      let j := fr (k + 1) % l1.length
      joinAny p fr n (k + 2) (Pair.join p (l.getD i {}) (l1.getD j {}) :: l1.eraseIdx j)

/-- A slice's sum of its elements, along its fixed tree (R222). -/
def sliceSum (p : Nat) (xs : List FV) : Pair :=
  joinAny p (Config.treeStep xs.length) xs.length 0 (xs.map fun x => { hi := x })

/-- The combiner's sum of the slices' pairs, in the order they arrive, which is free (R222; log entry 15). -/
def arriveSum (p : Nat) (fr : Nat → Nat) : Nat → Nat → Pair → List Pair → Pair
  | 0, _, a, _ => a
  | _ + 1, _, a, [] => a
  | n + 1, k, a, l =>
    let i := fr k % l.length
    arriveSum p fr n (k + 1) (Pair.join p a (l.getD i {})) (l.eraseIdx i)

/-- A sum as a result; one of finite terms that went beyond the range overflows (R218). -/
def sumResult (f : VecF) (rd : Rnd) (xs : List FV) (r : Pair) : Nat × Nat :=
  let open' := xs.any fun x => match x with | .fin .. => false | _ => true
  match open', r.hi with
  | false, .inf n => sumOverflow f.fd rd n
  | _, _ => fmtResult f.fd rd xs r.value false

/-- The max or min of some elements (FUNC 1 max, 2 min); `fr` gives free values. -/
def extremeOf (f : VecF) (rd : Rnd) (fr : Nat → Nat) (xs : List FV) : Nat × Nat :=
  match xs with
  | [] => (0, 0)
  | x :: r =>
    let m := r.zipIdx.foldl (fun a y => minMax (f.fn = 1) { rd with free := fr y.2 } a y.1) x
    fmtResult f.fd rd xs m false

/-- A reduction of the elements of each of some slices (R222; FUNC 0 sum): a slice's own part along its tree, the slices' parts as they arrive. `at_` numbers its free values, and `bay` and `k` name the random one. -/
def reduceElems (s : State) (f : VecF) (bay k at_ : Nat) (parts : List (List FV)) : Nat × Nat :=
  let rd := rndIn s f.rnd bay k at_
  let fr (k : Nat) : Nat := (Config.freeWord (s.free + at_ + 1 + k)).toNat
  let p := if f.fs = 10 then 53 else 30
  if f.fn ≠ 0 then extremeOf f rd fr parts.flatten
  else
    let sums := (parts.filter fun x => !x.isEmpty).map (sliceSum p)
    let i := fr 0 % sums.length
    sumResult f rd parts.flatten (arriveSum p (fun k => fr (k + 1)) sums.length 0 (sums.getD i {}) (sums.eraseIdx i))

/-- Free values a vector word draws. -/
def VecF.draws (f : VecF) : Nat := 4 * f.len * f.bays.length + 4

/-- The random values it draws in each bay: one a result. -/
def VecF.drawsIn (f : VecF) (s : State) : List (Nat × Nat) :=
  f.bays.zipIdx.map fun (x : Nat × Nat) => ((physBay s x.1).getD 0,
    if f.op = 0x2D then f.len / f.row else if f.op = 0x2E then (if x.2 = 0 then 1 else 0) else f.len)

/-- A CVT_BS element of a block that holds a NaN or an infinity: a NaN gives the format's default NaN (R218), other elements are free (log entry 12). -/
def blockOpen (fd : Nat) (free : Nat) (x : FV) : Nat × Nat :=
  match x.isNan, fmtNan fd with
  | true, some c => (c, 0)
  | _, _ => (free / 256 % 2 ^ fmtBits fd, 0)

/-- Every result of a vector word: bytes by physical scratchpad key, and the flags. -/
def vecResults (s : State) (rd : Nat → Nat → Byte) (f : VecF) : List (Nat × Byte) × Nat :=
  let b := fmtBits f.fs
  let el (j off i : Nat) : Nat := getElem (rd j) off b i
  let put (j off : Nat) (bs : List Byte) : List (Nat × Byte) :=
    bs.zipIdx.map fun (x : Byte × Nat) => (spKey ((physBay s j).getD 0) (off + x.2), x.1)
  let old (j bits' n : Nat) : Nat := (rd j (f.d + packBytes bits' n - 1)).toNat
  let or' (l : List (Nat × Nat)) : Nat := l.foldl (fun a x => a ||| x.2) 0
  let one (ji : Nat × Nat) : List (Nat × Byte) × Nat :=
    let (j, n) := ji
    let bay := (physBay s j).getD 0
    match f.op with
    | 0x2C =>
      let blocks := (List.range (f.len / 32)).map fun k =>
        let xs := (List.range 32).map fun t => fmtDecode f.fs (el j f.s1 (32 * k + t))
        let at_ := n * f.len + 32 * k
        match blockScale f.fd xs with
        | some e => (e, xs.zipIdx.map fun (x : FV × Nat) =>
            fmtResult f.fd (rndIn s f.rnd bay (32 * k + x.2) (at_ + x.2)) [x.1] (FV.mul x.1 (.fin false 1 (127 - (e : Int)))) false)
        | none => ((Config.freeWord (s.free + at_)).toNat % 256, xs.zipIdx.map fun (x : FV × Nat) =>
            blockOpen f.fd (Config.freeWord (s.free + at_ + x.2)).toNat x.1)
      (put j f.d (packCodes (fmtBits f.fd) (blocks.flatMap fun x => x.2.map (·.1)) 0)
        ++ put j f.s3 (blocks.map fun x => BitVec.ofNat 8 x.1), or' (blocks.flatMap (·.2)))
    | 0x2D =>
      let rs := (List.range (f.len / f.row)).map fun r =>
        reduceElems s f bay r (2 * (n * f.len + r * f.row) + 2 * n)
          [(List.range f.row).map fun i => fmtDecode f.fs (el j f.s1 (r * f.row + i))]
      (put j f.d (packCodes (fmtBits f.fd) (rs.map (·.1)) 0), or' rs)
    | 0x2E =>
      if n = 0 then
        let r := reduceElems s f bay 0 0 (f.bays.map fun j => (List.range f.len).map fun i => fmtDecode f.fs (el j f.s1 i))
        (put j f.d (packCodes (fmtBits f.fd) [r.1] 0), r.2)
      else ([], 0)
    | _ =>
      let rs := (List.range f.len).map fun i =>
        let w2 := if f.s2reg then f.s2val % 2 ^ b else if f.uses2 then el j f.s2 i else 0
        let w3 := if f.op = 0x23 then el j f.s3 i else 0
        let c3 := if f.op = 0x27 then (rd j (f.s3 + i)).toNat else 0
        vecElem f (rndIn s f.rnd bay i (n * f.len + i)) (el j f.s1 i) w2 w3 c3
      let ob := if f.op = 0x26 then 8 else fmtBits f.fd
      (put j f.d (packCodes ob (rs.map (·.1)) (old j ob f.len)), or' rs)
  let all := f.bays.zipIdx.map one
  (all.flatMap (·.1), all.foldl (fun a x => a ||| x.2) 0)

end Sys2Proof.Machine
end

