-- ==== Sys2Proof/Machine/StreamOps.lean ====
section
/-! DEFINITION. The scalar sequencer's shared operations: registers, tokens, issue, completion, failure and the end of a stream (R226-R254, R263). -/

namespace Sys2Proof.Machine

/-! ### Registers and tokens (R230, R236) -/

/-- s[r]; s0 reads as 0. -/
def regVal (t : Stream) (r : Nat) : Nat := if r = 0 then 0 else (kget 0 t.regs r).toNat

/-- Write s[r]; writes to s0 are discarded. -/
def setReg (r v : Nat) (t : Stream) : Stream :=
  if r = 0 then t else { t with regs := kput 0 t.regs r (BitVec.ofNat 64 v) }

def tok (t : Stream) (k : Nat) : Nat := kget 0 t.toks k
def setTok (k v : Nat) (t : Stream) : Stream := { t with toks := kput 0 t.toks k v }

/-! ### Words in flight -/

def Issued.live (w : Issued) : Bool := !w.complete && !w.failed && !w.cancelled

def liveWords (t : Stream) : List Issued := t.issued.filter Issued.live

def liveIn (t : Stream) (e : Eng) : List Issued := t.issued.filter fun w => w.live && w.eng = e

/-- Words that may be issued and not complete, per engine (Table 8.12). -/
def engRoom : Eng → Nat
  | .mm => 4
  | .vec => 16
  | .dma => 32
  | .ldst => 16
  | .call => 64
  | .seq => 2 ^ 32

/-- The engine of an opcode. -/
def wEng (w : BitVec 256) : Eng :=
  match wOp w with
  | 0x10 => .mm
  | 0x30 | 0x31 | 0x32 => .dma
  | 0x06 | 0x07 => .ldst
  | 0x50 => .call
  | op => if within op 0x20 0x2E then .vec else .seq

/-- Fold the completed words at the front into the count of completed ones. -/
def pruneGo : List Issued → Nat → List Issued × Nat
  | [], n => ([], n)
  | w :: r, n => if w.complete then pruneGo r (n + 1) else (w :: r, n)

def prune (t : Stream) : Stream :=
  let (l, n) := pruneGo t.issued t.done
  { t with issued := l, done := n }

def modIssued (num : Nat) (f : Issued → Issued) (t : Stream) : Stream :=
  { t with issued := t.issued.map fun w => if w.num = num then f w else w }

def findIssued (t : Stream) (num : Nat) : Option Issued := t.issued.find? fun w => w.num = num

/-! ### Running time (R247, R249) -/

/-- A number that every SHARE divides. -/
def shareUnit : Nat := (List.range 255).foldl (fun a i => Nat.lcm a (i + 1)) 1

/-- SHARE in effect: at least 1 while a stream runs (R250). -/
def shareOf (s : State) (p : Nat) : Nat := cfg s (0x070400 + p) 63 56

/-- Bring the running stream's time and its partition's virtual time up to date. -/
def accrue (sid : Nat) (s : State) : State :=
  let t := stream s sid
  let d := now s - t.since
  let s1 := setStream sid (fun t => { t with runNs := t.runNs + d, since := now s }) s
  s1.onCore fun c => { c with
    vtime := kmod 0 c.vtime t.part (· + d * shareUnit / max 1 (shareOf s t.part)) }

/-! ### The end of a stream (R251-R254) -/

/-- Keep the 512 streams that ended most recently (R229). -/
def forgetEnded (s : State) : State :=
  s.onCore fun c =>
    if 512 < c.endedOrder.length then
      { c with endedOrder := c.endedOrder.drop 1,
               streams := match c.endedOrder with | i :: _ => kput {} c.streams i {} | [] => c.streams }
    else c

/-- End a stream: its record, the statistics and the NOTIFY of kind 0. -/
def endStream (sid : Nat) (s : State) : State :=
  let s0 := if s.core.cur = some sid then
      (accrue sid s).onCore fun c => { c with cur := none, suspending := false } else s
  let s1 := setStream sid (fun t => { t with st := .ended, issued := [], fetched := [] }) s0
  let t := stream s1 sid
  let s2 := forgetEnded (s1.onCore fun c => { c with
    endedOrder := c.endedOrder ++ [sid], queue := c.queue.filter fun i => decide (i ≠ sid) })
  let s3 := bump (aCORE (if t.status = sOK then 7 else 8)) s2
  if (t.notifyMode = 1 || (t.notifyMode = 2 && t.status ≠ sOK)) && notifyNode s3 t.part ≠ 0xFFFF then
    sendRec (notifyNode s3 t.part)
      (.notify 0 t.status sid (t.done % 2 ^ 32) t.failPc t.runNs t.user t.flags t.part t.cause) false false s3
  else s3

/-- Stop issuing and cancel what no engine has started (R251), but the writes that a test spares. -/
def haltIssue (spare : Issued → Bool) (t : Stream) : Stream :=
  { t with stopping := true,
           issued := t.issued.map fun w => if w.live && !w.started && !spare w then { w with cancelled := true } else w }

/-- A range write of a stream, and a NOTIFY word, which YM5_ORDER keeps in issue order (R263). -/
def orderedWrite (w : Issued) : Bool := [0x31, 0x07, 0x50, 0x43].contains (wOp w.word)

/-- The held writes that a failing word leaves to be performed: where it is an ordered write itself, those before it (R264). -/
def heldBefore (t : Stream) (num : Nat) (w : Issued) : Bool :=
  t.ym5 && (t.issued.any fun x => x.num = num && orderedWrite x) && orderedWrite w && decide (w.num < num)

/-- A word fails: of several, the earliest in issue order gives STATUS and CAUSE. -/
def failWord (sid num pc status cause : Nat) (s : State) : State :=
  setStream sid (fun t =>
    let t1 := modIssued num (fun w => { w with failed := true }) t
    let first := match t.failNum with | some k => decide (num < k) | none => decide (t.cause = 0)
    haltIssue (heldBefore t num) (if first then { t1 with status := status, cause := cause, failNum := some num, failPc := pc } else t1)) s

/-- A stream is stopped from outside its words (R249, R252). -/
def stopStream (sid status cause : Nat) (s : State) : State :=
  let t := stream s sid
  if t.st = .ended || t.stopping then s
  else setStream sid (fun t => haltIssue (fun _ => false) { t with status := status, cause := cause }) s

/-- CAUSE of the failure of a range access by its status (Table 8.13). -/
def rangeCause (st : Nat) : Nat :=
  if st = sPOISONED then 4 else if st = sDEAD then 5 else if st = sBAD then 1 else 3

/-! ### Completion (R234-R236) -/

/-- A word completes: its flags, its signal. -/
def completeWord (sid num : Nat) (s : State) : State :=
  match findIssued (stream s sid) num with
  | none => s
  | some w =>
    let s1 := if w.flags = 0 then s else orFlags sid w.flags s
    let t := stream s1 sid
    let k := wSigTok w.word
    if wSigEn w.word && 65535 ≤ tok t k then failWord sid num w.pc sNORES 8 s1
    else
      setStream sid (fun t =>
        let t1 := modIssued num (fun w => { w with complete := true }) t
        prune (if wSigEn w.word then setTok k (tok t1 k + 1) t1 else t1)) s1

/-- The first word of an engine that is live starts when none of it is started (Table 8.12): not while the stream is suspended, suspending or stopping. -/
def startNext (sid : Nat) (e : Eng) (s : State) : State :=
  let t := stream s sid
  if s.core.cur = some sid && !s.core.suspending && !t.stopping && !(liveIn t e).any (·.started) then
    match (liveIn t e).head? with
    | some w => setStream sid (modIssued w.num fun w => { w with started := true }) s
    | none => s
  else s

/-! ### Requests of a stream to the home -/

/-- A stream's request enters the queue of the home slices. Opcodes: 0x100 fetch, 0x101 LD, 0x102 ST, 0x103 COPY_IN, 0x104 COPY_OUT, and a CALL's KTOP. -/
def submit (sid num op off param : Nat) (payload : List Byte) (s : State) : State :=
  s.onHome fun h => { h with nextId := h.nextId + 1, waitq := h.waitq ++
    [{ id := h.nextId, src := .call sid num, op := op, part := (stream s sid).part, tag := num, off := off,
       param := param, payload := payload, admitted := now s }] }

/-- The global address of an LD, ST or CALL word. -/
def wordAddr (w : Issued) : Nat := (w.base + wImm w.word) % 2 ^ 64

/-- The NOTIFY record of kind 1 (Table 8.14). -/
def sendNotifyWord (sid : Nat) (w : Issued) (s : State) : State :=
  let t := stream s sid
  if notifyNode s t.part = 0xFFFF then s
  else sendRec (notifyNode s t.part)
    (.notify 1 sOK sid w.pc 0xFFFFFFFF w.base (wf w.word 223 192) t.flags t.part 0) false false s

/-- Hand an ordered word to its engine: a request to the home, or a NOTIFY record to KT. -/
def launch (sid : Nat) (w : Issued) (s : State) : State :=
  let s1 := setStream sid (modIssued w.num fun w => { w with started := true }) s
  match wOp w.word with
  | 0x31 => submit sid w.num 0x104 0 0 [] s1
  | 0x07 => submit sid w.num 0x102 (wordAddr w) 0 (leBytes 8 w.rbase) s1
  | 0x50 => submit sid w.num (wKtop w.word) (wordAddr w) 0 [] s1
  | _ => completeWord sid w.num (sendNotifyWord sid w s1)

/-- Launch what YM5_ORDER held back and may go now. -/
def launchHeld : Nat → Nat → State → State
  | 0, _, s => s
  | fuel + 1, sid, s =>
    match (liveWords (stream s sid)).find? orderedWrite with
    | some w => if w.started then s else launchHeld fuel sid (launch sid w s)
    | none => s

/-! ### The head of issue (R231-R233, R237, R238) -/

def fetchedAt (t : Stream) (i : Nat) : Fetched := kget .no t.fetched i

/-- The word that is next to issue, of the stream that runs and may issue. -/
def headWord (s : State) : Option (Nat × BitVec 256) :=
  match s.core.cur with
  | none => none
  | some sid =>
    let t := stream s sid
    if t.stopping || t.halted || s.core.suspending then none
    else match fetchedAt t t.pc with
      | .word w => some (sid, w)
      | _ => none

def waitMet (t : Stream) (w : BitVec 256) : Bool := !wWaitEn w || decide (wWaitN w ≤ tok t (wWaitTok w))

/-- WAIT_MULTI: every token of IMM holds at least 1. -/
def multiMet (t : Stream) (w : BitVec 256) : Bool :=
  !decide (wOp w = 0x41) || (List.range 64).all fun k => !bit (wImm w) k || decide (1 ≤ tok t k)

def roomFor (t : Stream) (w : BitVec 256) : Bool := decide ((liveIn t (wEng w)).length < engRoom (wEng w))

/-- No register the word reads waits for an LD or a CALL. -/
def regsReady (t : Stream) (w : BitVec 256) : Bool :=
  (wReads w).all fun r => r = 0 || (liveWords t).all fun i => !(wWritesLate i.word).contains r

/-- Everything a word's issue waits for. -/
def mayIssue (t : Stream) (w : BitVec 256) : Bool :=
  waitMet t w && multiMet t w && roomFor t w && regsReady t w
  && (!decide (wOp w = 0x40) || (liveWords t).isEmpty)

/-- What the sequencer finds at the head of issue and settles at once: the end of the words, a fetch that failed, an opcode that is not assigned, a deadlock; and the end of a stream of which nothing is in flight. -/
def settleGo : Nat → Nat → State → State
  | 0, _, s => s
  | fuel + 1, sid, s =>
    let t := stream s sid
    if t.st = .ended || t.st = .queued then s
    else if t.stopping || t.halted then
      (if (liveWords t).isEmpty then endStream sid s else s)
    else if s.core.cur ≠ some sid || s.core.suspending then s
    else if t.count ≤ t.pc then settleGo fuel sid (setStream sid (fun t => { t with halted := true }) s)
    else match fetchedAt t t.pc with
      | .no => s
      | .bad st => settleGo fuel sid (failWord sid t.issueNext t.pc st (rangeCause st) s)
      | .word w =>
        if !opAssigned (wOp w) || !headerOk w then
          settleGo fuel sid (failWord sid t.issueNext t.pc sBAD 1 s)
        else if (liveWords t).isEmpty && !(waitMet t w && multiMet t w) then
          settleGo fuel sid (failWord sid t.issueNext t.pc sBAD 7 s)
        else s

/-- Settle a stream after one of its commands. -/
def settle (sid : Nat) (s : State) : State :=
  settleGo 3 sid (startNext sid .vec (startNext sid .mm (launchHeld ((stream s sid).issued.length + 1) sid s)))

/-- Take the count a waiting word takes (Table 8.3, Table 8.6). -/
def takeWait (w : BitVec 256) (t : Stream) : Stream :=
  let t1 := if wWaitEn w && !wWaitKeep w then setTok (wWaitTok w) (tok t (wWaitTok w) - wWaitN w) t else t
  if wOp w = 0x41 && !bit (wFunc w) 0 then
    (List.range 64).foldl (fun t k => if bit (wImm w) k then setTok k (tok t k - 1) t else t) t1
  else t1

/-- The issued form of a word, with the registers it reads. -/
def issuedOf (t : Stream) (w : BitVec 256) : Issued :=
  let op := wOp w
  let base :=
    if op = 0x10 then regVal t (wf w 53 49)
    else if within op 0x20 0x2E then regVal t (wf w 50 46)
    else if within op 0x30 0x32 then regVal t (wf w 66 62)
    else regVal t (wRa w)
  let rbase :=
    if within op 0x20 0x2E then (if bit w.toNat 51 then regVal t (wf w 188 184) else 0)
    else if within op 0x30 0x32 then regVal t (wf w 71 67)
    else regVal t (wRb w)
  { num := t.issueNext, pc := t.pc, word := w, eng := wEng w, base := base, rbase := rbase }

/-- Issue the head word if it carries the opcode and may issue; then its effect (R233). The effect gets the stream and the issued word. -/
def issueWord (op : Nat) (eff : Nat → Issued → State → State) (s : State) : State :=
  match headWord s with
  | none => s
  | some (sid, w) =>
    let t := stream s sid
    if wOp w = op && headerOk w && mayIssue t w then
      let i := issuedOf t w
      let s1 := setStream sid (fun t => { takeWait w t with
        issueNext := t.issueNext + 1, pc := t.pc + 1, fetched := kput .no t.fetched t.pc .no,
        issued := t.issued ++ [i] }) (bump (aCORE 10) s)
      settle sid (eff sid i s1)
    else s

/-- A scalar, synchronisation or call word: its field rules, then its effect. -/
def scalarWord (eff : Nat → Issued → State → State) (sid : Nat) (i : Issued) (s : State) : State :=
  if scalarOk i.word then eff sid i s else failWord sid i.num i.pc sBAD 1 s

/-- Continue at another word, or fail where it does not exist (R238). Words fetched ahead are fetched again on another pass (R232). -/
def branchTo (sid : Nat) (i : Issued) (s : State) : State :=
  let off := wf i.word 255 224
  let d : Int := if off < 2 ^ 31 then off else (off : Int) - 2 ^ 32
  let n : Int := i.pc + d
  if 0 ≤ n ∧ n < (stream s sid).count then
    let ahead (m : KMap Fetched) : KMap Fetched :=
      if n ≤ i.pc then [] else m.filter fun x => decide (n.toNat ≤ x.1)
    completeWord sid i.num (setStream sid (fun t => { t with pc := n.toNat, fetched := ahead t.fetched }) s)
  else failWord sid i.num i.pc sBAD 9 s

/-- Results of ALU (Table 8.6). -/
def aluOp (fn a b : Nat) : Nat :=
  let m := 2 ^ 64
  match fn with
  | 0 => (a + b) % m
  | 1 => (a + m - b) % m
  | 2 => a &&& b
  | 3 => a ||| b
  | 4 => a ^^^ b
  | 5 => a * 2 ^ (b % 64) % m
  | 6 => a / 2 ^ (b % 64)
  | 7 => ((toSigned 8 a / 2 ^ (b % 64)) % m).toNat
  | 8 => a * b % m
  | 9 => min a b
  | 10 => max a b
  | 11 => if toSigned 8 a ≤ toSigned 8 b then a else b
  | _ => if toSigned 8 b ≤ toSigned 8 a then a else b

/-- Conditions of BR (Table 8.6). -/
def brCond (fn a b : Nat) : Bool :=
  match fn with
  | 0 => decide (a = b)
  | 1 => decide (a ≠ b)
  | 2 => decide (toSigned 8 a < toSigned 8 b)
  | 3 => decide (toSigned 8 b ≤ toSigned 8 a)
  | 4 => decide (a < b)
  | 5 => decide (b ≤ a)
  | _ => true

/-- Scratchpad bytes as an engine's next word sees them: with the writes of its earlier words in flight (R235). -/
def overlayRead (s : State) (t : Stream) (e : Eng) (before : Nat) (j off : Nat) : Byte :=
  match physBay s j with
  | none => 0
  | some b =>
    let k := spKey b off
    let ws := ((liveIn t e).filter fun w => decide (w.num < before)).reverse.findSome? fun w =>
      (w.writes.reverse.find? fun x => x.1 = k).map (·.2)
    ws.getD (kget 0 s.core.scratch k)

/-- Land the writes that an engine held; elements of 16 B that they touch are CHAIN elements of no known class from then on. -/
def landWrites (ws : List (Nat × Byte)) (s : State) : State :=
  s.onCore fun c => { c with
    scratch := ws.foldl (fun m x => kput 0 m x.1 x.2) c.scratch,
    chains := c.chains.filter fun x => !(ws.any fun w => decide (x.1 ≤ w.1 ∧ w.1 < x.1 + 16)) }

/-! ### CHAIN classes (R215, R241) -/

/-- The accumulator class and operand formats of a CHAIN element. -/
def chainClass (f : MmF) : Nat := 1 + f.fa * 16 + f.fb

/-- The class of the CHAIN element at a place as the Millstone's next word finds it: 0 where it is not known, since no drain left it there (such data are taken for any class; DEDUCED, log entry 39). -/
def chainAt (s : State) (t : Stream) (before : Nat) (k : Nat) : Nat :=
  match ((liveIn t .mm).filter fun w => decide (w.num < before)).reverse.find? fun w =>
      w.writes.any fun x => decide (k ≤ x.1 ∧ x.1 < k + 16) with
  | some w =>
    let f := mmFields w.word w.base
    if f.fo = 12 && (f.chainKeys s f.cOff).contains k then chainClass f else 0
  | none => kget 0 s.core.chains k

/-- An element of an MM word's CHAIN input is of another class. -/
def chainBad (s : State) (t : Stream) (num : Nat) (f : MmF) : Bool :=
  f.chin && (f.chainKeys s f.ciOff).any fun k =>
    decide (chainAt s t num k ≠ 0) && decide (chainAt s t num k ≠ chainClass f)

/-- The elements that an MM word drained as CHAIN are of its class. -/
def markChain (w : Issued) (s : State) : State :=
  let f := mmFields w.word w.base
  if f.fo ≠ 12 then s
  else s.onCore fun c => { c with chains := (f.chainKeys s f.cOff).foldl (fun m k => kput 0 m k (chainClass f)) c.chains }

end Sys2Proof.Machine
end

