-- ==== Sys2Proof/Machine/EngOps.lean ====
section
/-! DEFINITION. What the near-memory engines and the DMA engine share: making lines ready at their home slices, reading and writing them there, checks of regions (R139, R177, R180-R182, R223, R268, R271, R302). -/

namespace Sys2Proof.Machine

/-- The lines that `n` bytes from an offset touch. -/
def linesOf (off n : Nat) : List Nat :=
  if n = 0 then [] else (List.range ((off % 64 + n + 63) / 64)).map fun i => off / 64 + i

/-- Whether an engine may go on at some lines: yes; not yet (with what was started for it); or never, with a status. -/
inductive EngR where
  | ready
  | wait (s : Option State)
  | bad (status : Nat) (s : State)

/-! ### Places in the queues of lines (R20, R140, R148, R176) -/

/-- The request that an access is made for. -/
def accessItem (w : SetWrite) (s : State) : Option Item :=
  match w.item with
  | some i => s.home.waitq.find? fun x => x.id = i
  | none => none

/-- A request of a pair that waits until another of the pair is performed. -/
def waitsFor (x it : Item) : Bool := heldBack x && x.src = it.src && decide (it.id < x.id)

/-- Requests came before an access to one of its lines and still wait there. Those of a line at which one waits for the access's own request let it go ahead (DESIGN CHOICE, log entry 31: the rules settle no such case, in which neither could go on). -/
def queuedBehind (w : SetWrite) (ls : List Nat) (s : State) : Bool :=
  match accessItem w s with
  | none => false
  | some it =>
    let me := if ls.all it.wants.contains then it.asked else s.home.nextId
    ls.any fun l =>
      let q := s.home.waitq.filter fun x => decide (x.id ≠ it.id) && (itemLines x).contains l
      (q.any fun x => decide (x.since < me)) && !(q.any fun x => waitsFor x it)

/-- An access that must wait takes its place at its lines, where each has room; none where it has it already. -/
def queueUp (w : SetWrite) (ls : List Nat) (s : State) : Option State :=
  match accessItem w s with
  | none => none
  | some it =>
    if it.wants = ls || (ls.any fun l => decide (64 ≤ lineWaiting s l))
        || (List.range 16).any fun b => decide (4096 < sliceWaiting s b + (ls.filter fun l => lineBay l = b).length) then none
    else
      let old := ls.all it.wants.contains
      some (updateItem it.id (fun x => { x with wants := ls, asked := if old then x.asked else s.home.nextId })
        (if old then s else s.onHome fun h => { h with nextId := h.nextId + 1 }))

/-- An access has been performed: its request leaves the queues of those lines. -/
def unwant (w : SetWrite) (ls : List Nat) (s : State) : State :=
  match accessItem w s with
  | none => s
  | some it => if it.wants.any ls.contains then
      updateItem it.id (fun x => { x with wants := x.wants.filter fun l => !ls.contains l }) s
    else s

/-- Wait, in one's place. -/
def waitAt (w : SetWrite) (ls : List Nat) (o : Option State) (s : State) : EngR :=
  match o with
  | some s1 => .wait (some ((queueUp w ls s1).getD s1))
  | none => .wait (queueUp w ls s)

/-! ### Copies of on-die holders (R172, R175, R177, R182) -/

/-- Room in the directory for lines that an on-die holder keeps (R174, R175): free ways for those without an entry, else a victim's after BI. Lines that even a whole set cannot name are read without being kept. -/
def prepHolds (ls : List Nat) (s : State) : Prep :=
  ls.foldl (fun r l => match r with
    | .ready =>
      let ms := dirMates s l
      let mates := ls.filter fun x => decide (lineBay x = lineBay l) && decide (dirSet x = dirSet l)
      let need := (mates.filter fun x => (dirEnt s x).st = .i).length
      if decide ((dirEnt s l).st ≠ .i) || decide (ms.length + need ≤ dirWays s l) then .ready
      else if (ms.any fun p => match p.2.room with | some x => ls.contains x | none => false) || setPinned s l then .wait
      else match victim (ms.filter fun p => !ls.contains p.1) with
        | some (v, _) => .go (startBI v l s)
        | none => .ready
    | r => r) .ready

/-- Why a write to a line is refused for good: by its set, or by its page (R65, R68, R411). -/
def lineFails (w : SetWrite) (s : State) (l : Nat) : Option Nat :=
  match setRule s (l * 64) w with
  | .denied _ => some sDENIED
  | _ => match pageForWrite (l / 1024) s with
    | .answer st _ => some st
    | _ => none

/-- The failing place at the lowest address (R275, R308). -/
def lowest (l : List (Nat × Nat)) : Option (Nat × Nat) :=
  l.foldl (fun r x => match r with
    | none => some x
    | some y => if x.1 < y.1 then some x else some y) none

/-- Make lines ready for an engine (Table 6.3): those it reads must be readable and held by no owner, those it writes must lie in pages that take a write and be in I, and at each the engine's turn must have come (R20). A write refused for good ends with the status at the lowest line. -/
def engReady (w : SetWrite) (reads writes : List Nat) (s : State) : EngR :=
  let ls := (reads ++ writes).dedup
  match lowest (writes.filterMap fun l => (lineFails w s l).map fun st => (l, st)) with
  | some (_, st) => .bad st s
  | none =>
    if writes.any fun l => match setRule s (l * 64) w with | .held => true | _ => false then .wait none
    else if reads.any fun l => loadHeld s (l * 64) then .wait none
    else match ((writes.map (· / 1024)).dedup).foldl (fun r p => match r with
        | .go => pageForWrite p s
        | r => r) Stop.go with
    | .wait s' => waitAt w ls (if s'.store.moveQ = s.store.moveQ then none else some s') s
    | .answer st s' => .bad st s'
    | .go =>
      if queuedBehind w ls s then waitAt w ls none s
      else if reads.any fun l => !pageUnusable s (l / 1024) && !lineReadable s l then waitAt w ls none s
      else match prepAll (fun l s => prepRead l s) reads s with
        | .wait => waitAt w ls none s
        | .go s' => waitAt w ls (some s') s
        | .ready => match prepAll (fun l s => prepWrite l none s) writes s with
          | .wait => waitAt w ls none s
          | .go s' => waitAt w ls (some s') s
          | .ready => match (if w.hold then prepHolds reads s else .ready) with
            | .wait => waitAt w ls none s
            | .go s' => waitAt w ls (some s') s
            | .ready => .ready

/-- An on-die holder keeps a copy: the line's entry has ENG 1 (Table 6.3), the last used of its set. Where no way is free the copy is used once and not kept (R182). -/
def engHold (line : Nat) (s : State) : State :=
  let clk := s.store.useClock + 1
  let used (f : DirEnt → DirEnt) : State :=
    (setDir line f s).onStore fun st => { st with useClock := clk }
  match (dirEnt s line).st with
  | .s => used fun e => { e with eng := true, use := clk }
  | .i => if (dirMates s line).length < dirWays s line then
      used fun e => { e with st := .s, eng := true, way := freeWay s line, use := clk }
    else s
  | _ => s

/-- An on-die holder may keep a line: its entry says so. -/
def engHolds (s : State) (line : Nat) : Bool := (dirEnt s line).eng

/-- Read lines as an engine: those found poisoned, and the state after the accesses. -/
def engAccess (w : SetWrite) (ls : List Nat) (s : State) : List Nat × State :=
  ls.foldl (fun r l =>
    let (b, s1) := accessLine l {} r.2
    let s2 := if w.hold then engHold l s1 else s1
    (if b || pageUnusable r.2 (l / 1024) then r.1 ++ [l] else r.1, s2)) ([], unwant w ls s)

/-- Write as an engine: allocate, then perform; a status other than 0 stops it with nothing written. -/
def engPut (prt : Nat) (w : SetWrite) (ws : List (Nat × List Byte)) (s : State) : Nat × List (Nat × Nat) × State :=
  let (a, s1) := allocFor prt ws s
  if a ≠ 0 then (a, [], s)
  else
    let (fw, s2) := putLines prt w ws true (unwant w (writeLines ws) s1)
    (0, fw, s2)

/-- Write for a request, which waits for the forwards at its end. -/
def engPutFor (it : Item) (w : SetWrite) (ws : List (Nat × List Byte)) (s : State) : Nat × State :=
  let (a, fw, s1) := engPut it.part w ws s
  (a, addForwards it.id fw s1)

/-- The access of an engine's write. -/
def engWrite (it : Item) (op : Nat) : SetWrite :=
  { op := op, strict := false, node := (match it.src with | .agent n => some n | _ => none), item := some it.id }

/-- An engine's write in an operation whose reads an on-die holder keeps. -/
def holdWrite (it : Item) (op : Nat) : SetWrite := { engWrite it op with hold := true }

/-- No write: for what only reads, and for no request. -/
def noWrite : SetWrite := { op := 0 }

/-- An access that only reads, for a request; `holdFor` for one whose copies an on-die holder keeps. -/
def readFor (it : Item) : SetWrite := { op := 0, item := some it.id }
def holdFor (it : Item) : SetWrite := { op := 0, item := some it.id, hold := true }

/-- Steps 5 and 6 of Table 5.5 for a region named by a global address, extent by extent: the addresses that fail, with their statuses. -/
def regionFails (s : State) (it : Item) (addr len : Nat) (write : Bool) : List (Nat × Nat) :=
  let last := addr + max 1 len - 1
  if addr / 2 ^ 50 = homeIndex s && last / 2 ^ 50 = homeIndex s then
    let a := addr % 2 ^ 50
    ((List.range (extentOf (last % 2 ^ 50) + 1 - extentOf a)).map fun i =>
      let at_ := max a ((extentOf a + i) * 2 ^ 28)
      (homeIndex s * 2 ^ 50 + at_, srcCheck s it.src it.part at_ write)).filter fun x => decide (x.2 ≠ sOK)
  else [(addr, sDENIED)]

def regionCheck (s : State) (it : Item) (addr len : Nat) (write : Bool) : Nat :=
  ((lowest (regionFails s it addr len write)).map (·.2)).getD sOK

/-- The checks of several regions: the status at the lowest address that fails. -/
def regionsCheck (s : State) (it : Item) (rs : List (Nat × Nat × Bool)) : Nat :=
  ((lowest (rs.flatMap fun r => regionFails s it r.1 r.2.1 r.2.2)).map (·.2)).getD sOK

/-- End an invocation at a failing check (R133). -/
def endCheck (it : Item) (st : Nat) (s : State) : State :=
  let s1 := endItem it st 0 [] s
  if st = sDENIED then srcFail it.src s1 else s1

/-- Admission beyond a limit: RETRY for an agent; a CALL is resent and so waits (R138, R240). -/
def engRetry (it : Item) (s : State) : Option State :=
  match it.src with
  | .agent _ => some (endItem it sRETRY 0 [] (bump (aTXN 7) s))
  | _ => none

/-- The deadline of an admitted request (R161). -/
def itemDeadline (s : State) (it : Item) : Nat := if it.flash then flashDeadline s else loadDeadline s

/-- Bytes of a line read at an offset of the range. -/
def lineBytes (s : State) (line : Nat) : List Byte := readBytes s (line * 64) 64

end Sys2Proof.Machine
end

