-- ==== Sys2Proof/Machine/QuernOps.lean ====
section
/-! DEFINITION. Querns: digests, reductions, erasure coding over lines, portions and reduction groups (R267-R292). -/

namespace Sys2Proof.Machine

/-! ### Which Quern (R267, R291) -/

def quernUp (s : State) (u : Nat) : Bool := kget .off s.eng.querns u = .serving

/-- The Quern that works a portion of a page. -/
def quernOf (s : State) (p : Nat) : Nat :=
  let e := page s p
  let u := if e.tier = 1 then frameLane e.frame else 16 * pageBay p + p % 16
  ((List.range 16).map fun i => u / 16 * 16 + (u % 16 + i) % 16).find? (quernUp s) |>.getD u

/-! ### Elements (Table 10.5, R277) -/

def rfBytes (rf : Nat) : Nat := [4, 8, 2, 2, 4, 8].getD rf 4

/-- The number format of a floating RFMT. -/
def rfFmt (rf : Nat) : Nat := [11, 11, 8, 7, 9, 10].getD rf 9

/-- Exponent of the image unit q. -/
def rfUnit (rf : Nat) : Int := [0, 0, -24, -133, -149, -1074].getD rf 0

def lineElems (rf : Nat) (bs : List Byte) : List Nat :=
  (List.range (64 / rfBytes rf)).map fun i => field bs (i * rfBytes rf) (rfBytes rf)

/-- −0 below +0 for MIN and MAX (R277). -/
def fvBelow (a b : FV) : Bool := FV.lt a b || (a.isZero && b.isZero && a.isNeg && !b.isNeg)

/-- DST ROP SRC of one element. -/
def reduceElem (rf rop a b : Nat) : Nat :=
  let w := rfBytes rf
  if rf ≤ 1 then
    match rop with
    | 0 => (a + b) % 2 ^ (8 * w)
    | 1 => if toSigned w a ≤ toSigned w b then a else b
    | _ => if toSigned w b ≤ toSigned w a then a else b
  else
    let f := rfFmt rf
    let x := fmtDecode f a
    let y := fmtDecode f b
    if x.isNan || y.isNan then (fmtNan f).getD 0
    else match rop with
      | 0 => (fmtRound f {} (FV.add x y) false).1
      | 1 => if fvBelow y x then b else a
      | _ => if fvBelow x y then b else a

def reduceLine (rf rop : Nat) (a b : List Byte) : List Byte :=
  (List.zipWith (reduceElem rf rop) (lineElems rf a) (lineElems rf b)).flatMap (leBytes (rfBytes rf))

/-! ### Digests (R278, R279) -/

/-- CRC-64 of bytes in ascending order, from a register value: the reflected ECMA-182 polynomial. -/
def crcFeed (c : Nat) (bs : List Byte) : Nat := bs.foldl (fun c b => crcByte 0xC96C5795D7870F42 8 (c ^^^ b.toNat)) c

def crc64 (bs : List Byte) : Nat := crcFeed (2 ^ 64 - 1) bs ^^^ (2 ^ 64 - 1)

/-- The register after `n` zero bytes. -/
def crcZeros : Nat → Nat → Nat
  | 0, c => c
  | n + 1, c => crcZeros n (crcByte 0xC96C5795D7870F42 8 c)

def lsumP : Nat := 2 ^ 61 - 1

/-- r^n mod p. -/
def powMod : Nat → Nat → Nat → Nat
  | 0, _, _ => 1
  | fuel + 1, r, n =>
    if n = 0 then 1
    else
      let h := powMod fuel (r * r % lsumP) (n / 2)
      if n % 2 = 1 then h * r % lsumP else h

/-- z(x) mod p; none for an infinity or a NaN. -/
def imageMod (rf x : Nat) : Option Nat :=
  if rf ≤ 1 then some ((toSigned (rfBytes rf) x % lsumP).toNat)
  else match fmtDecode (rfFmt rf) x with
    | .fin n m e =>
      let z := m % lsumP * 2 ^ ((e - rfUnit rf).toNat % 61) % lsumP
      some (if n then (lsumP - z) % lsumP else z)
    | _ => none

/-- The LSUM of elements whose first has index `i0`, and whether one had no image. -/
def lsumElems (rf r i0 : Nat) (es : List Nat) : Nat × Bool :=
  let w0 := powMod 64 r (i0 + 1)
  let x := es.foldl (fun (a : Nat × Nat × Bool) e =>
    let (d, w, sp) := a
    match imageMod rf e with
    | some z => ((d + z * w) % lsumP, w * r % lsumP, sp)
    | none => (d, w * r % lsumP, true)) (0, w0, false)
  (x.1, x.2.2)

def keyOk (k : Nat) : Bool := within (k % lsumP) 2 (lsumP - 2)

/-! ### QN_EXEC (R270-R276) -/

/-- The fields of a descriptor that keep its rules (Table 10.3, R274), the source list apart. -/
def qdescOk (d : List Byte) : Bool :=
  let op := field d 0 1
  let rf := field d 1 1
  let rop := field d 2 1
  let ns := field d 3 1
  let n := field d 4 4
  let dst := field d 8 8
  let src := field d 16 8
  let aux := field d 24 8
  let len := n * 64
  let ap (a b : Nat) : Bool := decide (a + len ≤ b ∨ b + len ≤ a)
  let outs := match op with | 5 => 2 | 2 | 4 => 0 | _ => 1
  let srcs := match op with | 0 => 0 | 1 | 4 => 1 | 2 | 3 => 2 | _ => ns
  decide (op ≤ 6) && within n 1 32768 && decide (dst % 64 = 0) && (op = 0 || op = 4 || decide (src % 64 = 0))
  && decide (field d 36 28 = 0)
  && (op = 3 || op = 4 || decide (rf = 0)) && decide (rf ≤ 5) && (op = 3 || decide (rop = 0)) && decide (rop ≤ 2)
  && (match op with | 5 => within ns 1 14 | 6 => within ns 1 16 | _ => decide (ns = 0))
  && (op = 4 || decide (field d 32 4 = 0))
  && (match op with | 0 => true | 4 => keyOk aux | 5 => decide (aux % 64 = 0) | _ => decide (aux = 0))
  && (!(op = 1 || op = 3) || ap dst src)
  && decide ((outs + srcs) * n ≤ 98304)
  && (!(op = 5 || op = 6) || decide (src % 65536 + ns * 16 ≤ 65536))

/-- The entries of a source list (R274): addresses and coefficients; none where one breaks its rules. -/
def qlist (op n ns dst aux : Nat) (bs : List Byte) : Option (List (Nat × Nat)) :=
  let es := (List.range ns).map fun i => (field bs (16 * i) 8, field bs (16 * i + 8) 1, field bs (16 * i + 9) 7)
  let len := n * 64
  let ap (a b : Nat) : Bool := decide (a + len ≤ b ∨ b + len ≤ a)
  if es.all fun e => decide (e.1 % 64 = 0) && decide (e.2.2 = 0)
      && (if op = 5 then decide (e.2.1 = 0) else decide (e.2.1 ≠ 0))
      && ap dst e.1 && (op ≠ 5 || ap aux e.1)
  then some (es.map fun e => (e.1, e.2.1)) else none

/-- Where the regions of an invocation begin, the first region first. -/
def QInv.bases (q : QInv) : List Nat :=
  q.dst :: (match q.op with
    | 0 | 4 => []
    | 1 | 2 | 3 => [q.src]
    | 5 => q.aux :: q.list.map (·.1)
    | _ => q.list.map (·.1))

/-- The pages that `n` lines from an offset lie in. -/
def pagesOf (off n : Nat) : List Nat :=
  let p0 := off / 65536
  (List.range ((off / 64 + n - 1) / 1024 + 1 - p0)).map fun k => p0 + k

/-- The lines of a page of the first region, as index of the first and number. -/
def pagePart (dst n p : Nat) : Nat × Nat :=
  let l0 := dst / 64
  let a := max l0 (p * 1024)
  (a - l0, min (l0 + n) ((p + 1) * 1024) - a)

/-- The portions of an invocation: the lines of the operation in each page of its regions (R267). -/
def QInv.split (q : QInv) (s : State) : List QPortion :=
  let lead := pagesOf q.dst q.lines
  let others := ((q.bases.drop 1).flatMap fun b => pagesOf b q.lines).dedup.filter fun p => !lead.contains p
  (lead.map fun p =>
    let x := pagePart q.dst q.lines p
    { page := p, quern := quernOf s p, first := x.1, count := x.2, next := x.1, left := x.2 })
  ++ others.map fun p => { page := p, quern := quernOf s p }

/-- Lines of an index range lie in a page. -/
def QInv.uses (q : QInv) (p a n : Nat) : Bool :=
  q.bases.any fun b => decide (b / 64 + a < (p + 1) * 1024 ∧ p * 1024 < b / 64 + a + n)

/-- The first byte in which two lines differ. -/
def diffByte (a b : List Byte) : Option Nat := (List.range 64).find? fun i => decide (a.getD i 0 ≠ b.getD i 0)

/-- What a line that writes nothing adds to its portion's results: COMPARE and DIGEST. -/
def QPortion.note (p : QPortion) (q : QInv) (s : State) (i : Nat) : QPortion :=
  let a := readBytes s (q.dst + 64 * i) 64
  match q.op with
  | 2 =>
    match diffByte a (readBytes s (q.src + 64 * i) 64) with
    | some k => { p with diffAt := some (min (64 * i + k) (p.diffAt.getD (64 * i + k))) }
    | none => p
  | 4 =>
    let r := q.aux % lsumP
    let i0 := q.ibase + i * (64 / rfBytes q.rfmt)
    { p with lsum := (p.lsum + (lsumElems q.rfmt r i0 (lineElems q.rfmt a)).1) % lsumP,
             crc := p.crc ^^^ crcZeros (64 * (q.lines - 1 - i)) (crcFeed 0 a) }
  | _ => p

/-- A portion's results join its invocation's. -/
def QInv.gather (q : QInv) (p : QPortion) : QInv :=
  { q with
    diffAt := match p.diffAt with | some k => some (min k (q.diffAt.getD k)) | none => q.diffAt
    lsum := (q.lsum + p.lsum) % lsumP
    crc := q.crc ^^^ p.crc
    poisoned := q.poisoned || p.poisoned }

/-- Keep the portions that still have lines to move, those of the first region's pages and those whose lines these need; the results of the others join the invocation's. -/
def QInv.prune (q : QInv) : QInv :=
  let lead := q.portions.filter fun x => decide (0 < x.left)
  let keep (x : QPortion) : Bool :=
    decide (0 < x.left) || (x.count = 0 && lead.any fun y => q.uses x.page y.next y.left)
  { (q.portions.filter fun x => !keep x).foldl QInv.gather q with portions := q.portions.filter keep }

/-- Portions queued or in progress at a Quern: those of QN_EXECs, and one of each QN_CONTRIB and QN_ECDELTA. -/
def quernLoad (s : State) (u : Nat) : Nat :=
  (s.eng.invs.map fun i => (i.2.portions.filter fun p => p.quern = u).length).sum
  + (s.home.waitq.filter fun x => (x.op = 0x61 || x.op = 0x63) && decide (quernOf s (x.off / 65536) = u)).length

/-- A Quern invocation that arrives finds a limit reached (R273): 4,096 in progress, or 64 portions at the Quern of its lines. -/
def quernFull (it : Item) (s : State) : Bool :=
  within it.op 0x60 0x63
  && (decide (4096 ≤ (s.home.waitq.filter fun x => within x.op 0x60 0x63 && decide (x.id < it.id)).length)
    || ((it.op = 0x61 || it.op = 0x63) && decide (64 ≤ quernLoad s (quernOf s (it.off / 65536)))))

/-- Keep what an admitted invocation has read: its descriptor, or a list that this names. Both are read once (R274, R295). -/
def keepRead (it : Item) (bs : List Byte) (s : State) : State :=
  updateItem it.id (fun x => { x with descs := it.descs ++ [bs] }) s

/-- Read a line, or the lines of a list, that an invocation names, once. -/
def readOnce (it : Item) (off n : Nat) (s : State) : Option State :=
  let ls := linesOf off n
  match engReady (readFor it) ls [] s with
  | .wait o => o
  | .bad st s' => some (endItem it st 0 [] s')
  | .ready =>
    let (bad, s1) := engAccess (readFor it) ls s
    some (if bad.isEmpty then keepRead it (readBytes s off n) s1 else endItem it sPOISONED 0 [] s1)

/-- The regions that a QN_EXEC descriptor names, but for the sources of its list, with the right each needs (R271). -/
def execRegions (d : List Byte) : List (Nat × Nat × Bool) :=
  let op := field d 0 1
  let len := field d 4 4 * 64
  let src := field d 16 8
  [(field d 8 8, len, !(op = 2 || op = 4))]
  ++ (if op = 1 || op = 2 || op = 3 then [(src, len, false)] else [])
  ++ (if op = 5 then [(field d 24 8, len, true)] else [])
  ++ (if op = 5 || op = 6 then [(src, field d 3 1 * 16, false)] else [])

/-- The invocation of a descriptor and its source list, with its portions. -/
def execInv (it : Item) (d : List Byte) (l : List (Nat × Nat)) (s : State) : QInv :=
  let op := field d 0 1
  let aux := field d 24 8
  let q : QInv := {
    live := true, item := it.id, op := op, rfmt := field d 1 1, rop := field d 2 1, lines := field d 4 4,
    dst := field d 8 8 % 2 ^ 50, src := field d 16 8 % 2 ^ 50, aux := if op = 5 then aux % 2 ^ 50 else aux,
    ibase := field d 32 4, list := l.map fun e => (e.1 % 2 ^ 50, e.2) }
  { q with portions := q.split s }

/-- Admit a QN_EXEC: read its descriptor and source list, each once, check what they name, and set out its portions. -/
def serveQExec (it : Item) (s : State) : Option State :=
  if (kget {} s.eng.invs it.id).live then none
  else match it.descs with
  | [] => readOnce it it.off 64 s
  | d :: lists =>
    let op := field d 0 1
    let n := field d 4 4
    let src := field d 16 8
    let ns := field d 3 1
    let listed := op = 5 || op = 6
    let c := regionsCheck s it (execRegions d)
    if !qdescOk d then some (endItem it sBAD 0 [] s)
    else if c ≠ sOK then some (endCheck it c s)
    else if listed && lists.isEmpty then readOnce it (src % 2 ^ 50) (ns * 16) s
    else match (if listed then qlist op n ns (field d 8 8) (field d 24 8) (lists.headD []) else some []) with
      | none => some (endItem it sBAD 0 [] s)
      | some l =>
        let c2 := regionsCheck s it (l.map fun e => (e.1, n * 64, false))
        if c2 ≠ sOK then some (endCheck it c2 s)
        else
          let q := execInv it d l s
          let full := q.portions.any fun p =>
            decide (64 < quernLoad s p.quern + (q.portions.filter fun x => x.quern = p.quern).length)
          if full then engRetry it s
          else
            let s1 := s.onEng fun e => { e with invs := kput {} e.invs it.id q }
            some (if it.flash then s1 else engInterim it s1)

/-- Lines an operation reads and writes for its line `i`. -/
def QInv.reads (q : QInv) (i : Nat) : List Nat :=
  match q.op with
  | 0 => []
  | 1 => [q.src / 64 + i]
  | 2 | 3 => [q.dst / 64 + i, q.src / 64 + i]
  | 4 => [q.dst / 64 + i]
  | _ => q.list.map fun e => e.1 / 64 + i
def QInv.writes (q : QInv) (i : Nat) : List Nat :=
  match q.op with
  | 2 | 4 => []
  | 5 => [q.dst / 64 + i, q.aux / 64 + i]
  | _ => [q.dst / 64 + i]

/-- Byte-wise sum of scaled sources. -/
def ecSum (cs : List (Nat × List Byte)) : List Byte :=
  cs.foldl (fun a c => xorBytes a (gfScale c.1 c.2)) (List.replicate 64 0)

/-- What an operation writes for its line `i`. -/
def QInv.data (q : QInv) (s : State) (i : Nat) : List (Nat × List Byte) :=
  let d := q.dst + 64 * i
  match q.op with
  | 0 => [(d, (List.replicate 8 (leBytes 8 q.aux)).flatten)]
  | 1 => [(d, readBytes s (q.src + 64 * i) 64)]
  | 3 => [(d, reduceLine q.rfmt q.rop (readBytes s d 64) (readBytes s (q.src + 64 * i) 64))]
  | 5 => [(d, ecSum (q.list.map fun e => (1, readBytes s (e.1 + 64 * i) 64))),
          (q.aux + 64 * i, ecSum (q.list.zipIdx.map fun (e : (Nat × Nat) × Nat) => (gfPow e.2, readBytes s (e.1.1 + 64 * i) 64)))]
  | 6 => [(d, ecSum (q.list.map fun e => (e.2, readBytes s (e.1 + 64 * i) 64)))]
  | _ => []

def setInv (id : Nat) (f : QInv → QInv) (s : State) : State :=
  s.onEng fun e => { e with invs := kmod {} e.invs id f }

def setPortion (id page : Nat) (f : QPortion → QPortion) (s : State) : State :=
  setInv id (fun q => { q with portions := q.portions.map fun x => if x.page = page then f x else x }) s

/-- End a QN_EXEC (R275): its record is gone, its portions cancelled. -/
def endQExec (it : Item) (st v : Nat) (pl : List Byte) (s : State) : State :=
  let s1 := s.onEng fun e => { e with invs := kput {} e.invs it.id {} }
  match s1.home.waitq.find? fun x => x.id = it.id with
  | some x => endWrite x [] st v pl s1
  | none => s1

/-- The answer of a QN_EXEC whose portions are all done (Table 10.4): of one that failed, the status of its failing line at the lowest address (R275). -/
def finishQExec (it : Item) (s : State) : State :=
  let q := kget {} s.eng.invs it.id
  match q.failed with
  | some (_, st) => endQExec it st 0 [] s
  | none =>
    if q.poisoned then endQExec it sPOISONED 0 [] s
    else match q.op with
      | 2 => match q.diffAt with
        | some k => endQExec it sOK k [] (bump (aQN 6) s)
        | none => endQExec it sOK (2 ^ 64 - 1) [] s
      | 4 =>
        let c := q.crc ^^^ crcZeros (64 * q.lines) (2 ^ 64 - 1) ^^^ (2 ^ 64 - 1)
        endQExec it sOK q.lsum (leBytes 8 q.lsum ++ leBytes 8 c) s
      | _ => endQExec it sOK q.lines [] s

/-- A line fails: the lowest such address counts, and the portions not yet started are cancelled (R275). -/
def lineFailed (id at_ st : Nat) (s : State) : State :=
  setInv id (fun q => { q with
    failed := lowest ((match q.failed with | some x => [x] | none => []) ++ [(at_, st)]),
    portions := q.portions.filter (·.begun) }) s

/-- The portions of some pages start, where they have not, at the Querns chosen now (R267). -/
def beginPortions (id : Nat) (ps : List Nat) (s : State) : State :=
  let start (x : QPortion) : QPortion :=
    if ps.contains x.page && !(x.begun && quernUp s x.quern) then { x with begun := true, quern := quernOf s x.page } else x
  setInv id (fun q => { q with portions := q.portions.map start }) s

/-- Lines moved, each counted at the Quern of its page's portion (Table 10.12). -/
def countLines (q : QInv) (ls : List Nat) (s : State) : State :=
  ls.foldl (fun s l =>
    let u := ((q.portions.find? fun x => x.page = l / 1024).map (·.quern)).getD (quernOf s (l / 1024))
    bump (0x080100 + u) s) s

/-- The lowest of some written lines that is refused. -/
def refusedLine (w : SetWrite) (ls : List Nat) (s : State) : Nat :=
  ((ls.filter fun l => (lineFails w s l).isSome).min?).getD 0

/-- Perform lines of a portion from index `i`, as many as are ready: the index reached. A line that fails is passed over. -/
def qlines : Nat → Nat → Item → State → Nat × State
  | 0, i, _, s => (i, s)
  | fuel + 1, i, it, s =>
    let w := { engWrite it 0x12 with node := none }
    let q0 := kget {} s.eng.invs it.id
    match engReady w (q0.reads i) (q0.writes i) s with
    | .wait o => (i, o.getD s)
    | .bad st s' => qlines fuel (i + 1) it (lineFailed it.id (refusedLine w (q0.writes i) s) st s')
    | .ready =>
      let s0 := beginPortions it.id ((q0.reads i ++ q0.writes i).map (· / 1024)) s
      let q := kget {} s0.eng.invs it.id
      let (bad, s1) := engAccess w (q.reads i) s0
      if (q.writes i).isEmpty then
        qlines fuel (i + 1) it (countLines q (q.reads i)
          (setPortion it.id ((q.dst / 64 + i) / 1024)
            (fun p => if bad.isEmpty then p.note q s i else { p with poisoned := true }) s1))
      else
        let (a, fw, s2) := engPut it.part w (q.data s i) s1
        if a ≠ 0 then qlines fuel (i + 1) it (lineFailed it.id (((q.writes i).min?).getD 0) a s2)
        else
          let s3 := if bad.isEmpty then s2
            else setInv it.id (fun q => { q with poisoned := true })
              ((q.writes i).foldl (fun s l => poisonLine l none false s) s2)
          let s4 := addForwards it.id fw s3
          qlines fuel (i + 1) it (countLines q (q.reads i ++ q.writes i)
            (if q.op = 5 || q.op = 6 then bumpBy (aQN 5) (q.writes i).length s4 else s4))

/-- Work a portion of an invocation, named by its page: one of its first region (R267); the lines of the other regions are moved as these need them. A portion whose lines are not all ready keeps the rest; one that an injected stall holds is held until the item's deadline (R450). -/
def qportion (id k : Nat) (s : State) : State :=
  let q := kget {} s.eng.invs id
  match s.home.waitq.find? (fun x => x.id = id), q.portions.find? (fun p => p.page = k && decide (0 < p.left)) with
  | some it, some p =>
    if !q.live || it.answer.isSome || p.held then s
    else
      let s0 := beginPortions id [k] s
      let u := (((kget {} s0.eng.invs id).portions.find? fun x => x.page = k).map (·.quern)).getD p.quern
      let (arm, s') := takeArmed kQuern u [0x60] s0
      if arm.isSome then setPortion id k (fun x => { x with held := true }) s'
      else
        let (i, s1) := qlines p.left p.next it s'
        let s2 := setInv id QInv.prune (setPortion id k (fun x => { x with next := i, left := p.left - (i - p.next) }) s1)
        if (kget {} s2.eng.invs id).portions.isEmpty then finishQExec it s2 else s2
  | _, _ => s

/-! ### Reduction groups (R280-R286) -/

def group (s : State) (off : Nat) : QGroup := kget {} s.eng.groups off
def setGroup (off : Nat) (f : QGroup → QGroup) (s : State) : State :=
  s.onEng fun e => { e with groups := kmod {} e.groups off f }

/-- The control line of a group as the YM9 writes it (Table 10.6). -/
def groupLine (s : State) (g : QGroup) (gstate : Nat) : List Byte :=
  leBytes 8 (globalOf s g.target) ++ leBytes 4 g.lines ++ leBytes 1 g.rfmt ++ leBytes 1 g.rop
  ++ leBytes 1 gstate ++ leBytes 1 g.flags ++ leBytes 2 g.n ++ leBytes 2 g.done ++ leBytes 4 0
  ++ leBytes 8 g.key ++ leBytes 8 g.initD ++ leBytes 8 g.recvD ++ leBytes 8 g.claimD ++ leBytes 8 g.errD

def targetLines (g : QGroup) : List Nat := (List.range g.lines).map fun i => g.target / 64 + i

/-- The LSUM of a target as it stands, and whether an element had no image. -/
def targetSum (s : State) (g : QGroup) : Nat × Bool :=
  (List.range g.lines).foldl (fun a i =>
    let (d, sp) := lsumElems g.rfmt (g.key % lsumP) (i * (64 / rfBytes g.rfmt)) (lineElems g.rfmt (readBytes s (g.target + 64 * i) 64))
    ((a.1 + d) % lsumP, a.2 || sp)) (0, false)

/-- The Querns of a target's pages read its lines for a sum. -/
def countSum (g : QGroup) (s : State) : State :=
  (pagesOf g.target g.lines).foldl (fun s p => bumpBy (0x080100 + quernOf s p) (pagePart g.target g.lines p).2 s) s

/-- QN_GROUP OPEN (R281): the group is open only from the OPEN response. -/
def serveQOpen (it : Item) (s : State) : Option State :=
  match engReady (readFor it) [it.off / 64] [it.off / 64] s with
  | .wait o => o
  | .bad st s' => some (endItem it st 0 [] s')
  | .ready =>
    let (bad, s1) := engAccess (readFor it) [it.off / 64] s
    let d := readBytes s it.off 64
    let g : QGroup := {
      opening := true, part := it.part, target := field d 0 8 % 2 ^ 50, lines := field d 8 4,
      rfmt := field d 12 1, rop := field d 13 1, n := field d 16 2, key := field d 24 8 }
    let tg := field d 0 8
    let stop (st : Nat) (s : State) : Option State := some (endItem it st 0 [] s)
    let old := group s it.off
    if !bad.isEmpty then stop sPOISONED s1
    else if old.opened || old.opening then stop sBAD s
    else if !(tg % 64 = 0 && within g.lines 1 32768 && decide (g.rfmt ≤ 5) && decide (g.rop ≤ 2)
        && decide (1 ≤ g.n) && keyOk g.key) then stop sBAD s
    else
      let c := regionsCheck s it [(tg, g.lines * 64, true)]
      if c ≠ sOK then some (endCheck it c s)
      else if g.target ≤ it.off ∧ it.off < g.target + g.lines * 64 then stop sBAD s
      else if 256 ≤ s.eng.groups.length then stop sNORES s
      else
        let s2 := if it.flash then s else engInterim it s
        match engReady (readFor it) (targetLines g) [] s2 with
        | .wait o => if it.flash then o else some (o.getD s2)
        | .bad st s' => stop st s'
        | .ready =>
          let (tb, s3) := engAccess (readFor it) (targetLines g) s2
          if !tb.isEmpty then stop sPOISONED s3
          else
            let (di, sp) := targetSum s3 g
            let g' := { g with initD := di, flags := b2n sp }
            let (a, fw, s4) := engPut it.part (engWrite it 0x12) [(it.off, groupLine s3 { g' with flags := 0 } 1)] s3
            if a ≠ 0 then stop a s3
            else some (endWrite it fw sOK di [] (countSum g (setGroup it.off (fun _ => g') s4)))

/-- Contributions to a group admitted and not yet performed, ahead of an item. -/
def groupBusy (s : State) (off before : Nat) : Bool :=
  s.home.waitq.any fun x => x.op = 0x61 && decide (x.id < before) && decide (field x.payload 0 8 % 2 ^ 50 = off)

/-- Close a group (R283, R285): write its control line, count it, and report a failure. -/
def closeGroup (off : Nat) (g : QGroup) (ok : Bool) (s : State) : List (Nat × Nat) × State :=
  let (_, fw, s1) := engPut g.part { op := 0x12 } [(off, groupLine s g (if ok then 2 else 3))] s
  let s2 := bump (aQN (if ok then 3 else 4)) (setGroup off (fun _ => {}) s1)
  (fw, if ok then s2 else event { cls := 6, code := 0, part := some g.part, addr := globalOf s off, injected := g.injected } s2)

/-- QN_GROUP DONE (R283). A target with a poisoned line has no sum: whether RESULT_BAD is then set is free (log entry 5). -/
def serveQDone (it : Item) (s : State) : Option State :=
  let g := group s it.off
  if !g.opened || g.abandoned then some (endItem it sABORTED 0 [] s)
  else if g.done + 1 < g.n then
    some (endItem it sOK (g.done + 1) [] (setGroup it.off (fun g =>
      { g with done := g.done + 1, claimD := (g.claimD + field it.payload 0 8) % lsumP }) s))
  else
    let ls := if g.rop = 0 && !bit g.flags 0 then targetLines g else []
    match engReady (readFor it) ls [it.off / 64] s with
    | .wait o => o
    | .bad st s' => some (endItem it st 0 [] s')
    | .ready =>
      let (tb, s1) := engAccess (readFor it) ls s
      let (fin, sp) := if ls.isEmpty then (0, false) else targetSum s1 g
      let (v, s2) := if tb.isEmpty then (0, s1) else ((freeVal s1).1.toNat, (freeVal s1).2)
      let claim := (g.claimD + field it.payload 0 8) % lsumP
      let special := bit g.flags 0 || sp
      let claimBad := decide (claim ≠ g.recvD)
      let resBad := g.rop = 0 && !special
        && (if tb.isEmpty then decide ((fin + g.errD) % lsumP ≠ (g.initD + g.recvD) % lsumP) else bit v 0)
      let poison := bit g.flags 4 || !tb.isEmpty
      let fl := b2n special + 2 * b2n claimBad + 4 * b2n resBad + 8 * b2n (decide (g.rop ≠ 0)) + 16 * b2n poison
        + (if bit g.flags 6 then 64 else 0)
      let ok := !claimBad && !resBad && !poison && !bit g.flags 6
      let (fw, s3) := closeGroup it.off { g with done := g.done + 1, claimD := claim, flags := fl } ok
        (if ls.isEmpty then s2 else countSum g s2)
      some (endWrite it fw (if ok then sOK else if poison then sPOISONED else sFAULT) fl [] s3)

/-- Close a group without checks (R285). -/
def closeAbandoned (off : Nat) (s : State) : List (Nat × Nat) × State :=
  let g := group s off
  closeGroup off { g with flags := g.flags ||| 32 } false s

/-- Mark groups abandoned (R285), by what comes with a request number; each closes once the contributions already admitted are performed. -/
def abandonFrom (num : Nat) (p : Nat → QGroup → Bool) (fl : Nat) (s : State) : State :=
  let mark (x : Nat × QGroup) : Nat × QGroup :=
    if p x.1 x.2 then
      (x.1, { x.2 with abandoned := true, flags := x.2.flags ||| fl,
                       abandonedAt := if x.2.abandoned then x.2.abandonedAt else num })
    else x
  s.onEng fun e => { e with groups := e.groups.map mark }

def abandonGroups (p : Nat → QGroup → Bool) (fl : Nat) (s : State) : State := abandonFrom s.home.nextId p fl s

/-- An ABANDON of a group waits. -/
def abandonWaits (s : State) (off : Nat) : Bool :=
  s.home.waitq.any fun x => x.op = 0x62 && x.param = 2 && decide (x.off = off)

/-- QN_GROUP ABANDON (R285): the group is marked at once. -/
def serveQAbandon (it : Item) (s : State) : Option State :=
  let g := group s it.off
  if !g.opened then some (endItem it sABORTED 0 [] s)
  else if !g.abandoned then some (abandonFrom it.id (fun o _ => o = it.off) 0 s)
  else if groupBusy s it.off g.abandonedAt then none
  else match engReady (readFor it) [] [it.off / 64] s with
    | .wait o => o
    | .bad st s' => some (endItem it st 0 [] s')
    | .ready =>
      let (fw, s1) := closeAbandoned it.off s
      some (endWrite it fw sOK 0 [] s1)

/-- Close a marked group whose control line is ready. -/
def closeReady (off : Nat) (s : State) : Option State :=
  match engReady { op := 0x12 } [] [off / 64] s with
  | .wait o => o
  | _ => some (closeAbandoned off s).2

/-- Close a marked group that no admitted contribution waits for, and whose ABANDON, if one waits, is not to close it. -/
def closeMarked (s : State) : Option State :=
  s.eng.groups.findSome? fun x =>
    if x.2.opened && x.2.abandoned && !groupBusy s x.1 x.2.abandonedAt && !abandonWaits s x.1 then closeReady x.1 s else none

/-- The terms of one line of a contribution (R282): the new line, what RECV_D and ERR_D gain, and SPECIAL. -/
def contribLine (g : QGroup) (i : Nat) (t x : List Byte) : List Byte × Nat × Nat × Bool :=
  let n := reduceLine g.rfmt g.rop t x
  let r := g.key % lsumP
  let i0 := i * (64 / rfBytes g.rfmt)
  let (lx, s1) := lsumElems g.rfmt r i0 (lineElems g.rfmt x)
  let (lt, s2) := lsumElems g.rfmt r i0 (lineElems g.rfmt t)
  let (ln, s3) := lsumElems g.rfmt r i0 (lineElems g.rfmt n)
  if g.rop = 0 then (n, lx, (lt + lx + lsumP - ln) % lsumP, s1 || s2 || s3) else (n, lx, 0, s1)

/-- The first element stored with its lowest bit inverted (Table 16.11, fault 0x0050). -/
def corrupted : List (Nat × List Byte) → List (Nat × List Byte)
  | (a, b :: bs) :: r => (a, (b ^^^ 1) :: bs) :: r
  | ws => ws

/-- An ABANDON of a group came before a request and still waits. -/
def abandonAhead (s : State) (off before : Nat) : Bool :=
  s.home.waitq.any fun x => x.op = 0x62 && x.param = 2 && decide (x.id < before) && decide (x.off = off)

/-- QN_CONTRIB (R282). -/
def serveQContrib (it : Item) (s : State) : Option State :=
  let go := field it.payload 0 8
  let g := group s (go % 2 ^ 50)
  let cnt := it.param + 1
  let data := slice it.payload 16 (64 * cnt)
  let ls := (List.range cnt).map fun i => it.off / 64 + i
  let c := regionsCheck s it [(go, 64, true), (globalOf s it.off, 64 * cnt, true)]
  if c ≠ sOK then some (endCheck it c s)
  else if !g.opened || (g.abandoned && decide (g.abandonedAt ≤ it.id)) || abandonAhead s (go % 2 ^ 50) it.id then
    some (endItem it sABORTED 0 [] s)
  else if it.off < g.target ∨ g.target + g.lines * 64 < it.off + 64 * cnt then some (endItem it sBAD 0 [] s)
  else if crc64 data ≠ field it.payload 8 8 then some (endItem it sPOISONED 0 [] (bump (aQN 2) s))
  else match engReady (engWrite it 0x61) ls ls s with
    | .wait o => o
    | .bad st s' => some (endItem it st 0 [] s')
    | .ready =>
      let (bad, s1) := engAccess (readFor it) ls s
      let res := (List.range cnt).map fun i =>
        contribLine g ((it.off - g.target) / 64 + i) (readBytes s1 (it.off + 64 * i) 64) (slice data (64 * i) 64)
      let ws := ((List.range cnt).zip res).filterMap fun x =>
        if bad.contains (it.off / 64 + x.1) then none else some (it.off + 64 * x.1, x.2.1)
      let q := quernOf s (it.off / 65536)
      let (arm, s0) := if ws.isEmpty then (none, s1) else takeArmed kQuern q [0x50] s1
      let (a, fw, s2) := engPut it.part (engWrite it 0x61) (if arm.isSome then corrupted ws else ws) s0
      if a ≠ 0 then some (endItem it a 0 [] s1)
      else
        let s3 := setGroup (go % 2 ^ 50) (fun g => { g with
          recvD := res.foldl (fun d x => (d + x.2.1) % lsumP) g.recvD,
          errD := res.foldl (fun d x => (d + x.2.2.1) % lsumP) g.errD,
          flags := g.flags ||| b2n (res.any fun x => x.2.2.2) ||| (if bad.isEmpty then 0 else 16),
          injected := g.injected || arm.isSome,
          querns := if g.querns.contains q then g.querns else g.querns ++ [q] }) s2
        let s4 := bump (aQN 1) (bumpBy (0x080100 + q) (2 * cnt) s3)
        some (endWrite it fw (if bad.isEmpty then sOK else sPOISONED) 0 [] s4)

/-- QN_ECDELTA (R289). -/
def serveEcDelta (it : Item) (s : State) : Option State :=
  let cnt := field it.payload 0 1
  let ls := (List.range cnt).map fun i => it.off / 64 + i
  match (ls.map fun l => setRule s (l * 64) (engWrite it 0x63)).find? (fun r => match r with | .denied _ => true | _ => false) with
  | some (.denied m) => some (endItem it sDENIED 0 [] (if m then bump (aSET 7) s else s))
  | _ =>
    match engReady (engWrite it 0x63) ls ls s with
    | .wait o => o
    | .bad st s' => some (endItem it st 0 [] s')
    | .ready =>
      let (bad, s1) := engAccess (readFor it) ls s
      let ws := (List.range cnt).map fun i =>
        (it.off + 64 * i, xorBytes (readBytes s1 (it.off + 64 * i) 64) (gfScale it.param (slice it.payload (8 + 64 * i) 64)))
      let (a, fw, s2) := engPut it.part (engWrite it 0x63) ws s1
      if a ≠ 0 then some (endItem it a 0 [] s2)
      else
        let s3 := bad.foldl (fun s l => poisonLine l none false s) s2
        let s4 := bumpBy (aQN 5) cnt (bumpBy (0x080100 + quernOf s (it.off / 65536)) (2 * cnt) s3)
        some (endWrite it fw (if bad.isEmpty then sOK else sPOISONED) 0 [] s4)

/-- The Quern requests by opcode and PARAM. -/
def serveQuern (it : Item) (s : State) : Option State :=
  match it.op with
  | 0x60 => serveQExec it s
  | 0x61 => serveQContrib it s
  | 0x62 => (match it.param with | 0 => serveQOpen it s | 1 => serveQDone it s | _ => serveQAbandon it s)
  | _ => serveEcDelta it s

end Sys2Proof.Machine
end

