-- ==== Sys2Proof/Machine/HoistOps.lean ====
section
/-! DEFINITION. The Hoist: tables and rows, lookups, row buffers and hot sets, gradients, steps and optimizers (R293-R322). -/

namespace Sys2Proof.Machine

/-! ### Table descriptors (Table 11.1) -/

structure TDesc where
  base : Nat
  rows : Nat
  dim : Nat
  fmt : Nat
  slog : Nat
  hash : Nat
  comp : Nat
  defpol : Nat
  opt : Nat
  seed : Nat
  defRow : Nat
  partner : Nat
  state : Nat
  lr : Nat
  eps : Nat
  spill : Nat
  spillLines : Nat
  b1 : Nat
  b2 : Nat
  rnd : Nat

def tdesc (d : List Byte) : TDesc :=
  { base := field d 0 8, rows := field d 8 8, dim := field d 16 2, fmt := field d 18 1, slog := field d 19 1,
    hash := field d 20 1, comp := field d 21 1, defpol := field d 22 1, opt := field d 23 1, seed := field d 24 8,
    defRow := field d 32 8, partner := field d 40 8, state := field d 48 8, lr := field d 56 4, eps := field d 60 4,
    spill := field d 64 8, spillLines := field d 72 4, b1 := field d 76 4, b2 := field d 80 4, rnd := field d 84 1 }

/-- The number format of a row's elements. -/
def TDesc.el (t : TDesc) : Nat := [9, 7, 8, 4, 6].getD t.fmt 9
def TDesc.scaled (t : TDesc) : Bool := decide (3 ≤ t.fmt)
def TDesc.rowBytes (t : TDesc) : Nat := (if t.scaled then 4 else 0) + t.dim * (fmtBits t.el / 8)
def TDesc.stride (t : TDesc) : Nat := 64 * 2 ^ t.slog
/-- The offset of a row in the range. -/
def TDesc.row (t : TDesc) (r : Nat) : Nat := t.base % 2 ^ 50 + r * t.stride
def TDesc.rowLines (t : TDesc) (r : Nat) : List Nat := linesOf (t.row r) t.rowBytes
/-- Bytes of optimizer state a row takes, and its offset (Table 11.5). -/
def TDesc.stateStride (t : TDesc) : Nat := match t.opt with | 1 => 4 | 2 => (8 * t.dim + 63) / 64 * 64 | _ => 0
def TDesc.stateAt (t : TDesc) (r : Nat) : Nat := t.state % 2 ^ 50 + r * t.stateStride

/-- A binary32 in [0, 1). -/
def unitF32 (w : Nat) : Bool := decide (w < 0x3F800000) || decide (w = 0x80000000)

/-- The rules of Table 11.1 and R294 that one descriptor can be held to. -/
def tdescOk (d : List Byte) : Bool :=
  let t := tdesc d
  decide (t.base % 65536 = 0) && within t.rows 1 (2 ^ 40) && within t.dim 1 1024 && decide (t.fmt ≤ 4)
  && decide (t.slog ≤ 6) && decide (t.rowBytes ≤ t.stride) && decide (t.hash ≤ 2) && decide (t.comp ≤ 3)
  && decide (t.defpol ≤ 2) && decide (t.opt ≤ 3) && (t.hash = 2 || decide (t.seed = 0))
  && (if t.defpol = 2 then decide (t.defRow < t.rows) else decide (t.defRow = 0))
  && (decide (t.comp ≠ 0) || decide (t.partner = 0)) && decide (t.partner % 64 = 0)
  && decide (t.state % 65536 = 0) && (t.opt = 1 || t.opt = 2 || decide (t.state = 0))
  && decide (t.spill % 64 = 0) && (t.opt ≠ 2 || (unitF32 t.b1 && unitF32 t.b2)) && decide (t.rnd ≤ 2)
  && decide (field d 85 43 = 0)

/-- A table and its partner fit together (R296, R297). -/
def tpairOk (t : TDesc) (p : Option TDesc) : Bool :=
  match p with
  | none => true
  | some q => decide (q.comp = 0) && decide (q.fmt = t.fmt) && (t.comp = 3 || decide (q.dim = t.dim))
      && decide (t.rows * q.rows ≤ 2 ^ 63)

/-- Elements of the composed row. -/
def composedDim (t : TDesc) (p : Option TDesc) : Nat :=
  match p with
  | some q => if t.comp = 3 then t.dim + q.dim else t.dim
  | none => t.dim

/-- Regions of a table: its rows, its optimizer state and its spill region, with the rights to read or write them that an invocation needs (R304); a lookup uses the rows alone. -/
def tregions (t : TDesc) (read write : Bool) : List (Nat × Nat × Bool) :=
  let both (a n : Nat) : List (Nat × Nat × Bool) := (if read then [(a, n, false)] else []) ++ (if write then [(a, n, true)] else [])
  both t.base (t.rows * t.stride)
  ++ (if write && t.stateStride ≠ 0 then both t.state (t.rows * t.stateStride) else [])
  ++ (if write && t.spill ≠ 0 then both t.spill (t.spillLines * 64) else [])

/-! ### Identifiers (R296, R298) -/

/-- The row pair of an identifier; none for missing or invalid. -/
def rowOf (t : TDesc) (p : Option TDesc) (id : Nat) : Option (Nat × Nat) :=
  let m := 2 ^ 64
  let pr := match p with | some q => q.rows | none => 1
  let span := t.rows * pr
  let split (h : Nat) : Nat × Nat := if p.isSome then (h / pr, h % pr) else (h, 0)
  if id = m - 1 then none
  else match t.hash with
    | 0 => if span ≤ id then none else some (split id)
    | 1 => some (split (id % span))
    | _ =>
      let x0 := id ^^^ t.seed
      let x1 := (x0 ^^^ (x0 / 2 ^ 31)) * 0x9E3779B97F4A7C15 % m
      let x2 := (x1 ^^^ (x1 / 2 ^ 29)) * 0x8D4F6A21C3B7E599 % m
      let x3 := x2 ^^^ (x2 / 2 ^ 32)
      some (split (x3 * span / m))

/-- What a position contributes: nothing, a zero row, or a row pair; and whether DEFPOL handled it. -/
inductive PosRow where
  | skip
  | zero
  | row (q r : Nat)
  deriving DecidableEq

def posRow (t : TDesc) (p : Option TDesc) (id : Nat) : PosRow × Bool :=
  match rowOf t p id with
  | some (q, r) => (.row q r, false)
  | none => match t.defpol with
    | 0 => (.skip, true)
    | 1 => (.zero, true)
    | _ => (.row t.defRow 0, true)

/-! ### Row values (R294, R297) -/

/-- The decoded elements of a row. -/
def rowVals (s : State) (t : TDesc) (r : Nat) : List FV :=
  let o := t.row r
  if t.scaled then
    let sc := fmtDecode 9 (readNat s o 4)
    (List.range t.dim).map fun i => FV.mul sc (fmtDecode t.el (readNat s (o + 4 + i) 1))
  else
    let b := fmtBits t.el / 8
    (List.range t.dim).map fun i => fmtDecode t.el (readNat s (o + b * i) b)

/-- The composed row (R297), each element rounded once in binary64. -/
def composed (s : State) (t : TDesc) (p : Option TDesc) (q r : Nat) : List FV :=
  let a := (rowVals s t q).map (roundP 53)
  match p with
  | none => a
  | some pt =>
    let b := (rowVals s pt r).map (roundP 53)
    match t.comp with
    | 1 => List.zipWith (fun x y => roundP 53 (FV.add x y)) a b
    | 2 => List.zipWith (fun x y => roundP 53 (FV.mul x y)) a b
    | _ => a ++ b

/-! ### Hoist slices (R301, R319, R321) -/

def hoistUp (s : State) (b : Nat) : Bool := kget .off s.eng.hoists b = .serving && !bayMapped s b

/-- Slices in service, in ascending bay order. -/
def hoistSlices (s : State) : List Nat := (List.range 16).filter (hoistUp s)

/-! ### Lookup and gradient descriptors (Table 11.4) -/

structure LDesc where
  table : Nat
  idx : Nat
  offs : Nat
  wgt : Nat
  out : Nat
  n : Nat
  b : Nat
  ostride : Nat
  pool : Nat
  ofmt : Nat
  mode : Nat
  step : Nat

def ldesc (d : List Byte) : LDesc :=
  { table := field d 0 8, idx := field d 8 8, offs := field d 16 8, wgt := field d 24 8, out := field d 32 8,
    n := field d 40 4, b := field d 44 4, ostride := field d 48 4, pool := field d 52 1, ofmt := field d 53 1,
    mode := field d 54 1, step := field d 56 4 }

def ldescOk (grad : Bool) (d : List Byte) : Bool :=
  let l := ldesc d
  within l.n 1 1048576 && within l.b 1 65536 && decide (l.ostride % 64 = 0) && decide (l.pool ≤ 1)
  && [9, 7, 8].contains l.ofmt && decide (bits l.mode 7 3 = 0) && decide (bits l.mode 2 1 ≠ 3)
  && (!grad || decide (bits l.mode 0 0 = 0)) && (grad || decide (l.step = 0))
  && decide (l.out % 64 = 0) && decide (field d 55 1 = 0) && decide (field d 60 4 = 0) && decide (l.table % 64 = 0)

/-- A list entry of the range. -/
def listAt (s : State) (addr b i : Nat) : Nat := readNat s (addr % 2 ^ 50 + b * i) b

/-- The offset list keeps its rules (R299), as far as its entries can be read. -/
def offsOk (bad : List Nat) (s : State) (l : LDesc) : Bool :=
  let seen (i : Nat) : Bool := !bad.contains ((l.offs % 2 ^ 50 + 4 * i) / 64)
  let o (i : Nat) : Nat := listAt s l.offs 4 i
  (!seen 0 || decide (o 0 = 0)) && (!seen l.b || decide (o l.b = l.n))
  && ((List.range l.b).all fun i => !(seen i && seen (i + 1)) || decide (o i ≤ o (i + 1)))
  && (List.range (l.b + 1)).all fun i => !seen i || decide (o i ≤ l.n)

/-- A line that reads poisoned. -/
def lineBad (s : State) (l : Nat) : Bool := poisoned s l || pageUnusable s (l / 1024)

/-- The lines of a list of `n` entries of `b` bytes. -/
def listLines (addr b n : Nat) : List Nat := linesOf (addr % 2 ^ 50) (b * n)

/-! ### What every Hoist invocation reads first -/

/-- A table and its partner, read together: their descriptors' bytes. -/
structure Tables where
  d : List Byte
  pd : List Byte
  t : TDesc
  p : Option TDesc

/-- The tables of two descriptors; the second counts where the first names a partner. -/
def tablesOf (d pd : List Byte) : Tables :=
  let t := tdesc d
  { d := d, pd := pd, t := t, p := if t.comp ≠ 0 then some (tdesc pd) else none }

/-- Lines of a table's descriptor and its partner's. -/
def tableLines (s : State) (off : Nat) : List Nat :=
  let t := tdesc (readBytes s off 128)
  linesOf off 128 ++ (if t.comp ≠ 0 then linesOf (t.partner % 2 ^ 50) 128 else [])

def Tables.ok (x : Tables) : Bool := tdescOk x.d && (x.t.comp = 0 || tdescOk x.pd) && tpairOk x.t x.p

def Tables.regions (x : Tables) (addr : Nat) (read write : Bool) : List (Nat × Nat × Bool) :=
  [(addr, 128, false)] ++ tregions x.t read write
  ++ (match x.p with | some q => [(x.t.partner, 128, false)] ++ tregions q read write | none => [])

/-- The regions a lookup does not read, which its table names all the same (R293, R304): they lie in extents of the partition. -/
def Tables.others (x : Tables) : List (Nat × Nat × Bool) :=
  let of (t : TDesc) : List (Nat × Nat × Bool) := (tregions t false true).drop 1
  of x.t ++ (match x.p with | some q => of q | none => [])

/-- A Hoist invocation that arrives finds 1,024 in progress (R306). -/
def hoistFull (it : Item) (s : State) : Bool :=
  within it.op 0x64 0x67
  && decide (1024 ≤ (s.home.waitq.filter fun x => within x.op 0x64 0x67 && decide (x.id < it.id)).length)

/-! ### Lookup (R300-R308) -/

/-- A position of a batch: its bag is known by the caller; identifier, row and weight. -/
def posWeight (s : State) (l : LDesc) (k : Nat) : FV :=
  if l.wgt = 0 then .fin false 1 0 else fmtDecode 9 (listAt s l.wgt 4 k)

/-- Bag bounds. -/
def bagAt (s : State) (l : LDesc) (i : Nat) : Nat × Nat := (listAt s l.offs 4 i, listAt s l.offs 4 (i + 1))

/-- Lines of the rows a position uses. -/
def posLines (t : TDesc) (p : Option TDesc) : PosRow → List Nat
  | .row q r => t.rowLines q ++ (match p with | some pt => pt.rowLines r | none => [])
  | _ => []

/-- Distinct rows named by a batch: offsets of table rows and partner rows. -/
def batchRows (s : State) (t : TDesc) (p : Option TDesc) (l : LDesc) : List (Nat × List Nat) :=
  (((List.range l.n).flatMap fun k => match (posRow t p (listAt s l.idx 8 k)).1 with
    | .row q r => [(t.row q, t.rowLines q)] ++ (match p with | some pt => [(pt.row r, pt.rowLines r)] | none => [])
    | _ => [])).dedup

/-- One output element: the pairs of each span's part of the bag, joined in span order (R300, R301). -/
def poolElem (span : Nat) (xs : List (Nat × FV × FV)) : Pair :=
  let parts := (xs.map fun x => x.1 / span).dedup
  (parts.map fun j => (xs.filter fun x => x.1 / span = j).foldl (fun a x =>
    (pairTerms 10 x.2.1 x.2.2).foldl (Pair.add 53) a) ({} : Pair)).foldl (Pair.join 53) {}

/-- The output codes of a bag. -/
def bagOut (s : State) (t : TDesc) (p : Option TDesc) (l : LDesc) (span i : Nat) : List Nat :=
  let (a, b) := bagAt s l i
  let ps := (List.range (b - a)).map fun k => a + k
  let rows := ps.filterMap fun k => match (posRow t p (listAt s l.idx 8 k)).1 with
    | .skip => none
    | .zero => some (k, posWeight s l k, ([] : List FV))
    | .row q r => some (k, posWeight s l k, composed s t p q r)
  (List.range (composedDim t p)).map fun e =>
    let pr := poolElem span (rows.map fun x => (x.1, x.2.1, x.2.2.getD e FV.zero))
    let rd := rndAt s (bits l.mode 2 1) (i * composedDim t p + e)
    if rows.isEmpty then 0
    else if l.pool = 0 then (fmtRound l.ofmt rd pr.value false).1
    else (vresRound l.ofmt rd [] (divF pr.value (.fin false rows.length 0))).1

/-- Bytes of an output row. -/
def LDesc.rowBytes (l : LDesc) (dim : Nat) : Nat := dim * (fmtBits l.ofmt / 8)

/-- A position whose identifier or weight lies in a poisoned line. -/
def posBad (bad : List Nat) (l : LDesc) (k : Nat) : Bool :=
  (linesOf (l.idx % 2 ^ 50 + 8 * k) 8).any (fun x => bad.contains x)
  || (l.wgt ≠ 0 && (linesOf (l.wgt % 2 ^ 50 + 4 * k) 4).any (fun x => bad.contains x))

/-- A bag one of whose bounds lies in a poisoned line. -/
def offsBad (bad : List Nat) (l : LDesc) (i : Nat) : Bool :=
  (linesOf (l.offs % 2 ^ 50 + 4 * i) 8).any fun x => bad.contains x

/-- A bag that uses a poisoned list line or row (R308). -/
def bagBad (bad : List Nat) (s : State) (t : TDesc) (p : Option TDesc) (l : LDesc) (i : Nat) : Bool :=
  let (a, b) := bagAt s l i
  offsBad bad l i
  || (List.range (b - a)).any fun j =>
      let k := a + j
      posBad bad l k
      || (posLines t p (posRow t p (listAt s l.idx 8 k)).1).any fun x => bad.contains x

/-- A row held in a row buffer (R309). -/
def rowHeld (s : State) (off : Nat) : Bool := (kget (0, 0) s.eng.rowBuf off).2 ≠ 0

/-- Bytes of a slice's buffer that rows take: in the hot sets, and in all. -/
def hotRowsAll (s : State) : List Nat := (s.eng.hotSets.flatMap (·.2)).dedup
def bufUse (s : State) (b : Nat) (hot : Bool) : Nat :=
  ((s.eng.rowBuf.filter fun x => homeBay x.1 = b && (!hot || (hotRowsAll s).contains x.1)).map fun x => x.2.2).sum

/-- Drop the least recently used rows of a slice that are not hot, until there is room. -/
def bufRoom : Nat → Nat → Nat → State → State
  | 0, _, _, s => s
  | fuel + 1, b, n, s =>
    if bufUse s b false + n ≤ 8 * 2 ^ 20 then s
    else
      let c := s.eng.rowBuf.filter fun x => homeBay x.1 = b && !(hotRowsAll s).contains x.1
      match c.foldl (fun (r : Option (Nat × Nat × Nat)) x => match r with
          | none => some x
          | some y => if x.2.1 < y.2.1 then some x else some y) none with
      | some v => bufRoom fuel b n (s.onEng fun e => { e with rowBuf := kput (0, 0) e.rowBuf v.1 (0, 0) })
      | none => s

/-- Hold a row in its home slice's buffer, where the directory names each of its lines for the on-die holders (R172, R309). -/
def bufHold (off n : Nat) (s : State) : State :=
  if !(linesOf off n).all (engHolds s) then s
  else
    let s1 := if rowHeld s off then s else bufRoom s.eng.rowBuf.length (homeBay off) n s
    (s1.onStore fun st => { st with useClock := st.useClock + 1 }).onEng fun e =>
      { e with rowBuf := kput (0, 0) e.rowBuf off (s.store.useClock + 1, n) }

/-- The Race takes a line: rows that hold it leave the buffers (R181, R309). -/
def bufDrop (line : Nat) (s : State) : State :=
  s.onEng fun e => { e with rowBuf := e.rowBuf.filter fun x => !(linesOf x.1 x.2.2).contains line }

/-- Perform a lookup whose lines are all ready. Its positions are divided among the slices that were in service at its admission (R301). -/
def performLookup (it : Item) (x : Tables) (l : LDesc) (lists : List Nat) (s : State) : State :=
  let rows := batchRows s x.t x.p l
  let (b0, s0) := engAccess (readFor it) lists.dedup s
  let (hits, miss) := rows.partition fun r => rowHeld s r.1
  let (b1, s1) := engAccess (holdFor it) ((miss.flatMap (·.2)).dedup) s0
  let bad := b0 ++ b1 ++ ((hits.flatMap (·.2)).filter (lineBad s))
  let dim := composedDim x.t x.p
  let slices := max 1 it.slices.length
  let span := (l.n + slices - 1) / slices
  let inv := ((List.range l.n).filter fun k => (posRow x.t x.p (listAt s l.idx 8 k)).2).length
  let occ := ((List.range l.n).filter fun k => (posRow x.t x.p (listAt s l.idx 8 k)).1 ≠ .skip).length
  let bags := List.range l.b
  let anyBad := bags.any (bagBad bad s x.t x.p l)
  let value := rows.length * 2 ^ 32 + inv
  let stats (s : State) : State :=
    bumpBy (aHS 0) (if bit l.mode 0 then 0 else occ) (bumpBy (aHS 1) miss.length
      (bumpBy (aHS 2) hits.length (bumpBy (aHS 3) inv s)))
  let hot := hotRowsAll s
  if bit l.mode 0 then
    let s2 := rows.foldl (fun s r => bufHold r.1 (if r.2.isEmpty then 64 else 64 * r.2.length) s) s1
    endItem it (if anyBad then sPOISONED else sOK) value [] (stats s2)
  else
    let ws := bags.map fun i =>
      (l.out % 2 ^ 50 + i * l.ostride,
        if bagBad bad s x.t x.p l i then ffs (l.rowBytes dim)
        else (bagOut s x.t x.p l span i).flatMap (leBytes (fmtBits l.ofmt / 8)))
    let s2 := miss.foldl (fun s r => if hot.contains r.1 then bufHold r.1 (64 * r.2.length) s else s)
      { s1 with free := s1.free + l.b * dim }
    let (a, fw, s3) := engPut it.part (engWrite it 0x12) ws s2
    if a ≠ 0 then endItem it a 0 [] s3
    else endWrite it fw (if anyBad then sPOISONED else sOK) value [] (stats s3)

/-- Read the table's descriptor and its partner's for an invocation that has read `descs` of its own: once, at admission (R295). None where all have been read. -/
def readTables (it : Item) (own : Nat) (tab : Nat) (s : State) : Option (Option State) :=
  match it.descs.drop own with
  | [] =>
    let c := regionCheck s it tab 128 false
    some (if c ≠ sOK then some (endCheck it c s) else readOnce it (tab % 2 ^ 50) 128 s)
  | [d] =>
    let t := tdesc d
    let c := regionCheck s it t.partner 128 false
    some (if !tdescOk d then some (endItem it sBAD 0 [] s)
      else if t.comp = 0 then some (keepRead it [] s)
      else if c ≠ sOK then some (endCheck it c s)
      else readOnce it (t.partner % 2 ^ 50) 128 s)
  | _ => none

/-- The lists that a lookup or gradient descriptor names, each read (R304). -/
def LDesc.lists (l : LDesc) : List (Nat × Nat × Bool) :=
  [(l.idx, 8 * l.n, false), (l.offs, 4 * (l.b + 1), false)] ++ (if l.wgt ≠ 0 then [(l.wgt, 4 * l.n, false)] else [])

def LDesc.listLines (l : LDesc) : List Nat :=
  Machine.listLines l.offs 4 (l.b + 1) ++ Machine.listLines l.idx 8 l.n
  ++ (if l.wgt ≠ 0 then Machine.listLines l.wgt 4 l.n else [])

/-- A lookup whose descriptors are read. -/
def runLookup (it : Item) (l : LDesc) (x : Tables) (s : State) : Option State :=
  let stop (st : Nat) : Option State := some (endItem it st 0 [] s)
  let dim := composedDim x.t x.p
  if !x.ok || decide (1048576 < l.n * ((l.rowBytes dim + 255) / 256)) then stop sBAD
  else
    let rs := x.regions l.table true false ++ l.lists
      ++ (if bit l.mode 0 then [] else [(l.out, (l.b - 1) * l.ostride + l.rowBytes dim, true)])
    let c := regionsCheck s it rs
    let c' := if c = sOK then regionsCheck s { it with src := .call 0 0 } x.others else c
    if c' ≠ sOK then some (endCheck it c' s)
    else if !it.flash then some (engInterim it s)
    else match engReady (readFor it) l.listLines.dedup [] s with
      | .wait o => o
      | .bad st s' => some (endItem it st 0 [] s')
      | .ready =>
        if !offsOk (l.listLines.filter (lineBad s)) s l then stop sBAD
        else
          let rows := ((batchRows s x.t x.p l).filter fun r => !rowHeld s r.1).flatMap (·.2)
          let outs := if bit l.mode 0 then [] else
            (List.range l.b).flatMap fun i => linesOf (l.out % 2 ^ 50 + i * l.ostride) (l.rowBytes dim)
          match engReady (holdWrite it 0x12) rows.dedup outs.dedup s with
          | .wait o => o
          | .bad st s' => some (endItem it st 0 [] s')
          | .ready => some (performLookup it x l l.listLines s)

/-- HS_LOOKUP (R300-R308). -/
def serveLookup (it : Item) (s : State) : Option State :=
  match it.descs with
  | [] => readOnce it it.off 64 s
  | d :: _ =>
    let l := ldesc d
    if !ldescOk false d then some (endItem it sBAD 0 [] s)
    else match readTables it 1 l.table s with
      | some o => o
      | none => runLookup it l (tablesOf (it.descs.getD 1 []) (it.descs.getD 2 [])) s

/-! ### Steps (R313-R319) -/

def hstep (s : State) (tab : Nat) : HStep := kget {} s.eng.steps tab
def setHstep (tab : Nat) (f : HStep → HStep) (s : State) : State :=
  s.onEng fun e => { e with steps := kmod {} e.steps tab f }

def HStep.tables (h : HStep) : Tables :=
  let t := tdesc h.desc
  { d := h.desc, pd := h.pdesc, t := t, p := if t.comp ≠ 0 then some (tdesc h.pdesc) else none }

/-- The answer to a record tagged `st` at a table: none where it may be merged (R316). -/
def stepTag (s : State) (tab st : Nat) : Option Nat :=
  let h := hstep s tab
  if !h.taken then some sABORTED
  else if h.closing.isSome then some sRETRY
  else if st = h.step then none
  else if st = (h.step + 1) % 2 ^ 32 then some sRETRY
  else if precedes st h.step then some sABORTED
  else some sBAD

/-- Pending entries a row takes (R313). -/
def entriesOf (x : Tables) (key : Nat) : Nat :=
  let d := if key % 2 = 0 then x.t.dim else (match x.p with | some q => q.dim | none => 0)
  (d + 63) / 64

/-- The home bay of a row by its key. -/
def keyBay (x : Tables) (key : Nat) : Nat :=
  homeBay (if key % 2 = 0 then x.t.row (key / 2) else (match x.p with | some q => q.row (key / 2) | none => 0))

/-- Pending entries in use in a slice (Table 11.9). -/
def pendingIn (s : State) (b : Nat) : Nat :=
  (s.eng.steps.map fun h => ((h.2.rows.filter fun r => !r.2.sums.isEmpty && keyBay h.2.tables r.1 = b).map fun r =>
    entriesOf h.2.tables r.1).sum).sum

/-- Make room for a row's pending entry, spilling the least recently used of its slice (R314); none where the spill region cannot hold one. -/
def pendRoom : Nat → Nat → Nat → State → Option State
  | 0, _, _, s => some s
  | fuel + 1, b, n, s =>
    if pendingIn s b + n ≤ 8192 then some s
    else
      let cand := s.eng.steps.flatMap fun h => (h.2.rows.filter fun r =>
        !r.2.sums.isEmpty && keyBay h.2.tables r.1 = b).map fun r => (h.1, r.1, r.2.use)
      match cand.foldl (fun (r : Option (Nat × Nat × Nat)) x => match r with
          | none => some x
          | some y => if x.2.2 < y.2.2 then some x else some y) none with
      | none => some s
      | some (tab, key, _) =>
        let h := hstep s tab
        let x := h.tables
        let dim := if key % 2 = 0 then x.t.dim else (match x.p with | some q => q.dim | none => 0)
        let need := 1 + (dim * 8 + 63) / 64
        if x.t.spill = 0 ∨ x.t.spillLines < h.spillUsed + need then none
        else
          let at_ := x.t.spill % 2 ^ 50 + 64 * h.spillUsed
          let junk := (List.range (8 * need)).flatMap fun i => leBytes 8 (Config.freeWord (s.free + i)).toNat
          let s1 := (putLines h.part { op := 0x12 } [(at_, junk)] true { s with free := s.free + 8 * need }).2
          let s2 := setHstep tab (fun h => { h with
            spillUsed := h.spillUsed + need,
            rows := kmod {} h.rows key (fun r => { r with sums := [], spilt := r.spilt ++ [r.sums] }) }) s1
          pendRoom fuel b n (bumpBy (aHS 5) (entriesOf x key) s2)

/-- Merge the contributions to one row of an invocation, in an order the free values choose (R313; log entry 15). A poisoned contribution makes the entry poisoned (R318). -/
def mergeRow (tab key : Nat) (cs : List (List FV × Bool)) (s : State) : Option State :=
  let h := hstep s tab
  let x := h.tables
  let r := kget {} h.rows key
  match (if r.sums.isEmpty then pendRoom 8192 (keyBay x key) (entriesOf x key) s else some s) with
  | none => none
  | some s1 =>
    let dim := (cs.head?.map fun c => c.1.length).getD 0
    let fr (k : Nat) : Nat := (Config.freeWord (s1.free + k)).toNat
    let sum (e : Nat) : Pair := joinAny 30 fr cs.length 0 (cs.map fun c => { hi := c.1.getD e FV.zero })
    let add (r : GradRow) : GradRow :=
      { r with
        sums := (List.range dim).map (fun e => match r.sums[e]? with
          | some p => Pair.join 30 p (sum e)
          | none => sum e)
        poison := r.poison || cs.any (·.2), use := s1.store.useClock + 1 }
    some (bumpBy (aHS 4) cs.length (setHstep tab (fun h => { h with rows := kmod {} h.rows key add })
      { s1 with free := s1.free + 2 * cs.length, store := { s1.store with useClock := s1.store.useClock + 1 } }))

/-- Merge contributions by row: none where a pending entry finds no room (R314). -/
def mergeAll (tab : Nat) (cs : List (Nat × List FV × Bool)) (s : State) : Option State :=
  ((cs.map (·.1)).dedup).foldl (fun r key => r.bind fun s =>
    mergeRow tab key ((cs.filter fun c => c.1 = key).map (·.2)) s) (some s)

/-- A value with its rounding information as one value: a sticky bit below. -/
def vresFV : VRes → FV
  | .val (.fin n m e) more => if more then .fin n (2 * m + 1) (e - 1) else .fin n m e
  | .val v _ => v
  | .open_ => .nan

/-- The contributions of HS_GRAD (R312): by row key, formed with one rounding at u = 2^-30. -/
def gradContribs (bad : List Nat) (s : State) (x : Tables) (l : LDesc) : List (Nat × List FV × Bool) :=
  let dim := composedDim x.t x.p
  let ob := fmtBits l.ofmt / 8
  (List.range l.b).flatMap fun i =>
    let (a, b) := bagAt s l i
    let ps := (List.range (b - a)).map fun k => a + k
    let cnt := (ps.filter fun k => (posRow x.t x.p (listAt s l.idx 8 k)).1 ≠ .skip).length
    let go := l.out % 2 ^ 50 + i * l.ostride
    let gbad := offsBad bad l i || (linesOf go (l.rowBytes dim)).any (bad.contains ·)
    let g (e : Nat) : FV := fmtDecode l.ofmt (readNat s (go + ob * e) ob)
    ps.flatMap fun k => match rowOf x.t x.p (listAt s l.idx 8 k) with
      | none => []
      | some (q, r) =>
        let kb := gbad || posBad bad l k
        let form (v : FV) : FV :=
          let p := FV.mul v (posWeight s l k)
          roundP 30 (if l.pool = 0 then p else vresFV (divF p (.fin false cnt 0)))
        match x.p with
        | none => [(2 * q, (List.range dim).map (fun e => form (g e)), kb)]
        | some pt => match x.t.comp with
          | 1 => [(2 * q, (List.range dim).map (fun e => form (g e)), kb),
                  (2 * r + 1, (List.range dim).map (fun e => form (g e)), kb)]
          | 2 =>
            let tv := rowVals s x.t q
            let pv := rowVals s pt r
            let rb := (x.t.rowLines q ++ pt.rowLines r).any (bad.contains ·)
            [(2 * q, (List.range dim).map (fun e => form (FV.mul (g e) (pv.getD e .zero))), kb || rb),
             (2 * r + 1, (List.range dim).map (fun e => form (FV.mul (g e) (tv.getD e .zero))), kb || rb)]
          | _ => [(2 * q, (List.range x.t.dim).map (fun e => form (g e)), kb),
                  (2 * r + 1, (List.range pt.dim).map (fun e => form (g (x.t.dim + e))), kb)]

/-- HS_GRAD (R312-R316). A table with a slot is checked by the descriptors that its step read at OPEN. -/
def serveGrad (it : Item) (s : State) : Option State :=
  let stop (st : Nat) : Option State := some (endItem it st 0 [] s)
  match it.descs with
  | [] => readOnce it it.off 64 s
  | d :: _ =>
    let l := ldesc d
    let tab := l.table % 2 ^ 50
    let h := hstep s tab
    let x := h.tables
    let dim := if h.taken then composedDim x.t x.p else 1
    let rs := (if h.taken then x.regions l.table (x.t.comp = 2) true else [(l.table, 128, false)]) ++ l.lists
      ++ [(l.out, (l.b - 1) * l.ostride + l.rowBytes dim, false)]
    let c := regionsCheck s it rs
    if !ldescOk true d then stop sBAD
    else if decide (1048576 < l.n * ((l.rowBytes dim + 255) / 256)) then stop sBAD
    else if c ≠ sOK then some (endCheck it c s)
    else match stepTag s tab l.step with
    | some st => if st = sRETRY then engRetry it s else stop st
    | none =>
      if !it.flash then some (engInterim it s)
      else
        let lists := (l.listLines
          ++ (List.range l.b).flatMap fun i => linesOf (l.out % 2 ^ 50 + i * l.ostride) (l.rowBytes dim)).dedup
        match engReady (readFor it) lists [] s with
        | .wait o => o
        | .bad st s' => some (endItem it st 0 [] s')
        | .ready =>
          if !offsOk (l.listLines.filter (lineBad s)) s l then stop sBAD
          else
            let rows := if x.t.comp = 2 then ((batchRows s x.t x.p l).flatMap (·.2)).dedup else []
            match engReady (holdFor it) rows [] s with
            | .wait o => o
            | .bad st s' => some (endItem it st 0 [] s')
            | .ready =>
              let (b0, s0) := engAccess (readFor it) lists s
              let (b1, s1) := engAccess (holdFor it) rows s0
              let cs := gradContribs (b0 ++ b1) s x l
              let inv := ((List.range l.n).filter fun k => (rowOf x.t x.p (listAt s l.idx 8 k)).isNone).length
              let s2 := bumpBy (aHS 3) inv s1
              match mergeAll tab cs s2 with
              | none => some (endItem it sNORES 0 [] (setHstep tab (fun h => { h with overflow := true }) s2))
              | some s3 =>
                some (endItem it (if cs.any (·.2.2) then sPOISONED else sOK)
                  (((cs.map (·.1)).dedup).length * 2 ^ 32 + cs.length) [] s3)

/-- HS_ROWGRAD (R312): entries of ROW and DIM binary32 elements, padded to 8 B. -/
def serveRowGrad (it : Item) (s : State) : Option State :=
  let h := hstep s it.off
  let st := field it.payload 0 4
  let cnt := field it.payload 4 2
  let x := h.tables
  let c := if h.taken then regionsCheck s it (x.regions (globalOf s it.off) false true) else sOK
  let entry (o : Nat) : Nat × Nat :=
    let r := field it.payload o 8
    (r, if bit r 63 then (match x.p with | some q => q.dim | none => 0) else x.t.dim)
  let rec go : Nat → Nat → List (Nat × Nat × Nat)
    | 0, _ => []
    | n + 1, o => let (r, d) := entry o; (o, r, d) :: go n (o + 8 + (4 * d + 7) / 8 * 8)
  let es := go cnt 8
  let top := match es.getLast? with | some (o, _, d) => o + 8 + (4 * d + 7) / 8 * 8 | none => 8
  let okRow (e : Nat × Nat × Nat) : Bool :=
    if bit e.2.1 63 then (match x.p with | some q => decide (e.2.1 % 2 ^ 63 < q.rows) | none => false)
    else decide (e.2.1 < x.t.rows)
  if c ≠ sOK then some (endCheck it c s)
  else match stepTag s it.off st with
  | some a => if a = sRETRY then engRetry it s else some (endItem it a 0 [] s)
  | none =>
    if it.payload.length ≠ top ∨ field it.payload 6 2 ≠ 0 ∨ !es.all okRow then
      some (endItem it sBAD 0 [] s)
    else
      let cs := es.map fun e =>
        ((if bit e.2.1 63 then 2 * (e.2.1 % 2 ^ 63) + 1 else 2 * e.2.1),
          (List.range e.2.2).map (fun i => roundP 30 (fmtDecode 9 (field it.payload (e.1 + 8 + 4 * i) 4))), false)
      match mergeAll it.off cs s with
      | none => some (endItem it sNORES 0 [] (setHstep it.off (fun h => { h with overflow := true }) s))
      | some s1 => some (endItem it sOK 0 [] s1)

/-- HS_STEP OPEN (R315). -/
def serveStepOpen (it : Item) (s : State) : Option State :=
  let stop (st : Nat) : Option State := some (endItem it st 0 [] s)
  match readTables it 0 (globalOf s it.off) s with
  | some o => o
  | none =>
    let x := tablesOf (it.descs.getD 0 []) (it.descs.getD 1 [])
    let c := regionsCheck s it (x.regions (globalOf s it.off) false true)
    if !x.ok || x.t.scaled || field it.payload 4 2 = 0 then stop sBAD
    else if c ≠ sOK then some (endCheck it c s)
    else if (hstep s it.off).taken then stop sBAD
    else if 64 ≤ s.eng.steps.length then stop sNORES
    else
      let st := field it.payload 0 4
      some (endItem it sOK st [] (setHstep it.off (fun _ =>
        { taken := true, part := it.part, step := st, n := field it.payload 4 2, desc := x.d, pdesc := x.pd }) s))

/-- The open step ends without an update: step n + 1 opens with the same N. -/
def nextStep (tab : Nat) (s : State) : State :=
  setHstep tab (fun h => { h with
    step := (h.step + 1) % 2 ^ 32, done := 0, rows := [], spillUsed := 0, overflow := false, poisoned := false,
    closing := none, failed := none, applied := 0 }) s

/-- HS_STEP DONE, ABANDON and END (R317, R318). A DONE that closes its step reads what the close reads (R304). -/
def serveStepOther (it : Item) (s : State) : Option State :=
  let h := hstep s it.off
  let tag := if it.param = 3 then (if !h.taken then some sABORTED else if h.closing.isSome then some sRETRY else none)
    else stepTag s it.off (field it.payload 0 4)
  let closes := it.param = 1 && decide (h.n ≤ h.done + 1)
  let c := if h.taken then regionsCheck s it (h.tables.regions (globalOf s it.off) closes true) else sOK
  if h.closing = some it.id then none
  else if c ≠ sOK then some (endCheck it c s)
  else match tag with
  | some st => if st = sRETRY then engRetry it s else some (endItem it st 0 [] s)
  | none => match it.param with
    | 1 =>
      if h.done + 1 < h.n then
        some (endItem it sOK (h.done + 1) [] (setHstep it.off (fun h => { h with done := h.done + 1 }) s))
      else
        some (engInterim it (setHstep it.off (fun h => { h with done := h.done + 1, closing := some it.id }) s))
    | 2 => some (endItem it sOK 0 [] (nextStep it.off (bump (aHS 7) s)))
    | _ => some (endItem it sOK 0 [] ((bump (aHS 7) s).onEng fun e => { e with steps := kput {} e.steps it.off {} }))

/-! ### Optimizers (Table 11.5) -/

/-- One operation in binary32, rounded to nearest; a free value where the spec states no result. -/
def f32 (s : State) (k : Nat) (v : VRes) : Nat := (vresRound 9 (rndAt s 0 k) [] v).1
def f32Add (a b : Nat) : Nat := (fmtRound 9 {} (FV.add (fmtDecode 9 a) (fmtDecode 9 b)) false).1
def f32Sub (a b : Nat) : Nat := (fmtRound 9 {} (FV.add (fmtDecode 9 a) (FV.neg (fmtDecode 9 b))) false).1
def f32Mul (a b : Nat) : Nat := (fmtRound 9 {} (FV.mul (fmtDecode 9 a) (fmtDecode 9 b)) false).1
def f32Div (s : State) (k a b : Nat) : Nat := f32 s k (divF (fmtDecode 9 a) (fmtDecode 9 b))
def f32Sqrt (s : State) (k a : Nat) : Nat := f32 s k (sqrtF (fmtDecode 9 a))
def f32One : Nat := 0x3F800000

/-- A power, kept to 400 bits and rounded once. -/
def powF : Nat → FV → Nat → FV
  | 0, _, _ => .fin false 1 0
  | fuel + 1, b, n =>
    let cut (v : FV) : FV := match v with
      | .fin g m e => if bitLen m ≤ 400 then v else .fin g (m / 2 ^ (bitLen m - 400)) (e + (bitLen m - 400 : Nat))
      | _ => v
    if n = 0 then .fin false 1 0
    else
      let h := powF fuel (cut (FV.mul b b)) (n / 2)
      if n % 2 = 1 then cut (FV.mul h b) else h

/-- A sum of binary32 numbers in an order that the free values choose (log entry 15). -/
def sumAny (fr : Nat → Nat) : Nat → Nat → List Nat → Nat
  | 0, _, l => l.headD 0
  | n + 1, k, l =>
    match l with
    | [] => 0
    | [a] => a
    | _ =>
      let i := fr k % l.length
      let l1 := l.eraseIdx i
      let j := fr (k + 1) % l1.length
      sumAny fr n (k + 2) (f32Add (l.getD i 0) (l1.getD j 0) :: l1.eraseIdx j)

/-- The update of one row (Table 11.5): the row's new bytes and its state's writes. -/
def optimize (s : State) (t : TDesc) (step r : Nat) (g : List Nat) : List (Nat × List Byte) :=
  let w := (rowVals s t r).map fun v => (fmtRound 9 {} v false).1
  let o := t.stateAt r
  let b := fmtBits t.el / 8
  let row (ws : List Nat) : Nat × List Byte :=
    (t.row r, ws.zipIdx.flatMap fun (x : Nat × Nat) =>
      leBytes b (fmtRound t.el (rndAt s t.rnd (4 * x.2 + 3)) (fmtDecode 9 x.1) false).1)
  match t.opt with
  | 0 => [row (List.zipWith (fun w g => f32Sub w (f32Mul t.lr g)) w g)]
  | 3 => [row (List.zipWith (fun w g => f32Add w (f32Mul t.lr g)) w g)]
  | 1 =>
    let sq := g.map fun x => f32Mul x x
    let fr (k : Nat) : Nat := (Config.freeWord (s.free + 4 * t.dim + k)).toNat
    let mean := f32Div s 0 (sumAny fr sq.length 0 sq) (fmtRound 9 {} (.fin false t.dim 0) false).1
    let st := f32Add (readNat s o 4) mean
    let den := f32Add (f32Sqrt s 1 st) t.eps
    [row ((List.zip w g).zipIdx.map fun (x : (Nat × Nat) × Nat) =>
      f32Sub x.1.1 (f32Div s (4 * x.2 + 2) (f32Mul t.lr x.1.2) den)), (o, leBytes 4 st)]
  | _ =>
    let c1 := f32Sub f32One (fmtRound 9 {} (powF 33 (fmtDecode 9 t.b1) (step + 1)) false).1
    let c2 := f32Sub f32One (fmtRound 9 {} (powF 33 (fmtDecode 9 t.b2) (step + 1)) false).1
    let res := (List.zip w g).zipIdx.map fun (x : (Nat × Nat) × Nat) =>
      let k := 4 * x.2
      let m := f32Add (f32Mul t.b1 (readNat s (o + 8 * x.2) 4)) (f32Mul (f32Sub f32One t.b1) x.1.2)
      let v := f32Add (f32Mul t.b2 (readNat s (o + 8 * x.2 + 4) 4)) (f32Mul (f32Sub f32One t.b2) (f32Mul x.1.2 x.1.2))
      let den := f32Add (f32Sqrt s k (f32Div s (k + 1) v c2)) t.eps
      (f32Sub x.1.1 (f32Mul t.lr (f32Div s (k + 2) (f32Div s k m c1) den)), leBytes 4 m ++ leBytes 4 v)
    [row (res.map (·.1)), (o, res.flatMap (·.2))]

/-- Update the rows of a closing step, one after another, as long as their lines are ready (R303, R317). A row that cannot be written fails the close: rows updated stand, and the rest is cancelled (R308). -/
def closeRows : Nat → Nat → State → State
  | 0, _, s => s
  | fuel + 1, tab, s =>
    let h := hstep s tab
    match h.rows with
    | [] => s
    | (key, r) :: rest =>
      let x := h.tables
      let t := if key % 2 = 0 then x.t else x.p.getD x.t
      let row := key / 2
      let sl := linesOf (t.stateAt row) (if t.opt = 1 then 4 else if t.opt = 2 then 8 * t.dim else 0)
      let lines := t.rowLines row ++ sl
      let w : SetWrite := { op := 0x12, item := h.closing }
      let fail (st : Nat) (s : State) : State := setHstep tab (fun h => { h with failed := some st, rows := [] }) s
      match engReady w lines lines s with
      | .wait o => o.getD s
      | .bad st s' => fail st s'
      | .ready =>
        let (bad, s1) := engAccess w lines s
        let drop (s : State) : State := setHstep tab (fun h => { h with rows := rest }) s
        if r.poison || !bad.isEmpty then
          closeRows fuel tab (drop (setHstep tab (fun h => { h with poisoned := true })
            ((t.rowLines row).foldl (fun s l => poisonLine l none false s) s1)))
        else
          let all := r.spilt ++ (if r.sums.isEmpty then [] else [r.sums])
          let g := (List.range t.dim).map fun e =>
            (fmtRound 9 {} ((all.map fun p => p.getD e {}).foldl (Pair.join 30) {}).value false).1
          let ws := optimize s1 t h.step row g
          let (a, fw, s2) := engPut h.part w ws { s1 with free := s1.free + 8 * t.dim }
          let s3 := match h.closing with
            | some id => addForwards id fw s2
            | none => s2
          if a ≠ 0 then fail a s1
          else closeRows fuel tab (drop (setHstep tab (fun h => { h with applied := h.applied + 1 }) (bump (aHS 8) s3)))

/-- The closing DONE's item. -/
def closingItem (s : State) (tab : Nat) : Option Item :=
  (hstep s tab).closing.bind fun id => s.home.waitq.find? fun x => x.id = id

/-- The close of a step runs (R317, R318). -/
def closeStep (tab : Nat) (s : State) : State :=
  match closingItem s tab with
  | none => s
  | some _ =>
    let h := hstep s tab
    if h.overflow then
      match closingItem s tab with
      | some it => endItem it sNORES 0 [] (nextStep tab (bump (aHS 7) s))
      | none => s
    else
      let s1 := closeRows h.rows.length tab s
      let h1 := hstep s1 tab
      match closingItem s1 tab, h1.rows with
      | some it, [] =>
        let st := h1.failed.getD (if h1.poisoned then sPOISONED else sOK)
        let s2 := bump (aHS (if st = sOK then 6 else 7)) (nextStep tab s1)
        endWrite it [] st (if h1.failed.isSome then 0 else h1.applied) [] s2
      | _, _ => s1

/-- Abandon the open step of a table (R319): a close under way is answered INTERNAL_FAULT. -/
def abandonStep (tab : Nat) (s : State) : State :=
  let h := hstep s tab
  let s1 := match closingItem s tab with
    | some it => endItem it sFAULT h.applied [] s
    | none => s
  nextStep tab (bump (aHS 7) s1)

/-- Release a step slot (END, HS_STEP_RELEASE). -/
def releaseStep (tab : Nat) (s : State) : State :=
  (bump (aHS 7) s).onEng fun e => { e with steps := kput {} e.steps tab {} }

/-! ### Hot sets (R311) -/

/-- Rows that fit, in list order, 4 MiB to each slice beside what other slots' hot rows take there. -/
def hotFit (others : Nat → Nat) (t : TDesc) : List Nat → List Nat → List Nat
  | [], acc => acc
  | r :: rs, acc =>
    let o := t.row r
    let n := 64 * (t.rowLines r).length
    let used := ((acc.filter fun x => homeBay x = homeBay o).length) * n
    if acc.contains o ∨ 4 * 2 ^ 20 < others (homeBay o) + used + n then hotFit others t rs acc
    else hotFit others t rs (acc ++ [o])

/-- A refresh of a hot slot: a list that fails a check or is poisoned leaves the old set in place. -/
def refreshHot (h : Nat) (s : State) : State :=
  let tab := cfg s (0x090200 + 4 * h) 63 6 * 64
  let lst := cfg s (0x090201 + 4 * h) 63 6 * 64
  let n := cfg s (0x090202 + 4 * h) 20 0
  let done (s : State) : State := s.onEng fun e => { e with hotAt := kput 0 e.hotAt h (now s) }
  let fail (s : State) : State := event { cls := 10, code := 3, kind := kNone, unit := h } (done s)
  let prt := (extent s (extentOf (tab % 2 ^ 50))).part
  let okAt (a len : Nat) : Bool := a / 2 ^ 50 = homeIndex s
    && (List.range ((a % 2 ^ 50 + len - 1) / 2 ^ 28 + 1 - a % 2 ^ 50 / 2 ^ 28)).all fun i =>
        decide (ownCheck s prt (a % 2 ^ 50 + i * 2 ^ 28) = sOK)
  let off := tab % 2 ^ 50
  let ll := tableLines s off ++ listLines lst 8 n
  if !okAt tab 128 || !okAt lst (max 1 (8 * n)) then fail s
  else match engReady noWrite ll [] s with
  | .wait o => o.getD s
  | .bad _ _ => fail s
  | .ready =>
    let t := tdesc (readBytes s off 128)
    let rows := (List.range n).map fun i => readNat s (lst % 2 ^ 50 + 8 * i) 8
    if ll.any (lineBad s) || !tdescOk (readBytes s off 128) || !okAt t.base (t.rows * t.stride)
        || rows.any (fun r => decide (t.rows ≤ r)) then fail s
    else
      let rest := ((s.eng.hotSets.filter fun x => decide (x.1 ≠ h)).flatMap (·.2)).dedup
      let others (b : Nat) : Nat :=
        ((s.eng.rowBuf.filter fun x => homeBay x.1 = b && rest.contains x.1).map fun x => x.2.2).sum
      let fit := hotFit others t rows []
      let ls := (fit.flatMap fun o => linesOf o t.rowBytes).dedup
      match engReady { noWrite with hold := true } ls [] s with
      | .wait o => o.getD s
      | .bad _ _ => fail s
      | .ready =>
        let (_, s1) := engAccess { noWrite with hold := true } ls (engAccess noWrite ll s).2
        let s2 := s1.onEng fun e => { e with
          hotSets := kput [] e.hotSets h fit,
          hotShort := kput false e.hotShort h (decide (fit.length < rows.dedup.length)) }
        let s3 := fit.foldl (fun s o => bufHold o (64 * (linesOf o t.rowBytes).length) s) s2
        bump (aHS 9) (done s3)

/-- The Hoist requests by opcode and PARAM. -/
def serveHoist (it : Item) (s : State) : Option State :=
  match it.op with
  | 0x64 => serveLookup it s
  | 0x65 => serveGrad it s
  | 0x66 => serveRowGrad it s
  | _ => if it.param = 0 then serveStepOpen it s else serveStepOther it s

end Sys2Proof.Machine
end

