-- ==== Sys2Proof/Machine/BolterOps.lean ====
section
/-! DEFINITION. The Bolter: indexes, distances, searches, inserts, deletes and merges (R323-R349). -/

namespace Sys2Proof.Machine

/-! ### Index descriptors (Table 12.1) -/

structure IDesc where
  graph : Nat
  code : Nat
  vec : Nat
  book : Nat
  side : Nat
  cap : Nat
  sideCap : Nat
  dim : Nat
  fmt : Nat
  metric : Nat
  pq : Nat
  deg : Nat
  vlog : Nat
  next : Nat
  vis : Nat
  mseq : Nat
  nodes : Nat
  entry : Nat

def noSlot : Nat := 0xFFFFFFFF

def idesc (d : List Byte) : IDesc :=
  { graph := field d 0 8, code := field d 8 8, vec := field d 16 8, book := field d 24 8, side := field d 32 8,
    cap := field d 40 4, sideCap := field d 44 4, dim := field d 48 2, fmt := field d 50 1, metric := field d 51 1,
    pq := field d 52 1, deg := field d 53 1, vlog := field d 54 1, next := field d 64 4, vis := field d 68 4,
    mseq := field d 72 4, nodes := field d 76 4, entry := field d 80 4 }

def IDesc.elBytes (i : IDesc) : Nat := fmtBits i.fmt / 8
def IDesc.stride (i : IDesc) : Nat := 64 * 2 ^ i.vlog
/-- Bytes of a node record (R324). -/
def IDesc.rec' (i : IDesc) : Nat := if i.deg ≤ 12 then 64 else if i.deg ≤ 28 then 128 else 256
def IDesc.sub (i : IDesc) : Nat := i.dim / i.pq
def IDesc.nodeAt (i : IDesc) (n : Nat) : Nat := i.graph % 2 ^ 50 + n * i.rec'
def IDesc.codeAt (i : IDesc) (n : Nat) : Nat := i.code % 2 ^ 50 + n * i.pq
def IDesc.vecAt (i : IDesc) (n : Nat) : Nat := i.vec % 2 ^ 50 + n * i.stride
def IDesc.sideAt (i : IDesc) (x : Nat) : Nat := i.side % 2 ^ 50 + 16 * (x % i.sideCap)

def idescOk (d : List Byte) : Bool :=
  let i := idesc d
  decide (i.graph % 65536 = 0) && decide (i.code % 65536 = 0) && decide (i.vec % 65536 = 0)
  && decide (i.book % 64 = 0) && decide (i.side % 64 = 0) && within i.cap 1 0xFFFFFFFE
  && [1024, 2048, 4096, 8192, 16384, 32768, 65536].contains i.sideCap && within i.dim 8 1024
  && [4, 6, 7, 8, 9].contains i.fmt && decide (i.metric ≤ 2) && [8, 16, 32, 64, 128].contains i.pq
  && decide (i.dim % i.pq = 0) && within i.deg 8 60 && decide (i.vlog ≤ 6)
  && decide (i.dim * i.elBytes ≤ i.stride) && decide (field d 55 9 = 0) && decide (field d 84 44 = 0)

/-- The regions of an index (R325, R331). -/
def IDesc.regions (i : IDesc) (addr : Nat) (write : Bool) : List (Nat × Nat × Bool) :=
  [(addr, 128, write), (i.graph, i.cap * i.rec', write), (i.code, i.cap * i.pq, write), (i.vec, i.cap * i.stride, write),
   (i.book, i.dim * 1024, write), (i.side, i.sideCap * 16, write)]
  ++ (if write then [(addr, 128, false), (i.graph, i.cap * i.rec', false), (i.book, i.dim * 1024, false)] else [])

/-! ### Node records (Table 12.2) -/

structure Node where
  flags : Nat
  count : Nat
  addSeq : Nat
  delSeq : Nat
  attr : Nat
  nbr : List Nat

def nodeRec (s : State) (i : IDesc) (n : Nat) : Node :=
  let d := readBytes s (i.nodeAt n) i.rec'
  { flags := field d 0 1, count := field d 1 1, addSeq := field d 4 4, delSeq := field d 8 4, attr := field d 12 4,
    nbr := (List.range (min (field d 1 1) i.deg)).map fun k => field d (16 + 4 * k) 4 }

def nodeBytes (i : IDesc) (n : Node) : List Byte :=
  let b := leBytes 1 n.flags ++ leBytes 1 n.nbr.length ++ [0, 0] ++ leBytes 4 n.addSeq ++ leBytes 4 n.delSeq
    ++ leBytes 4 n.attr ++ n.nbr.flatMap (leBytes 4)
    ++ (List.replicate (i.deg - n.nbr.length) noSlot).flatMap (leBytes 4)
  b ++ List.replicate (i.rec' - b.length) 0

def nodeLines (i : IDesc) (n : Nat) : List Nat := linesOf (i.nodeAt n) i.rec'
def codeLines (i : IDesc) (n : Nat) : List Nat := linesOf (i.codeAt n) i.pq
def vecLines (i : IDesc) (n : Nat) : List Nat := linesOf (i.vecAt n) (i.dim * i.elBytes)

/-- Present, alive (R329). -/
def present (n : Node) (st : Nat) : Bool := !bit n.flags 3 && (!bit n.flags 0 || precedes n.addSeq st)
def alive (n : Node) (st : Nat) : Bool := !bit n.flags 2 && (!bit n.flags 1 || !precedes n.delSeq st)

/-- The filter of a query (Table 12.4). -/
def filterOk (fmode mask attr : Nat) : Bool :=
  match fmode with
  | 0 => true
  | 1 => decide (attr &&& mask = mask)
  | 2 => decide (attr &&& mask ≠ 0)
  | _ => decide (attr &&& mask = 0)

/-! ### Distances (R326, R327) -/

def vecOf (s : State) (i : IDesc) (n : Nat) : List FV :=
  (List.range i.dim).map fun k => fmtDecode i.fmt (readNat s (i.vecAt n + i.elBytes * k) i.elBytes)

def b64 (v : FV) : FV := roundP 53 v
def toF32 (v : FV) : Nat := (fmtRound 9 {} v false).1

/-- Centroid `c` of subspace `j`. -/
def centroid (s : State) (i : IDesc) (j c : Nat) : List FV :=
  (List.range i.sub).map fun k => fmtDecode 9 (readNat s (i.book % 2 ^ 50 + 4 * (i.sub * (256 * j + c) + k)) 4)

/-- Σ (a − b)² in binary64, in ascending order. -/
def sqDist64 (a b : List FV) : FV :=
  (a.zip b).foldl (fun r x => let d := b64 (FV.add x.1 (FV.neg x.2)); b64 (FV.add r (b64 (FV.mul d d)))) FV.zero
def dot64 (a b : List FV) : FV := (a.zip b).foldl (fun r x => b64 (FV.add r (b64 (FV.mul x.1 x.2)))) FV.zero

/-- The code distance of a node: the entries of the distance table its code names, added in binary64 and rounded once. -/
def codeDist (s : State) (i : IDesc) (q : List FV) (n : Nat) : Nat :=
  toF32 ((List.range i.pq).foldl (fun r j =>
    let c := (readByte s (i.codeAt n + j)).toNat
    let qs := (q.drop (j * i.sub)).take i.sub
    let cs := centroid s i j c
    let e := if i.metric = 0 then sqDist64 qs cs else FV.neg (dot64 qs cs)
    b64 (FV.add r (fmtDecode 9 (toF32 e)))) FV.zero)

/-- A sum of terms in compensated pairs with u = 2^-30. -/
def pairSum (xs : List FV) : FV := (xs.foldl (Pair.add 30) ({} : Pair)).value

/-- The full distance (R326), rounded once to binary32. -/
def fullDist (metric : Nat) (q x : List FV) : Nat :=
  match metric with
  | 0 => toF32 (pairSum ((q.zip x).map fun p => let d := FV.add p.1 (FV.neg p.2); FV.mul d d))
  | 1 => toF32 (FV.neg (pairSum ((q.zip x).map fun p => FV.mul p.1 p.2)))
  | _ =>
    let xx := pairSum (x.map fun v => FV.mul v v)
    let open_ := (Config.freeDistance (q.map toF32) (x.map toF32)).toNat
    if xx.isZero then f32One
    else
      let qq := pairSum (q.map fun v => FV.mul v v)
      let d := pairSum ((q.zip x).map fun p => FV.mul p.1 p.2)
      match sqrtF (FV.mul qq xx) with
      | .val n _ => (match divF d n with
          | .val r _ => toF32 (FV.add (.fin false 1 0) (FV.neg r))
          | .open_ => open_)
      | .open_ => open_

/-- The order of distances: binary32 codes by value; a NaN comes last. -/
def distKey (w : Nat) : Int := if 2 ^ 31 ≤ w then -((w - 2 ^ 31 : Nat) : Int) else w

/-- A query under COS divided by its norm, each element rounded to binary32 (log entry 16); none for a norm of 0. -/
def normalize (metric : Nat) (q : List FV) : Option (List FV) :=
  if metric ≠ 2 then some q
  else
    let qq := pairSum (q.map fun v => FV.mul v v)
    if qq.isZero then none
    else match sqrtF qq with
      | .val n _ => some (q.map fun v => match divF v n with
          | .val r _ => fmtDecode 9 (toF32 r)
          | .open_ => fmtDecode 9 (Config.freeDistance (q.map toF32) [toF32 v]).toNat)
      | .open_ => some q

/-- The centroid of least distance, the lower one of equals (R327). -/
def encodeSub (s : State) (i : IDesc) (j : Nat) (xs : List FV) : Nat :=
  ((List.range 256).foldl (fun (r : Option (Nat × FV)) c =>
    let d := sqDist64 xs (centroid s i j c)
    match r with
    | none => some (c, d)
    | some (_, e) => if FV.lt d e then some (c, d) else r) none).map (·.1) |>.getD 0

def encodeVec (s : State) (i : IDesc) (x : List FV) : List Byte :=
  (List.range i.pq).map fun j => BitVec.ofNat 8 (encodeSub s i j ((x.drop (j * i.sub)).take i.sub))

/-! ### Query descriptors (Table 12.4) -/

structure QDesc where
  index : Nat
  qvec : Nat
  out : Nat
  k : Nat
  width : Nat
  fmode : Nat
  beam : Nat
  rerank : Nat
  budget : Nat
  fmask : Nat
  exh : Bool
  first : Nat
  span : Nat

def qdesc (d : List Byte) : QDesc :=
  { index := field d 0 8, qvec := field d 8 8, out := field d 16 8, k := field d 24 2, width := field d 26 1,
    fmode := field d 27 1, beam := field d 28 2, rerank := field d 30 2, budget := field d 32 4, fmask := field d 36 4,
    exh := bit (field d 41 1) 0, first := field d 44 4, span := field d 48 4 }

def qdescOk' (d : List Byte) : Bool :=
  let q := qdesc d
  decide (q.index % 64 = 0) && decide (q.qvec % 64 = 0) && decide (q.out % 64 = 0) && within q.k 1 1024
  && decide (q.fmode ≤ 3) && decide (field d 41 1 ≤ 1) && decide (field d 42 2 = 0) && decide (field d 52 12 = 0)
  && (if q.exh then within q.span 1 1048576
      else within q.width 1 16 && within q.beam q.k 4096 && within q.rerank q.k q.beam && within q.budget 1 1000000
        && decide (field d 40 1 ≤ 32) && decide (q.first = 0) && decide (q.span = 0))

/-! ### The search procedure (R333) -/

structure Cand where
  slot : Nat
  dist : Nat
  expanded : Bool := false
  pass : Bool := false

/-- What a search reads and finds. -/
structure SRun where
  cand : List Cand := []
  seen : List Nat := []
  lines : List Nat := []
  expanded : Nat := 0
  dists : Nat := 0
  poison : Bool := false
  cut : Bool := false

/-- Parameters of a run: how a slot is scored, its lines, the stamp and the filter. -/
structure SPar where
  i : IDesc
  stamp : Nat
  k : Nat
  beam : Nat
  width : Nat
  budget : Nat
  fmode : Nat
  fmask : Nat
  score : Nat → Nat
  sLines : Nat → List Nat
  ready : Nat → Bool
  cutOn : Bool

def candBefore (a b : Cand) : Bool :=
  decide (distKey a.dist < distKey b.dist) || (decide (distKey a.dist = distKey b.dist) && decide (a.slot < b.slot))

/-- Insert in order. -/
def candInsert (c : Cand) : List Cand → List Cand
  | [] => [c]
  | x :: r => if candBefore c x then c :: x :: r else x :: candInsert c r

/-- Score a slot once: skipped when it is not present, out of the index, or poisoned (R333, R345). -/
def scoreSlot (s : State) (p : SPar) (n : Nat) (r : SRun) : SRun :=
  if r.seen.contains n || decide (p.i.cap ≤ n) then r
  else
    let nl := nodeLines p.i n
    let r1 := { r with seen := n :: r.seen, lines := r.lines ++ nl }
    if nl.any (lineBad s) then { r1 with poison := true }
    else
      let nd := nodeRec s p.i n
      if !present nd p.stamp then r1
      else
        let cl := p.sLines n
        let r2 := { r1 with lines := r1.lines ++ cl, dists := r1.dists + b2n (!cl.any (lineBad s)) }
        if cl.any (lineBad s) then { r2 with poison := true }
        else
          let c : Cand := { slot := n, dist := p.score n, pass := alive nd p.stamp && filterOk p.fmode p.fmask nd.attr }
          if r2.cand.length < 65536 then { r2 with cand := candInsert c r2.cand }
          else match r2.cand.getLast? with
            | some w => if w.expanded then r2 else { r2 with cand := candInsert c r2.cand.dropLast }
            | none => r2

/-- Expand a node: its neighbours are scored. -/
def expandNode (s : State) (p : SPar) (n : Nat) (r : SRun) : SRun :=
  let r1 := { r with cand := r.cand.map (fun c => if c.slot = n then { c with expanded := true } else c),
                     expanded := r.expanded + 1 }
  ((nodeRec s p.i n).nbr.filter fun m => decide (m ≠ noSlot)).foldl (fun r m => scoreSlot s p m r) r1

/-- Lines an expansion may need. -/
def expandLines (s : State) (p : SPar) (n : Nat) : List Nat :=
  nodeLines p.i n ++ (nodeRec s p.i n).nbr.flatMap fun m => if m = noSlot then [] else nodeLines p.i m ++ p.sLines m

/-- The rounds of a search. -/
def searchRounds (s : State) (p : SPar) : Nat → SRun → SRun
  | 0, r => r
  | fuel + 1, r =>
    if p.budget ≤ r.expanded then r
    else
      let inBeam := ((r.cand.take p.beam).filter fun c => !c.expanded).take p.width
      let pick :=
        if !inBeam.isEmpty then inBeam
        else if p.k ≤ (r.cand.filter (·.pass)).length then []
        else ((r.cand.filter fun c => !c.expanded).take p.width)
      if pick.isEmpty then r
      else if p.cutOn && (pick.flatMap fun c => expandLines s p c.slot).any (fun l => !p.ready l) then { r with cut := true }
      else searchRounds s p fuel (pick.foldl (fun r c => expandNode s p c.slot r) r)

/-- Entry and unlinked inserts first (R333). -/
def searchStart (s : State) (p : SPar) (mseq : Nat) : SRun :=
  let r0 : SRun := if p.i.entry = noSlot then {} else scoreSlot s p p.i.entry {}
  let cnt := serialDist mseq p.stamp
  (List.range (min cnt p.i.sideCap)).foldl (fun r x =>
    let a := p.i.sideAt ((mseq + x) % 2 ^ 32)
    let r1 := { r with lines := r.lines ++ [a / 64] }
    if lineBad s (a / 64) then { r1 with poison := true }
    else if readNat s (a + 4) 1 = 1 then scoreSlot s p (readNat s (a + 8) 4) r1 else r1) r0

/-- A line an engine could read at once. -/
def lineFree (s : State) (l : Nat) : Bool :=
  (lineReadable s l || pageUnusable s (l / 1024)) && !lineBusy s l && decide ((dirEnt s l).st ≠ .x)

/-- What a search finds: the lines it reads, its results in order, and its counts. -/
structure SFound where
  lines : List Nat
  res : List (Nat × Nat)
  expansions : Nat
  codes : Nat
  fulls : Nat
  poison : Bool
  cut : Bool

/-- Full distances of some slots, the poisoned ones skipped. -/
def fullOf (s : State) (i : IDesc) (q : List FV) (slots : List Nat) : List (Nat × Nat) × Bool :=
  slots.foldl (fun r n =>
    if (vecLines i n).any (lineBad s) then (r.1, true)
    else (r.1 ++ [(n, fullDist i.metric q (vecOf s i n))], r.2)) ([], false)

def bestK (k : Nat) (l : List (Nat × Nat)) : List (Nat × Nat) :=
  (((l.foldl (fun r x => candInsert { slot := x.1, dist := x.2 } r) []).take k).map fun c => (c.slot, c.dist))

/-- A graph search (R333, R335, R336). -/
def runSearch (s : State) (i : IDesc) (q : QDesc) (raw nq : List FV) (st : SearchSt) : SFound :=
  let p : SPar := {
    i := i, stamp := st.stamp, k := q.k, beam := q.beam, width := q.width, budget := q.budget, fmode := q.fmode,
    fmask := q.fmask, score := codeDist s i nq,
    sLines := fun n => codeLines i n ++ (List.range i.pq).flatMap fun j =>
      linesOf (i.book % 2 ^ 50 + 4 * i.sub * (256 * j + (readByte s (i.codeAt n + j)).toNat)) (4 * i.sub),
    ready := lineFree s, cutOn := st.cut }
  let r := searchRounds s p (q.budget + 1) (searchStart s p st.mseq)
  let top := ((r.cand.filter (·.pass)).take q.rerank).map (·.slot)
  let (f, bad) := fullOf s i raw top
  { lines := r.lines ++ top.flatMap (vecLines i), res := bestK q.k f, expansions := r.expanded, codes := r.dists,
    fulls := f.length, poison := r.poison || bad, cut := r.cut }

/-- An exhaustive search (R337). -/
def runExhaustive (s : State) (i : IDesc) (q : QDesc) (raw : List FV) (st : SearchSt) : SFound :=
  let slots := (List.range (min q.span (i.nodes - q.first))).map fun n => q.first + n
  let badN := slots.any fun n => (nodeLines i n).any (lineBad s)
  let pass := slots.filter fun n => !(nodeLines i n).any (lineBad s)
    && (let nd := nodeRec s i n; present nd st.stamp && alive nd st.stamp && filterOk q.fmode q.fmask nd.attr)
  let (f, bad) := fullOf s i raw pass
  { lines := slots.flatMap (nodeLines i) ++ pass.flatMap (vecLines i), res := bestK q.k f, expansions := f.length,
    codes := 0, fulls := f.length, poison := badN || bad, cut := false }

/-! ### Slices and indexes in use (R330, R332, R334) -/

def bolterUp (s : State) (b : Nat) : Bool := kget .off s.eng.bolters b = .serving && !bayMapped s b

/-- Searches and merges a slice coordinates. -/
def coordCount (s : State) (b : Nat) : Nat :=
  (s.home.waitq.filter fun x => match x.search with | some t => decide (t.coord = b ∧ x.op = 0x68) | none => false).length

/-- The coordinator of a new search: the slice in service with the fewest, the lowest bay of equals. -/
def pickCoord (s : State) : Nat :=
  ((List.range 16).foldl (fun r b => if bolterUp s b then (match r with
    | none => some b
    | some c => if coordCount s b < coordCount s c then some b else some c) else r) none).getD 0

/-- Indexes with invocations in progress, and the items of one. -/
def activeIndexes (s : State) : List Nat :=
  (s.home.waitq.filterMap fun x => if within x.op 0x68 0x6B then x.search.map (·.index) else none).dedup
def indexItems (s : State) (ix : Nat) (ops : Nat → Bool) : List Item :=
  s.home.waitq.filter fun x => ops x.op && (match x.search with | some t => decide (t.index = ix) | none => false)

/-- The merge horizon (R330): the least stamp of a search in progress, or VISIBLE. -/
def horizon (s : State) (ix vis : Nat) : Nat :=
  ((indexItems s ix (· = 0x68)).filterMap (·.search)).foldl (fun h t => if precedes t.stamp h then t.stamp else h) vis

/-- The least MERGE_SEQ that a search in progress read (R338). -/
def leastMseq (s : State) (ix m : Nat) : Nat :=
  ((indexItems s ix (· = 0x68)).filterMap (·.search)).foldl (fun h t => if precedes t.mseq h then t.mseq else h) m

/-- Take an invocation up on an index, once: its limits (R330, R332), its interim response, its stamp. None beyond a limit. -/
def indexEnter (it : Item) (ix : Nat) (i : IDesc) (s : State) : Option State :=
  let act := activeIndexes s
  let full := !act.contains ix && decide (256 ≤ act.length)
  let limit :=
    if it.op = 0x68 then decide (4096 ≤ (s.home.waitq.filter fun x => x.op = 0x68 && x.search.isSome).length)
    else if it.op = 0x6B then !(indexItems s ix (· = 0x6B)).isEmpty
    else decide (64 ≤ (indexItems s ix fun o => o = 0x69 || o = 0x6A).length)
  if full || limit then none
  else
    let st : SearchSt := { index := ix, stamp := i.vis, mseq := i.mseq, coord := pickCoord s }
    let s1 := updateItem it.id (fun x => { x with search := some st }) s
    some (if it.flash then s1 else engInterim it s1)

/-- The stages every Bolter invocation shares: the index descriptor's lines, its rules and its regions, which are checked once (R134). -/
def withIndex (it : Item) (addr : Nat) (write : Bool) (extra : IDesc → List (Nat × Nat × Bool)) (s : State)
    (k : IDesc → Option State) : Option State :=
  let c0 := if it.search.isSome then sOK else regionCheck s it addr 128 false
  let off := addr % 2 ^ 50
  if c0 ≠ sOK then some (endCheck it c0 s)
  else match engReady (readFor it) (linesOf off 128) [] s with
  | .wait o => o
  | .bad st s' => some (endItem it st 0 [] s')
  | .ready =>
    let d := readBytes s off 128
    let i := idesc d
    if (linesOf off 128).any (lineBad s) then some (endItem it sPOISONED 0 [] s)
    else if addr % 64 ≠ 0 || !idescOk d then some (endItem it sBAD 0 [] s)
    else
      let c := if it.search.isSome then sOK else regionsCheck s it (i.regions addr write ++ extra i)
      if c ≠ sOK then some (endCheck it c s) else k i

/-- Statistics of a finished search (Table 12.10). -/
def searchStats (f : SFound) (exh short : Bool) (s : State) : State :=
  bumpBy (aBL 1) (b2n short) (bumpBy (aBL 2) (b2n f.cut) (bumpBy (aBL 3) f.codes
    (bumpBy (aBL 4) f.fulls (bumpBy (aBL 5) (if exh then 0 else f.expansions) s))))

/-- A search in progress (R329-R337): what it reads made ready, then all of it at once. -/
def runSearchItem (it : Item) (q : QDesc) (i : IDesc) (st : SearchSt) (s : State) : Option State :=
  let ql := linesOf (q.qvec % 2 ^ 50) (4 * i.dim)
  match engReady (readFor it) ql [] s with
  | .wait o => o
  | .bad x s' => some (endItem it x 0 [] s')
  | .ready =>
    let raw := (List.range i.dim).map fun k => fmtDecode 9 (readNat s (q.qvec % 2 ^ 50 + 4 * k) 4)
    if ql.any (lineBad s) then some (endItem it sPOISONED 0 [] s)
    else match normalize i.metric raw with
    | none => some (endItem it sBAD 0 [] s)
    | some nq =>
      let f := if q.exh then runExhaustive s i q raw st else runSearch s i q raw nq st
      let outs := linesOf (q.out % 2 ^ 50) (8 * f.res.length)
      match engReady (holdWrite it 0x12) f.lines.dedup outs s with
      | .wait o => o
      | .bad x s' => some (endItem it x 0 [] s')
      | .ready =>
        let (_, s1) := engAccess (holdFor it) f.lines.dedup (engAccess (readFor it) ql s).2
        let data := f.res.flatMap fun x => leBytes 4 x.1 ++ leBytes 4 x.2
        let (a, fw, s2) := if data.isEmpty then (0, [], s1)
          else engPut it.part (engWrite it 0x12) [(q.out % 2 ^ 50, data)] s1
        if a ≠ 0 then some (endItem it a 0 [] s2)
        else
          let short := decide (f.res.length < q.k)
          let v := st.stamp * 2 ^ 32 + b2n f.cut * 2 ^ 31 + min 1048575 f.expansions * 2 ^ 11 + f.res.length
          some (endWrite it fw (if f.poison then sPOISONED else if short then sSHORT else sOK) v []
            (searchStats f q.exh (short && !f.poison) s2))

/-- BL_SEARCH (R329-R337, R345): its descriptor is read once. -/
def serveSearch (it : Item) (s : State) : Option State :=
  match it.descs with
  | [] => readOnce it it.off 64 s
  | d :: _ =>
    let q := qdesc d
    if !qdescOk' d then some (endItem it sBAD 0 [] s)
    else withIndex it q.index false (fun i => [(q.qvec, 4 * i.dim, false), (q.out, 8 * q.k, true)]) s fun i =>
      match it.search with
      | none => match indexEnter it (q.index % 2 ^ 50) i s with
        | some s1 => some s1
        | none => engRetry it s
      | some st => runSearchItem it q i st s

/-- Line 1 of the descriptor with new values (R330). -/
def line1 (i : IDesc) : List Byte :=
  leBytes 4 i.next ++ leBytes 4 i.vis ++ leBytes 4 i.mseq ++ leBytes 4 i.nodes ++ leBytes 4 i.entry ++ List.replicate 44 0

/-- A side-list entry (Table 12.5). -/
def sideEntry (x kind slot : Nat) : List Byte := leBytes 4 x ++ leBytes 4 kind ++ leBytes 4 slot ++ leBytes 4 0

/-- Side entries, and slots, that mutations admitted on an index and not yet performed will take. -/
def pendingEntries (s : State) (ix : Nat) : Nat :=
  ((indexItems s ix fun o => o = 0x69 || o = 0x6A).map fun x =>
    if x.op = 0x69 then field x.payload 16 2 else field x.payload 0 2).sum
def pendingSlots (s : State) (ix : Nat) : Nat := ((indexItems s ix (· = 0x69)).map fun x => field x.payload 16 2).sum

/-- A mutation would exceed the side list (R338). -/
def sideFull (s : State) (ix : Nat) (i : IDesc) (cnt : Nat) : Bool :=
  decide (i.sideCap < serialDist (leastMseq s ix i.mseq) i.next + pendingEntries s ix + cnt)

/-- One vector of an insert: where it goes, its number, where it and its attribute come from (0: no attribute). -/
structure NewVec where
  slot : Nat
  seq : Nat
  src : Nat
  attrAt : Nat

/-- Lines that a vector of an insert reads, and those it writes beside its node record and side entry. -/
def newReads (i : IDesc) (v : NewVec) : List Nat :=
  linesOf v.src (i.dim * i.elBytes) ++ (if v.attrAt = 0 then [] else linesOf v.attrAt 4)
def newWrites (i : IDesc) (v : NewVec) : List Nat := vecLines i v.slot ++ codeLines i v.slot

def newReady (it : Item) (i : IDesc) (v : NewVec) (s : State) : EngR :=
  engReady (engWrite it 0x12) (newReads i v).dedup (newWrites i v).dedup s

/-- The writes of one vector of an insert, or its failure (R339, R341). -/
def insertOne (it : Item) (i : IDesc) (bookBad : Bool) (v : NewVec) (s : State) : Option Nat × State :=
  let n := i.dim * i.elBytes
  let attr := if v.attrAt = 0 then 0 else readNat s v.attrAt 4
  let bytes := readBytes s v.src n
  let x := (List.range i.dim).map fun k => fmtDecode i.fmt (field bytes (i.elBytes * k) i.elBytes)
  let nd (fl at_ : Nat) : Node := { flags := fl, count := 0, addSeq := v.seq, delSeq := 0, attr := at_, nbr := [] }
  let tail (fl at_ kind : Nat) : List (Nat × List Byte) :=
    [(i.nodeAt v.slot, nodeBytes i (nd fl at_)), (i.sideAt v.seq, sideEntry v.seq kind v.slot),
     (it.off + 64, line1 { i with next := (v.seq + 1) % 2 ^ 32, vis := (v.seq + 1) % 2 ^ 32, nodes := v.slot + 1 })]
  let void (st : Nat) (s : State) : Option Nat × State := (some st, (engPutFor it (engWrite it 0x12) (tail 8 0 0) s).2)
  match newReady it i v s with
  | .bad st s' => void st s'
  | _ =>
    let (bad, s0) := engAccess (readFor it) (newReads i v).dedup s
    if bookBad || !bad.isEmpty then void sPOISONED s0
    else
      let (a, s1) := engPutFor it (engWrite it 0x12)
        ([(i.vecAt v.slot, bytes), (i.codeAt v.slot, encodeVec s0 i x)] ++ tail 1 attr 1) s0
      if a ≠ 0 then void a s0 else (none, s1)

/-- BL_INSERT (R339, R341). -/
def serveInsert (it : Item) (s : State) : Option State :=
  let vecs := field it.payload 0 8
  let attrs := field it.payload 8 8
  let cnt := field it.payload 16 2
  let addr := globalOf s it.off
  withIndex it addr true (fun i => [(vecs, cnt * i.stride, false)] ++ (if attrs = 0 then [] else [(attrs, 4 * cnt, false)])) s fun i =>
    if it.search.isNone then
      (if i.cap < i.nodes + pendingSlots s it.off + cnt then some (endItem it sNORES 0 [] s)
       else if sideFull s it.off i cnt then engRetry it s
       else match indexEnter it it.off i s with | some s1 => some s1 | none => engRetry it s)
    else
      let book := linesOf (i.book % 2 ^ 50) (i.dim * 1024)
      let vs : List NewVec := (List.range cnt).map fun k =>
        { slot := i.nodes + k, seq := (i.next + k) % 2 ^ 32, src := vecs % 2 ^ 50 + k * i.stride,
          attrAt := if attrs = 0 then 0 else attrs % 2 ^ 50 + 4 * k }
      let wr := vs.flatMap fun v => nodeLines i v.slot ++ [i.sideAt v.seq / 64]
      match engReady (engWrite it 0x12) book.dedup ((it.off + 64) / 64 :: wr).dedup s with
      | .wait o => o
      | .bad st s' => some (endItem it st 0 [] s')
      | .ready =>
        match vs.findSome? (fun v => match newReady it i v s with | .wait o => some o | _ => none) with
        | some o => o
        | none =>
          let (bb, s0) := engAccess (readFor it) book.dedup s
          let (st, s1) := vs.foldl (fun (r : Option Nat × State) v =>
            let (f, s') := insertOne it i (!bb.isEmpty) v r.2
            (r.1 <|> f, s')) (none, s0)
          let v := if st.isSome then 0 else i.nodes * 2 ^ 32 + i.next
          some (endWrite it [] (st.getD sOK) v [] (bumpBy (aBL 6) cnt s1))

/-- BL_DELETE (R340): a slot already VOID, DEAD or DELP takes its number with a VOID entry (log entry 16). -/
def serveDelete (it : Item) (s : State) : Option State :=
  let cnt := field it.payload 0 2
  let slots := (List.range cnt).map fun k => field it.payload (8 + 4 * k) 4
  withIndex it (globalOf s it.off) true (fun _ => []) s fun i =>
    if slots.any fun n => decide (i.nodes ≤ n) then some (endItem it sBAD 0 [] s)
    else if it.search.isNone then
      (if sideFull s it.off i cnt then engRetry it s
       else match indexEnter it it.off i s with | some s1 => some s1 | none => engRetry it s)
    else
      let ls := (slots.flatMap (nodeLines i)).dedup
      let wr := (List.range cnt).map fun k => i.sideAt (i.next + k) / 64
      match engReady (engWrite it 0x12) ls ((it.off + 64) / 64 :: ls ++ wr).dedup s with
      | .wait o => o
      | .bad st s' => some (endItem it st 0 [] s')
      | .ready =>
        let (bad, s0) := engAccess (readFor it) ls s
        let one (r : Nat × Nat × State) (k : Nat × Nat) : Nat × Nat × State :=
          let nd := nodeRec r.2.2 i k.1
          let seq := (i.next + k.2) % 2 ^ 32
          let skip := decide (bits nd.flags 3 1 ≠ 0) || (nodeLines i k.1).any (bad.contains ·)
          let ws := (if skip then [] else [(i.nodeAt k.1, nodeBytes i { nd with flags := nd.flags ||| 2, delSeq := seq })])
            ++ [(i.sideAt seq, sideEntry seq (if skip then 0 else 2) k.1)]
          let (a, s') := engPutFor it (engWrite it 0x12) ws r.2.2
          (if r.1 = 0 then a else r.1, if skip then r.2.1 else r.2.1 + 1, s')
        let (a, tomb, s1) := slots.zipIdx.foldl one (0, 0, s0)
        let nx := (i.next + cnt) % 2 ^ 32
        let (a2, fw, s2) := engPut it.part (engWrite it 0x12) [(it.off + 64, line1 { i with next := nx, vis := nx })] s1
        let st := if a ≠ 0 then a else if a2 ≠ 0 then a2 else if bad.isEmpty then sOK else sPOISONED
        some (endWrite it fw st (if st = sOK then i.next else 0) [] (bumpBy (aBL 7) tomb s2))

/-! ### Merging (R342, R343) -/

/-- Keep the neighbours of R342: nearest first, each nearer to the node than to every one kept. -/
def selectNbrs (s : State) (i : IDesc) (cs : List (Nat × Nat)) : List Nat :=
  cs.foldl (fun keep c =>
    if i.deg ≤ keep.length then keep
    else if keep.all fun k => decide (distKey c.2 < distKey (fullDist i.metric (vecOf s i c.1) (vecOf s i k))) then keep ++ [c.1]
    else keep) []

/-- The writes that link a node at a horizon, and the lines it reads. -/
def linkNode (s : State) (i : IDesc) (n hz mseq : Nat) : List (Nat × List Byte) × List Nat × Bool :=
  let v := vecOf s i n
  let p : SPar := {
    i := i, stamp := hz, k := 0, beam := 4 * i.deg, width := 4, budget := 4096, fmode := 0, fmask := 0,
    score := fun m => fullDist i.metric v (vecOf s i m), sLines := vecLines i, ready := fun _ => true, cutOn := false }
  let r := searchRounds s p 4097 (searchStart s p mseq)
  let c := ((r.cand.take p.beam).filter fun c => c.pass && decide (c.slot ≠ n)).map fun c => (c.slot, c.dist)
  let keep := selectNbrs s i c
  let nd := nodeRec s i n
  let back := keep.map fun m =>
    let md := nodeRec s i m
    let nb := md.nbr.filter fun x => decide (x ≠ noSlot)
    let nb' := if nb.contains n then nb
      else if nb.length < i.deg then nb ++ [n]
      else
        let mv := vecOf s i m
        let whole := (nb ++ [n]).filter fun x =>
          !(nodeLines i x ++ vecLines i x).any (lineBad s) && alive (nodeRec s i x) hz
        selectNbrs s i (bestK (nb.length + 1) (whole.map fun x => (x, fullDist i.metric mv (vecOf s i x))))
    (i.nodeAt m, nodeBytes i { md with nbr := nb' })
  let reads := r.lines ++ vecLines i n ++ nodeLines i n
    ++ keep.flatMap fun m => (nodeRec s i m).nbr.flatMap fun x => if x = noSlot then [] else nodeLines i x ++ vecLines i x
  ((i.nodeAt n, nodeBytes i { nd with flags := nd.flags &&& 14, nbr := keep }) :: back, reads.dedup,
    (vecLines i n ++ nodeLines i n).any (lineBad s))

/-- What the side entry in front asks for: its writes, the lines it reads, and whether one of them is bad. -/
def mergeWrites (it : Item) (i : IDesc) (hz : Nat) (s : State) : List (Nat × List Byte) × List Nat × Bool :=
  let a := i.sideAt i.mseq
  let slot := readNat s (a + 8) 4
  let l1 (e : Nat) : Nat × List Byte := (it.off + 64, line1 { i with mseq := (i.mseq + 1) % 2 ^ 32, entry := e })
  match readNat s (a + 4) 1 with
  | 1 => let (w, r, b) := linkNode s i slot hz i.mseq
         (w ++ [l1 (if i.entry = noSlot then slot else i.entry)], r, b)
  | 2 => let nd := nodeRec s i slot
         ([(i.nodeAt slot, nodeBytes i { nd with flags := (nd.flags ||| 4) &&& 13 }), l1 i.entry], nodeLines i slot,
           (nodeLines i slot).any (lineBad s))
  | _ => ([l1 i.entry], [], false)

/-- Take side entries in sequence order, as many as are ready: the count merged so far, and the status it ends with, none while it waits. -/
def mergeGo : Nat → Nat → Item → State → Nat × Option Nat × State
  | 0, c, _, s => (c, some sOK, s)
  | fuel + 1, c, it, s =>
    let i := idesc (readBytes s it.off 128)
    let hz := horizon s it.off i.vis
    let st := it.search.getD {}
    if st.stop then (c, some sABORTED, s)
    else if st.cut || !precedes i.mseq hz then (c, some sOK, s)
    else
      let a := i.sideAt i.mseq
      let (ws, rd, bad) := mergeWrites it i hz s
      match engReady (engWrite it 0x12) (a / 64 :: rd).dedup (writeLines ws) s with
      | .wait o => (c, none, o.getD s)
      | .bad x s' => (c, some x, s')
      | .ready =>
        if bad || lineBad s (a / 64) then (c, some sPOISONED, s)
        else
          let (_, s1) := engAccess (readFor it) (a / 64 :: rd).dedup s
          let (x, s2) := engPutFor it (engWrite it 0x12) ws s1
          if x ≠ 0 then (c, some x, s2)
          else mergeGo fuel (c + 1) it (bump (aBL 8) s2)

/-- BL_MERGE (R342). -/
def serveMerge (it : Item) (s : State) : Option State :=
  let mx := field it.payload 0 4
  let also (i : IDesc) : List (Nat × Nat × Bool) := [(i.vec, i.cap * i.stride, false), (i.side, i.sideCap * 16, false)]
  withIndex it (globalOf s it.off) true also s fun i =>
    if it.search.isNone then
      (match indexEnter it it.off i s with | some s1 => some s1 | none => engRetry it s)
    else
      let (c, st, s1) := mergeGo (mx - it.value) it.value it s
      match st with
      | some x => some (endWrite it [] x c [] s1)
      | none =>
        let s2 := updateItem it.id (fun x => { x with value := c }) s1
        if s2 = s then none else some s2

/-- A Bolter slice is lost (R345): the searches and merges it coordinates are answered INTERNAL_FAULT. -/
def bolterLost (b : Nat) (s : State) : State :=
  (s.home.waitq.filter fun x => match x.search with | some t => decide (t.coord = b) | none => false).foldl (fun s it =>
    if it.op = 0x68 then endItem it sFAULT 0 [] s
    else if it.op = 0x6B then endItem it sFAULT it.value [] s else s) s

/-- The Bolter requests by opcode. -/
def serveBolter (it : Item) (s : State) : Option State :=
  match it.op with
  | 0x68 => serveSearch it s
  | 0x69 => serveInsert it s
  | 0x6A => serveDelete it s
  | _ => serveMerge it s

/-! ### What admitted invocations name -/

/-- The regions that an admitted invocation of an engine names, as addresses and lengths. -/
def engineRegions (s : State) (x : Item) : List (Nat × Nat) :=
  let plain (l : List (Nat × Nat × Bool)) : List (Nat × Nat) := l.map fun r => (r.1, r.2.1)
  let batch (l : LDesc) : List (Nat × Nat) :=
    [(l.idx, 8 * l.n), (l.offs, 4 * (l.b + 1)), (l.out, l.b * l.ostride)] ++ (if l.wgt = 0 then [] else [(l.wgt, 4 * l.n)])
  match x.op with
  | 0x60 =>
    let q := kget {} s.eng.invs x.id
    let n := 64 * q.lines
    if !q.live then []
    else [(q.dst, n)] ++ (if within q.op 1 3 then [(q.src, n)] else []) ++ (if q.op = 5 then [(q.aux, n)] else [])
      ++ q.list.map fun e => (e.1, n)
  | 0x61 => [(x.off, 64 * (x.param + 1)), (field x.payload 0 8, 64)]
  | 0x64 =>
    let l := ldesc (x.descs.getD 0 [])
    let t := tablesOf (x.descs.getD 1 []) (x.descs.getD 2 [])
    if x.descs.length < 3 then [] else plain (t.regions l.table true false ++ t.others) ++ batch l
  | 0x65 =>
    let l := ldesc (x.descs.getD 0 [])
    if x.descs.isEmpty then [] else plain ((hstep s (l.table % 2 ^ 50)).tables.regions l.table false true) ++ batch l
  | 0x66 => plain ((hstep s x.off).tables.regions x.off false true)
  | 0x67 => plain ((hstep s x.off).tables.regions x.off false true)
  | op =>
    match x.search with
    | none => []
    | some t =>
      let i := idesc (readBytes s t.index 128)
      let q := qdesc (x.descs.getD 0 [])
      plain (i.regions t.index false)
      ++ (if op = 0x68 then [(q.qvec, 4 * i.dim), (q.out, 8 * q.k)] else [])
      ++ (if op = 0x69 then [(field x.payload 0 8, field x.payload 16 2 * i.stride), (field x.payload 8 8, 4 * field x.payload 16 2)]
          else [])

/-- An admitted request that still concerns a run of extents (R378, R379). -/
def itemIn (s : State) (first count : Nat) (x : Item) : Bool :=
  let here (e : Nat) : Bool := decide (first ≤ e ∧ e < first + count)
  here (extentOf x.off) || (itemLines x).any (fun l => here (extentOf (l * 64)))
  || (engineRegions s x).any fun r =>
    decide (first * 2 ^ 28 < r.1 % 2 ^ 50 + r.2 ∧ r.1 % 2 ^ 50 < (first + count) * 2 ^ 28)

end Sys2Proof.Machine
end

