-- ==== Sys2Proof/Machine/CohOps.lean ====
section
/-! DEFINITION. The directory's other operations: data returned by snoops, the loss of an agent, flushes, and the sweeps of revocation (R171, R177, R185-R190, R378, R379). -/

namespace Sys2Proof.Machine

/-- Write a line's returned data in the line cache (Table 6.3), poisoned where the holder says so (R171). -/
def returnedData (line : Nat) (data : List Byte) (poison : Bool) (s : State) : State :=
  let prt := (extent s (extentOf (line * 64))).part
  let s1 := (putLines prt { op := 0x53 } [(line * 64, data.take 64 ++ List.replicate (64 - data.length) 0)] true s).2
  if poison then poisonLine line none false s1 else s1

/-- The line of an entry's extent is being revoked: data returned by its snoops is discarded (R378). -/
def revokedLine (s : State) (line : Nat) : Bool := decide (2 ≤ (extent s (extentOf (line * 64))).xstate)

/-- The line whose transaction awaits a snoop response. -/
def awaitedLine (s : State) (node tag : Nat) (down : Bool) : Option Nat :=
  (s.home.dir.find? fun p => p.2.acks.contains (node, tag) && p.2.down = down).map (·.1)

/-- A snoop response (R177, R184): counted, its data written, HAD_COPY 1 of a SNP_DOWN keeping the owner as a sharer. -/
def snoopAnswered (line : Nat) (r : SnpResp) (down : Bool) (s : State) : State :=
  let s1 := if r.dirty && !revokedLine s line then returnedData line r.data r.poison s else s
  endTxn line (setDir line (fun e => { e with
    acks := e.acks.filter fun a => decide (a ≠ (r.node, r.tag)),
    ptrs := if down && r.hadCopy then e.ptrs ++ [r.node] else e.ptrs }) s1)

/-- A line whose owner is lost: poisoned, and in I (R186). -/
def ownerLost (line : Nat) (s : State) : State :=
  freeDir line (bump (aCOH 8) (poisonLine line none false s))

/-- What the loss of an agent does to one entry (R186). -/
def dropFromEntry (n line : Nat) (s : State) : State :=
  let e := dirEnt s line
  let waits := e.acks.any fun a => a.1 = n
  let rest := e.acks.filter fun a => decide (a.1 ≠ n)
  match e.st with
  | .x => if e.owner = n then ownerLost line s else s
  | .g =>
    if e.grantee ≠ n then setDir line (fun e => { e with ptrs := e.ptrs.filter fun x => decide (x ≠ n) }) s
    else if e.after then ownerLost line s
    else
      let ps := e.ptrs.filter fun x => decide (x ≠ n)
      if ps.isEmpty && !e.coarse && !e.eng then freeDir line s
      else setDir line (fun e => { e with st := .s, ptrs := ps, grantee := 0, grantTag := 0 }) s
  | .s => dropSharer n line s
  | .i => s
  | _ =>
    if !waits then setDir line (fun e => { e with ptrs := e.ptrs.filter fun x => decide (x ≠ n) }) s
    else
      let owned := e.st = .xr || (e.st = .bi && e.owner = n && e.ptrs.isEmpty && !e.coarse)
      let s1 := if owned then bump (aCOH 8) (poisonLine line none false s) else s
      endTxn line (setDir line (fun e => { e with
        acks := rest, ptrs := e.ptrs.filter fun x => decide (x ≠ n) }) s1)

/-- An agent is lost, or its session is closed or replaced: every transaction waiting on it ends, and no entry names it (R186, R187). -/
def dropAgent (n : Nat) (s : State) : State :=
  s.home.dir.foldl (fun s p => dropFromEntry n p.1 s) s

/-! ### Flushing (R189, R190) -/

/-- Contexts with CACHER set; one that is closing has lost its lines. -/
def cachers (s : State) : List Nat := (s.kt.ctxs.filter fun p => p.2.live && p.2.cacher && p.2.closing.isNone).map (·.1)

/-- A flush ends: lines still owned by agents that did not respond are poisoned, the directory of the bay is empty, the row buffers hold none of its lines (R309), and the slice serves again. -/
def finishFlush (b : Nat) (s : State) : State :=
  let silent := (kget [] s.home.flushDue b).map (·.1)
  let lost := s.home.dir.filter fun p => lineBay p.1 = b && silent.contains p.2.owner
    && (p.2.st = .x || p.2.st = .xr || (p.2.st = .g && p.2.after))
  let s1 := lost.foldl (fun s p => poisonLine p.1 none false s) s
  let s2 := s1.onEng fun e => { e with rowBuf := e.rowBuf.filter fun x => !((linesOf x.1 x.2.2).any fun l => lineBay l = b) }
  s2.onHome fun h => { h with
    dir := h.dir.filter fun p => decide (lineBay p.1 ≠ b),
    flushDue := kput [] h.flushDue b [], flushAt := kput 0 h.flushAt b 0,
    slices := kput .off h.slices b .serving }

/-- A slice begins to flush (R189). -/
def startFlush (b : Nat) (s : State) : State :=
  if kget .off s.home.slices b ≠ .serving then s
  else
    let (acks, s1) := (cachers s).foldl (fun (r : List (Nat × Nat) × State) n =>
      let (t, s') := sendSnoop n 0x5A 0 b r.2
      (r.1 ++ [(n, t)], s')) ([], bump (aCOH 9) s)
    let s2 := s1.onHome fun h => { h with
      slices := kput .off h.slices b .flushing, flushDue := kput [] h.flushDue b acks,
      flushAt := kput 0 h.flushAt b (now s) }
    if acks.isEmpty then finishFlush b s2 else s2

/-- The key of a closing context's flush among those of the bays (R187). -/
def flushKey (node : Nat) : Nat := 16 + node

/-- SNP_FLUSH_BAY for all bays, before a context closes (R187). -/
def flushContext (n : Nat) (s : State) : State :=
  let (t, s1) := sendSnoop n 0x5A 0 0xFF s
  setCtx n (fun c => { c with flushSent := some (now s) })
    (s1.onHome fun h => { h with flushDue := kput [] h.flushDue (flushKey n) [(n, t)] })

/-! ### Sweeps of revocation (R188, R378, R379) -/

/-- Whether an entry names a node. -/
def DirEnt.names (e : DirEnt) (n : Nat) : Bool :=
  match e.st with
  | .i => false
  | .x => e.owner = n
  | .g => e.grantee = n || e.owner = n || e.ptrs.contains n || (e.coarse && bit e.vec (n % 64))
  | .xr => e.owner = n
  | _ => if e.coarse then bit e.vec (n % 64) else e.ptrs.contains n || e.acks.any fun a => a.1 = n

/-- A line of an extent run. -/
def inRun (line first count : Nat) : Bool :=
  decide (first ≤ extentOf (line * 64) ∧ extentOf (line * 64) < first + count)

/-- Requests of a node to a run, admitted and not yet performed. -/
def nodeBusy (s : State) (n first count : Nat) : Bool :=
  s.home.waitq.any fun x => x.src = .agent n && itemIn s first count x

/-- A stable entry of a revoked extent: every holder is told to drop its copy (R378). -/
def sweepRevoked (line : Nat) (s : State) : State :=
  if (dirEnt s line).st = .x then startXR line false s else startSI line none s

/-- The nodes whose draining grants cover a line. -/
def drainingAt (s : State) (line : Nat) : List Nat :=
  ((s.sec.grants.filter fun g => g.draining && g.swept && inRun line g.first g.count).map (·.node)).dedup

/-- A stable entry that a grant's sweep visits: the draining nodes it names are told to drop their copies (R379). -/
def sweepDrained (line : Nat) (s : State) : State :=
  let e := dirEnt s line
  let ds := (drainingAt s line).filter fun n => e.names n
  let s0 := setDir line (fun e => { e with sweepDue := false }) s
  match e.st with
  | .x => if ds.contains e.owner then setDir line (fun e => { e with revoking := true }) (startXR line false s0) else s0
  | .s =>
    if ds.isEmpty then s0
    else
      let (acks, s1) := sendSnoops 0x58 line ds s0
      let ps := e.ptrs.filter fun n => !ds.contains n
      setDir line (fun e => { e with
        st := .si, acks := acks, ptrs := ps, vague := e.vague || e.coarse, revoking := true,
        since := now s, late := false }) s1
  | _ => s0

/-- The first grant whose drain may sweep now: no node that its command revoked has an admitted request to the run left. -/
def grantToSweep (s : State) : Option Grant :=
  let idle (g : Grant) : Bool := !nodeBusy s g.node g.first g.count
  s.sec.grants.find? fun g => g.draining && !g.swept
    && s.sec.grants.all fun h => !(h.draining && h.drain = g.drain) || idle h

/-- Mark what a grant's sweep has to visit. -/
def beginSweep (g : Grant) (s : State) : State :=
  let mark (p : Nat × DirEnt) : Nat × DirEnt :=
    if inRun p.1 g.first g.count && p.2.names g.node then (p.1, { p.2 with sweepDue := true }) else p
  let s1 := s.onHome fun h => { h with dir := h.dir.map mark }
  s1.onSec fun x => { x with grants := x.grants.map fun y => if y = g then { y with swept := true } else y }

/-- One move of the sweeps, if there is one; an entry in whose set every way but one is pinned is visited later (R174). -/
def sweepOne (s : State) : Option State :=
  let stable (p : Nat × DirEnt) : Bool := (p.2.st = .x || p.2.st = .s) && !setPinned s p.1
  match grantToSweep s with
  | some g => some (beginSweep g s)
  | none =>
    match s.home.dir.find? fun p => stable p && (extent s (extentOf (p.1 * 64))).xstate = 2 with
    | some p => some (sweepRevoked p.1 s)
    | none => (s.home.dir.find? fun p => stable p && p.2.sweepDue).map fun p => sweepDrained p.1 s

/-- A holder has not answered a sweep's snoop within SNOOP_LIMIT: it is removed (R378, R379). -/
def sweepLate (line : Nat) (s : State) : State :=
  let e := dirEnt s line
  let grantSweep := e.revoking && !revokedLine s line
  let s1 := if grantSweep then
      e.acks.foldl (fun s a =>
        event { cls := 3, code := 2, kind := kNode, unit := a.1, addr := globalOf s (line * 64) } (bump (aCOH 7) s)) s
    else s
  let s2 := if grantSweep && e.st = .xr then bump (aCOH 8) (poisonLine line none false s1) else s1
  endTxn line (setDir line (fun e => { e with acks := [] }) s2)

end Sys2Proof.Machine
end

