-- ==== Sys2Proof/Machine/Pump.lean ====
section
/-! DEFINITION. The home slices at work: each waiting request is performed as soon as its place in its line's queue and its pair's order let it (R139-R149, R176), the requests of streams among them (R232, R239, R240, R245, R246). -/

namespace Sys2Proof.Machine

/-! ### Places in the queues -/

/-- A request is the first of its line's queue that is not yet performed. -/
def atHead (it : Item) (line : Nat) (s : State) : Bool :=
  !(s.home.waitq.any fun x => decide (x.id ≠ it.id) && decide (x.since < it.since) && (itemLines x).contains line)

/-- A later strict request of a pair whose earlier one was answered RETRY (R146). -/
def strictStopped (it : Item) (s : State) : Bool :=
  match it.src with
  | .agent n =>
    let c := ctx s n
    it.strict && (match c.strictTag with
      | some t => decide (t ≠ it.tag) && decide (c.strictAt < it.id)
      | none => false)
  | _ => false

/-- The pair of a STORE_FLAG or PUBLISH has REFUSED set (R144). -/
def refusedHere (it : Item) (s : State) : Bool :=
  (it.op = 0x13 || it.op = 0x40)
  && match it.src with
     | .agent n => (ctx s n).refused
     | _ => false

/-- A write at the head of its line would be performed now. -/
def wouldPerform (it : Item) (line : Nat) (s : State) : Bool :=
  (match setRule s (line * 64) (itemWrite it) with
   | .denied _ => false
   | .held => false
   | _ => true)
  && (match pageForWrite (line / 1024) s with
      | .go => true
      | _ => false)
  && (match prepWrite line none s with
      | .ready => true
      | _ => false)
  && (let (ws, _, _, _) := writeResult it line s
      (coversLine ws line || (lineReadable s line && !(fetchLine line {} s).1))
      && (ws.isEmpty || decide ((allocFor it.part ws s).1 = 0)))

/-- The RETRY of R144: REFUSED is cleared. -/
def refuseNow (it : Item) (s : State) : State :=
  let s1 := finishQ true it sRETRY 0 [] (removeItem it.id (bump (aTXN 7) s))
  match it.src with
  | .agent n => setCtx n (fun c => { c with refused := false }) s1
  | _ => s1

/-! ### Reads of T3 (R93, R95, R159) -/

/-- The lines that a request will want, with whether it writes them, as far as they are known when it arrives: of a ring the lines of the entry that it appends or takes. -/
def needLines (s : State) (it : Item) : List (Nat × Bool) :=
  let run (n : Nat) (w : Bool) : List (Nat × Bool) := (List.range n).map fun i => (it.off / 64 + i, w)
  let ring (pos n : Nat) (w : Bool) : List (Nat × Bool) :=
    let r := ringAt s it.off
    if lineReadable s (it.off / 64) && ringOk s r it.part then (ringLines r pos n).map fun l => (l, w) else []
  match it.op with
  | 0x01 => run (it.param + 1) false
  | 0x12 => run (it.param + 1) true
  | 0x61 => run (it.param + 1) true ++ [(field it.payload 0 8 % 2 ^ 50 / 64, false)]
  | 0x62 =>
    let g := group s it.off
    run 1 true ++ (if it.param = 1 && decide (g.n ≤ g.done + 1) then (targetLines g).map fun l => (l, false) else [])
  | 0x63 => run (field it.payload 0 1) true
  | 0x66 => []
  | 0x67 => if it.param = 0 then (tableLines s it.off).map fun l => (l, false) else []
  | 0x70 => run 1 true ++ ring (ringAt s it.off).tail ((8 + field it.payload 0 4 + 63) / 64 * 64) true
  | 0x71 =>
    let r := ringAt s it.off
    run 1 true ++ (if r.head = r.tail then [] else ring r.head (min (r.tail - r.head) 8256) false)
  | op => run 1 (isWriteOp op || op = 0x53)

/-- Invocations that always draw an interim response (R272, R306, R332). -/
def alwaysInterim (it : Item) : Bool :=
  [0x60, 0x64, 0x65].contains it.op || (it.op = 0x62 && it.param = 0) || within it.op 0x68 0x6B

/-- A request needs a T3 read, or a move out of a T3 image (R159); a lost page is one of T3 (R98). -/
def needsT3 (s : State) (it : Item) : Bool :=
  (needLines s it).any fun l =>
    decide ((page s (l.1 / 1024)).tier = 3)
    && (l.2 || pageLost s (l.1 / 1024) || !(kget {} s.store.lineCache l.1).held)

/-- The reads of T3 that waiting requests need begin. -/
def startReads (s : State) : State :=
  s.home.waitq.foldl (fun s it =>
    if it.lost || isWriteOp it.op then s
    else (itemLines it).foldl (fun s l => if (kget {} s.store.lineCache l).held then s else beginT3 (l / 64) s) s) s

/-- The island that a line's medium lies in. -/
def lineIsland (s : State) (line : Nat) : Option Nat :=
  match lineUnit s line with
  | some (k, u) => some (if k = kLane then 16 + u / 8 else 48 + u)
  | none =>
    let e := page s (line / 1024)
    if e.tier = 3 && !pageLost s (line / 1024) then some (56 + sliceOf e.frame) else none

/-- An island whose boundary is closed: pausing for a change of step, or Held (R46, R47). -/
def boundaryShut (i : Island) : Bool := i.toStep.isSome || i.st = .held

/-- The requests that wait for a closed island stand at its boundary, 32 at most; more wait behind (R44, R46). -/
def offerWords (s : State) : State :=
  let words (i : Nat) : List (Nat × Nat) :=
    s.home.waitq.flatMap fun it =>
      if it.lost || it.answer.isSome then []
      else ((itemLines it).filter fun l => lineIsland s l = some i && !(kget {} s.store.lineCache l).held).map fun l => (it.id, l)
  let upd (p : Nat × Island) : Nat × Island :=
    if boundaryShut p.2 then (p.1, { p.2 with toIsland := (words p.1).take 32 }) else p
  s.onPwr fun w => { w with islands := w.islands.map upd }

/-! ### Requests of streams -/

/-- The first look at a stream's request: a local address that its partition may use (R225, R239, R240). -/
def streamCheck (it : Item) (s : State) : Nat :=
  if it.off / 2 ^ 50 ≠ homeIndex s then sDENIED else ownCheck s it.part (it.off % 2 ^ 50)

/-- A stream's request passed its first look; FLASH_DEADLINE counts where it needs T3 (R159). -/
def firstLook (it : Item) (addr : Nat) (s : State) : State :=
  let as : Item := { it with off := addr % 2 ^ 50, op := if it.op = 0x102 || it.op = 0x104 then 0x10 else 0x00 }
  updateItem it.id (fun x => { x with weir := true, flash := needsT3 s as }) s

/-- A fetch ends: the sequencer has the words of the line, or the status of its failure (R232). -/
def fetchEnd (it : Item) (sid : Nat) (bad : Option Nat) (s : State) : State :=
  let t := stream s sid
  let line := it.off % 2 ^ 50 / 64 * 64
  let two : List (Nat × Nat) :=
    if it.off % 64 = 0 then [(it.param, line), (it.param + 1, line + 32)]
    else [(it.param - 1, line), (it.param, line + 32)].drop (if it.param = 0 then 1 else 0)
  let here := two.filter fun x =>
    decide (t.pc ≤ x.1 ∧ x.1 < t.pc + 256 ∧ x.1 < t.count) && decide (fetchedAt t x.1 = .no)
  let s1 := if bad = some sPOISONED then poisonConsumed it.part it.off sPOISONED s else s
  let val (a : Nat) : Fetched := match bad with
    | some st => .bad st
    | none => .word (BitVec.ofNat 256 (readNat s a 32))
  setStream sid (fun t => { t with fetched := here.foldl (fun m x => kput .no m x.1 (val x.2)) t.fetched })
    (removeItem it.id s1)

/-- A word fetch (R232). -/
def serveFetch (it : Item) (sid : Nat) (s : State) : Option State :=
  let line := it.off % 2 ^ 50 / 64
  match engReady (readFor it) [line] [] s with
    | .wait o => o
    | .bad st s' => some (fetchEnd it sid (some st) s')
    | .ready =>
      let (bad, s1) := engAccess (readFor it) [line] s
      some (fetchEnd it sid (if bad.isEmpty then none else some sPOISONED) s1)

/-- An LD (R239): an 8-byte LOAD. -/
def serveLd (it : Item) (s : State) : Option State :=
  let off := it.off % 2 ^ 50
  match engReady (readFor it) [off / 64] [] s with
    | .wait o => o
    | .bad st s' => some (endItem it st 0 [] s')
    | .ready =>
      let (bad, s1) := engAccess (readFor it) [off / 64] s
      if bad.isEmpty then some (endItem it sOK (readNat s off 8) [] (bump (aTXN 0) s1))
      else some (endItem it sPOISONED (2 ^ 64 - 1) [] s1)

/-- An ST (R239): an 8-byte STORE; a hold of its set makes it wait (R138). -/
def serveSt (it : Item) (s : State) : Option State :=
  let off := it.off % 2 ^ 50
  let as : Item := { it with op := 0x10, param := 7, off := off }
  if combOpen s (off / 64) then some (drainComb (off / 64) s)
  else if (match setRule s off (itemWrite as) with | .held => true | _ => false) then none
  else serveWrite as (off / 64) s

/-- The plan of a DMA word (R245): line `i` in the order of R263, as range offset from R, logical bay, scratchpad offset from SP_ADDR's. -/
def dmaLine (w : BitVec 256) (i : Nat) : Nat × Nat × Nat :=
  let per := wf w 195 172 / 64
  let rows := wf w 171 156 + 1
  let k := i % per
  let r := i / per % rows
  let j := i / (per * rows)
  (64 * j * wf w 99 76 + r * wf w 155 124 + 64 * k, j, r * wf w 123 100 + 64 * k)

/-- Lines of a DMA word. -/
def dmaCount (w : BitVec 256) : Nat :=
  wf w 195 172 / 64 * (wf w 171 156 + 1) * (wf w 75 72 + 1)

/-- R, the range address of a copy. -/
def dmaRange (w : Issued) : Nat := (w.rbase + sext 32 (wf w.word 255 224)) % 2 ^ 64

/-- The scratchpad offset of a copy, BREG included. -/
def dmaSp (w : Issued) : Nat := wf w.word 219 196 + w.base % 2 ^ 24

/-- Bytes written at an offset of a physical bay. -/
def spWrite (b off : Nat) (bs : List Byte) (s : State) : State :=
  landWrites (bs.zipIdx.map fun (x : Byte × Nat) => (spKey b (off + x.2), x.1)) s

/-- The next line of a copy: done, or what stands in its way. -/
inductive CopyR where
  | next (s : State)
  | wait (s : Option State)
  | fail (status : Nat) (s : State)

/-- One line of a COPY_IN or COPY_OUT (R245, R246). -/
def copyLine (it : Item) (w : Issued) (i : Nat) (moved : Bool) (s : State) : CopyR :=
  let (d, j, o) := dmaLine w.word i
  let addr := (dmaRange w + d) % 2 ^ 64
  let c := streamCheck { it with off := addr } s
  let line := addr % 2 ^ 50 / 64
  match physBay s (wf w.word 223 220 + j) with
  | none => .fail sBAD s
  | some b =>
    let sp := dmaSp w + o
    if moved && decide (c ≠ sOK) then .fail c (if c = sDENIED then srcFail it.src s else s)
    else if it.op = 0x103 then
      match engReady (holdFor it) [line] [] s with
      | .wait o => .wait o
      | .bad st s' => .fail st s'
      | .ready =>
        let (bad, s1) := engAccess (holdFor it) [line] s
        if bad.isEmpty then .next (bump (aCORE 2) (spWrite b sp (lineBytes s line) s1))
        else .fail sPOISONED (spWrite b sp (ffs 64) s1)
    else
      let sw := engWrite it 0x12
      match engReady sw [] [line] s with
      | .wait o => .wait o
      | .bad st s' => .fail st s'
      | .ready =>
        let data := (List.range 64).map fun k => kget 0 s.core.scratch (spKey b (sp + k))
        let (x, fw, s1) := engPut it.part sw [(line * 64, data)] s
        if x ≠ 0 then .fail x s1
        else
          .next (addForwards it.id fw (bump (aCORE 2) s1))

/-- The lines of a copy, as far as they go: the line to go on at, the outcome where the copy ends, and the state. A line goes out only after the one before it is answered OK (R263, R264). -/
def copyGo : Nat → Nat → Bool → Item → Issued → State → Nat × Option Nat × Option State
  | 0, i, _, _, _, s => (i, some sOK, some s)
  | fuel + 1, i, moved, it, w, s =>
    match copyLine it w i moved s with
    | .next s1 =>
      if (s1.home.waitq.find? fun x => x.id = it.id).any (fun x => x.fwdBad && x.forwards.isEmpty) then
        (i, some sDEAD, some s1)
      else if (s1.home.waitq.find? fun x => x.id = it.id).any (fun x => !x.forwards.isEmpty) then
        (i + 1, if fuel = 0 then some sOK else none, some s1)
      else copyGo fuel (i + 1) true it w s1
    | .wait o => (i, none, if moved then some (o.getD s) else o)
    | .fail st s1 => (i, some st, some s1)

/-- A COPY_IN or COPY_OUT goes on; its next line counts its deadline from when it is sent. -/
def serveCopy (it : Item) (sid num : Nat) (s : State) : Option State :=
  match findIssued (stream s sid) num with
  | none => some (removeItem it.id s)
  | some w =>
    let n := dmaCount w.word
    let addr := (dmaRange w + (dmaLine w.word it.value).1) % 2 ^ 64
    let c := streamCheck { it with off := addr } s
    if !it.forwards.isEmpty then none
    else if it.fwdBad then some (endItem it sDEAD 0 [] s)
    else if n ≤ it.value then some (endItem it sOK 0 [] s)
    else if !it.weir then
      some (if c ≠ sOK then denyItem it c s else firstLook it addr s)
    else
      let (i, st, o) := copyGo (n - it.value) it.value false it w s
      match st, o with
      | _, none => none
      | none, some s1 =>
        some (if i = it.value then s1
          else updateItem it.id (fun y => { y with value := i, weir := false, admitted := now s }) s1)
      | some 0, some s1 =>
        if (s1.home.waitq.find? fun x => x.id = it.id).any (fun x => !x.forwards.isEmpty) then
          some (updateItem it.id (fun y => { y with value := i, weir := false, admitted := now s }) s1)
        else some (endWrite it [] sOK 0 [] s1)
      | some x, some s1 => some (endItem { it with off := (dmaRange w + (dmaLine w.word i).1) % 2 ^ 50 } x 0 [] s1)

/-- A CALL's invocation on its first look: an aligned address of this YM9 that the partition may use (R240). -/
def serveCall (it : Item) (s : State) : Option State :=
  if it.weir then none
  else
    let c := streamCheck it s
    if quernFull it s || hoistFull it s then none
    else if it.off % 64 ≠ 0 then some (endItem it sBAD 0 [] s)
    else if c ≠ sOK then some (denyItem it c s)
    else
      let slices := if it.op = 0x64 then hoistSlices s else []
      some (updateItem it.id (fun x => { x with
        weir := true, off := it.off % 2 ^ 50, flash := alwaysInterim it, slices := slices }) s)

/-! ### One request -/

/-- The Quern, Hoist slice or Bolter slice whose next item a record opcode, a lookup, a step or a search is. -/
def stallUnit (it : Item) (s : State) : Nat × Nat :=
  if it.op ≤ 0x63 then (kQuern, quernOf s (it.off / 65536))
  else if it.op ≤ 0x67 then (kHoist, homeBay it.off)
  else (kBolter, pickCoord s)

/-- Go on with a request of an engine; a CALL passes its first look before. An injected stall holds the unit's next item (Table 16.11, fault 0x0060; the portions of a QN_EXEC are held where they are worked). -/
def serveInvocation (it : Item) (s : State) : Option State :=
  match it.src, it.weir with
  | .call _ _, false => serveCall it s
  | _, _ =>
    let (arm, s1) := if it.op = 0x60 || it.search.isSome then (none, s)
      else takeArmed (stallUnit it s).1 (stallUnit it s).2 [0x60] s
    if it.stalled then none
    else if arm.isSome then some (updateItem it.id (fun x => { x with stalled := true }) s1)
    else if within it.op 0x60 0x63 then serveQuern it s
    else if within it.op 0x64 0x67 then serveHoist it s
    else serveBolter it s

/-- A request of a stream: its first look (steps 5 and 6), then its access. -/
def serveStream (it : Item) (s : State) : Option State :=
  match it.src with
  | .agent _ => none
  | .call sid num =>
    if 0x103 ≤ it.op then serveCopy it sid num s
    else if !it.weir then
      let c := streamCheck it s
      if c = sOK then some (firstLook it it.off s)
      else if it.op = 0x100 then some (fetchEnd it sid (some c) (if c = sDENIED then srcFail it.src s else s))
      else some (denyItem it c s)
    else match it.op with
      | 0x100 => serveFetch it sid s
      | 0x101 => serveLd it s
      | _ => serveSt it s

/-- Serve a request at a line where it is at the head; an open combining entry drains first (R151). -/
def atLine (it : Item) (serve : State → Option State) (line : Nat) (s : State) : Option State :=
  if !atHead it line s then none
  else if combOpen s line then some (drainComb line s)
  else serve s

/-- Perform what can be performed of a waiting request: none where it must wait on. One with a word lost at an island's boundary is not performed again (R47). -/
def tryItem (s : State) (it : Item) : Option State :=
  if it.answer.isSome || it.lost then none
  else if strictStopped it s then some (endItem it sRETRY 0 [] (bump (aTXN 7) s))
  else if orderWaits it s then none
  else if 0x100 ≤ it.op then serveStream it s
  else if within it.op 0x60 0x6B then serveInvocation it s
  else match it.op with
    | 0x01 => (itemLines it).findSome? fun l => atLine it (serveLoadLine it l) l s
    | 0x12 => (itemLines it).findSome? fun l => atLine it (serveWrite it l) l s
    | op => atLine it (fun s => match op with
        | 0x00 => serveLoad it s
        | 0x50 => serveCoh it s
        | 0x51 => serveCoh it s
        | 0x52 => serveCoh it s
        | 0x54 => serveEvict it s
        | 0x70 => serveAppend it s
        | 0x71 => serveTake it s
        | _ =>
          if refusedHere it s && wouldPerform it (it.off / 64) s then some (refuseNow it s)
          else serveWrite it (it.off / 64) s) (it.off / 64) s

/-- Perform requests, oldest first, until none can go on; the groups and steps marked for closing among them. -/
def pumpGo : Nat → State → State
  | 0, s => s
  | fuel + 1, s =>
    match s.home.waitq.findSome? (tryItem s) with
    | some s' => pumpGo fuel s'
    | none => match closeMarked s with
      | some s' => pumpGo fuel s'
      | none => match sweepOne s with
        | some s' => pumpGo fuel s'
        | none => s

/-- What waits for T3 has its read begun, and what waits for a closed island stands at its boundary. -/
def afterPump (s : State) : State := offerWords (startReads s)

/-- Let the home slices work until every request waits. -/
def pump (s : State) : State := afterPump (pumpGo (4096 + 512 * s.home.waitq.length) s)

end Sys2Proof.Machine
end

