-- ==== Sys2Proof/Machine/TxnOps.lean ====
section
/-! DEFINITION. A request record's way in: step 1 of Table 5.5 by opcode (Tables 5.3, 5.4, 6.2, 10.2, 11.4, 12.4), steps 2 to 7, the RETRY marks, the interim response, and its place in the queues (R127-R148, R159, R166, R176). -/

namespace Sys2Proof.Machine

/-! ### Step 1 -/

/-- Payload bytes an opcode implies, before padding (R129); none where they depend on more than the record. -/
def payloadLen (op : Nat) (c : TxnReq) : Option Nat :=
  let p := c.param.toNat
  match op with
  | 0x10 => some (p + 1)
  | 0x11 => some 72
  | 0x12 => some (64 * (p + 1))
  | 0x13 => some (p + 1)
  | 0x2A => some (2 * max 8 (atomicWidth p))
  | 0x40 => some 64
  | 0x53 => some 64
  | 0x61 => some (16 + 64 * (p + 1))
  | 0x62 => some (if p = 1 then 8 else 0)
  | 0x63 => some (8 + 64 * field c.payload 0 1)
  | 0x66 => none
  | 0x67 => some (if p = 3 then 0 else 8)
  | 0x69 => some 24
  | 0x6A => some (8 + 4 * field c.payload 0 2)
  | 0x6B => some 8
  | 0x70 => some (8 + field c.payload 0 4)
  | _ => some (if within op 0x20 0x29 then 8 else 0)

/-- LEN is what the opcode and PARAM imply, and the record's bytes are there. -/
def lenOk (op : Nat) (c : TxnReq) : Bool :=
  let u := lenUnit op
  decide (c.payload.length + 16 = u * c.len) && decide (c.len ≤ 255)
  && match payloadLen op c with
     | some n => decide (c.len = (16 + n + u - 1) / u)
     | none => decide (4 ≤ c.len)

/-- `n` lines from an address stay in its page. -/
def inPage (addr n : Nat) : Bool := decide (addr % 65536 + 64 * n ≤ 65536)

/-- SIZE, COUNT, WIDTH, alignment and reserved fields by opcode. -/
def fieldsOk (op : Nat) (c : TxnReq) : Bool :=
  let p := c.param.toNat
  let a := c.addr.toNat
  let lineAligned := a % 64 = 0
  match op with
  | 0x00 => decide (p ≤ 63) && decide (a % 64 + p + 1 ≤ 64)
  | 0x01 => decide (p ≤ 63) && lineAligned && inPage a (p + 1)
  | 0x10 => decide (p ≤ 63) && decide (a % 64 + p + 1 ≤ 64)
  | 0x12 => decide (p ≤ 15) && lineAligned && inPage a (p + 1)
  | 0x13 => [0, 1, 3, 7].contains p && decide (a % (p + 1) = 0)
  | 0x53 => decide (p ≤ 1) && lineAligned
  | 0x61 => decide (p ≤ 15) && lineAligned && inPage a (p + 1)
  | 0x62 => decide (p ≤ 2) && lineAligned
  | 0x63 =>
    let n := field c.payload 0 1
    decide (1 ≤ p) && within n 1 16 && decide (field c.payload 1 7 = 0) && lineAligned && inPage a n
  | 0x66 => decide (p = 0) && lineAligned
  | 0x67 =>
    decide (p ≤ 3) && lineAligned
    && (match p with
        | 0 => decide (1 ≤ field c.payload 4 2) && decide (field c.payload 6 2 = 0)
        | 3 => true
        | _ => decide (field c.payload 4 4 = 0))
  | 0x69 => decide (p = 0) && lineAligned && within (field c.payload 16 2) 1 1024 && decide (field c.payload 18 6 = 0)
  | 0x6A => decide (p = 0) && lineAligned && within (field c.payload 0 2) 1 500 && decide (field c.payload 2 6 = 0)
  | 0x6B => decide (p = 0) && lineAligned && within (field c.payload 0 4) 1 65536 && decide (field c.payload 4 4 = 0)
  | 0x70 => decide (p = 0) && lineAligned && within (field c.payload 0 4) 1 8192 && decide (field c.payload 4 4 = 0)
  | _ =>
    if within op 0x20 0x2A then
      decide (p / 4 % 32 = 0)
      && (if op = 0x2A then p % 4 = 1 || p % 4 = 2 else p % 4 = 0 || p % 4 = 1)
      && decide (a % atomicWidth p = 0)
    else decide (p = 0) && lineAligned

/-- Step 1 of Table 5.5: a request (RESP 0) with its reserved bit 0. -/
def recordOk (op : Nat) (c : TxnReq) : Bool :=
  !bit c.flags.toNat 7 && !bit c.flags.toNat 5 && lenOk op c && fieldsOk op c

/-! ### Steps 2 and 6 -/

/-- Step 2: the YM9 takes requests (R460, R461): in service, and in Furl entry until its step 4; WB_DIRTY, EVICT_CLEAN and GRANT_ACK all through entry. -/
def takesRequests (s : State) (op : Nat) : Bool :=
  match s.pwr.pstate with
  | .inService => true
  | .furlEntry => decide (s.pwr.furlStep < 3) || op = 0x53 || op = 0x54 || op = 0x55
  | _ => false

/-- The right of step 6 on what ADDR names (R132, R166, R271, R302, R331): read for loads and descriptors that are only read, write for all others. -/
def needsWrite (op : Nat) : Bool := !([0x00, 0x01, 0x60, 0x64, 0x65, 0x66, 0x67, 0x68].contains op)

/-- Bytes from ADDR that step 6 looks at. -/
def addrSpan (op : Nat) (c : TxnReq) : Nat :=
  match op with
  | 0x01 => 64 * (c.param.toNat + 1)
  | 0x12 => 64 * (c.param.toNat + 1)
  | 0x61 => 64 * (c.param.toNat + 1)
  | 0x63 => 64 * field c.payload 0 1
  | _ => 1

/-- The coherence requests that set CACHER (R167). -/
def isCohOp (op : Nat) : Bool := within op 0x50 0x54

/-! ### Arrival -/

/-- Take a record out of what KT has delivered: the records delivered before it (R143), what is left, and its ORD. -/
def takeInbox (op tag : Nat) : List Deliv → List Deliv × List Deliv × Bool
  | [] => ([], [], false)
  | d :: r =>
    if d.op = op ∧ d.tag = tag then ([], r, d.ord)
    else
      let (b, r', o) := takeInbox op tag r
      (d :: b, d :: r', o)

/-- The request of a record, and the state in which the transaction layer has it. -/
def arrive (op : Nat) (c : TxnReq) (syms : SymErr) (s : State) : Item × State :=
  let (b, r, o) := takeInbox op c.tag (ctx s c.node).inbox
  let it : Item := {
    id := s.home.nextId, src := .agent c.node, op := op, part := c.flags.toNat % 32, ord := c.ord || o,
    strict := bit c.flags.toNat 6, tag := c.tag, off := c.addr.toNat % 2 ^ 50, param := c.param.toNat,
    payload := c.payload, admitted := now s, routed := c.routed, syms := syms,
    behind := b.map fun d => (d.op, d.tag) }
  let s1 := setCtx c.node (fun x => { x with
    inbox := r, cacher := x.cacher || isCohOp op,
    strictTag := if x.strictTag = some c.tag then none else x.strictTag }) s
  (it, s1.onHome fun h => { h with nextId := h.nextId + 1 })

/-- A request that fails a check before admission. -/
def refuse (it : Item) (st : Nat) (s : State) : State := finish it st 0 [] s

/-! ### Step 7 -/

/-- Lines at which a request asks for a waiting place: an engine's at those that its ADDR names. -/
def placeLines (it : Item) : List Nat :=
  if it.engine then
    (List.range (if it.op = 0x61 then it.param + 1 else if it.op = 0x63 then max 1 (field it.payload 0 1) else 1)).map fun i =>
      it.off / 64 + i
  else itemLines it

/-- Whether the home slice has room (R140, R148, R174, R189): OK, RETRY, or RETRY for pinned ways. -/
def roomAt (s : State) (it : Item) : Nat × Bool :=
  let ls := placeLines it
  let b := homeBay it.off
  if sliceSt s b ≠ .serving then (sRETRY, false)
  else if ls.any fun l => decide (64 ≤ lineWaiting s l) then (sRETRY, false)
  else if 4096 < sliceWaiting s b + ls.length then (sRETRY, false)
  else if within it.op 0x50 0x52 && (dirEnt s (it.off / 64)).st = .i && setPinned s (it.off / 64) then (sRETRY, true)
  else (sOK, false)

/-! ### Folding (R150-R152) -/

/-- An atomic that may fold: NORET, one of 0x20-0x28, whose pair's order lets it be performed (R146), at a line in I with no poison, of a page that is not lost, outside a mirrored or striped window. The form of its page does not matter (R77). -/
def mayFold (it : Item) (s : State) : Bool :=
  let line := it.off / 64
  within it.op 0x20 0x28 && bit it.param 7 && !orderWaits it s && !noFold s it.off
  && sliceSt s (homeBay it.off) = .serving && (dirEnt s line).st = .i && !lineBusy s line && !poisoned s line
  && !pageUnusable s (line / 1024) && !pageLost s (line / 1024)
  && (match setRule s it.off (itemWrite it) with
      | .plain => true
      | _ => false)

/-- The oldest open entry of a bay. -/
def oldestComb (s : State) (b : Nat) : Option Nat :=
  ((combBay s b).foldl (fun (r : Option (Nat × CombEnt)) p => match r with
    | none => some p
    | some q => if p.2.at_ < q.2.at_ then some p else r) none).map (·.1)

/-- An atomic's entry takes it: the open one where opcode and width match, else a new one after draining (R151, R152). `none`: it waits as a plain write, after the oldest entry has drained. -/
def foldOrNot (it : Item) (s : State) : Option State × State :=
  let line := it.off / 64
  let c := comb s line
  if combOpen s line && c.op = it.op && c.width = atomicWidth it.param then (some (foldInto it s), s)
  else
    let s1 := drainComb line s
    if !mayFold it s1 then (none, s1)
    else if 256 ≤ (combBay s1 (lineBay line)).length then
      (none, match oldestComb s1 (lineBay line) with | some l => drainComb l s1 | none => s1)
    else (some (foldInto it s1), s1)

/-- A first write that folds allocates its page (R67); one allocated in T3 is written there in full at once. -/
def foldFirst (it : Item) (s : State) : Nat × State :=
  let (a, s1) := allocFor it.part [(it.off, [0])] s
  if a ≠ 0 then (a, s)
  else if s1.store.newT3.isEmpty then (0, s1)
  else (0, (putLines it.part (itemWrite it) [(it.off, [readByte s1 it.off])] false s1).2)

/-! ### Admission -/

/-- A request as it stands in the queues. -/
def queueItem (it : Item) (s : State) : Item :=
  { it with admitted := now s, flash := needsT3 s it, slices := if it.op = 0x64 then hoistSlices s else [] }

/-- A request enters the queues: open combining entries of its lines drain, and one that needs T3 has its interim response (R151, R159). -/
def putInQueue (it : Item) (s : State) : State :=
  let it1 := queueItem it s
  let s1 := (itemLines it).foldl (fun s l => drainComb l s) s
  let s2 := s1.onHome fun h => { h with waitq := h.waitq ++ [it1] }
  if it1.flash then respondMore it1 sOK 0 true [] s2 else s2

/-- An invocation that draws an interim response has had it by the time its admission ends (R272, R306, R332). -/
def tellInterim (id : Nat) (s : State) : State :=
  match s.home.waitq.find? fun x => x.id = id with
  | some x => if alwaysInterim x && !x.flash && x.answer.isNone then engInterim x s else s
  | none => s

/-- A request enters the queues, and the home slices go on. -/
def enqueue (it : Item) (s : State) : State := tellInterim it.id (pump (putInQueue it s))

/-- An admitted request: performed on arrival, folded, or put in its queues. A WB_DIRTY is performed on arrival whatever its STRICT: R176 gives it no waiting place, and R146's order is set aside for it (DESIGN CHOICE, log entry 32). -/
def admitted (it : Item) (s : State) : State :=
  if it.op = 0x53 then pump (serveWb it (drainComb (it.off / 64) s))
  else if it.op = 0x54 && sliceSt s (homeBay it.off) = .flushing then finish it sOK 0 [] s
  else if mayFold it s && !strictStopped it s then
    (let (a, s0) := foldFirst it s
     if a ≠ 0 then refuse it a s
     else match foldOrNot it s0 with
       | (some s1, _) => pump s1
       | (none, s1) => enqueue it s1)
  else
    let (r, pin) := roomAt s it
    if r ≠ sOK then refuse it r (bump (aTXN 7) (if pin then bump (aCOH 3) s else s))
    else if quernFull it s || hoistFull it s then refuse it sRETRY (bump (aTXN 7) s)
    else enqueue it s

/-- Step 6 for the buffer of a ring (R132): its extents are checked where the control line can be read at admission; else when the request is performed. -/
def ringAdmit (it : Item) (s : State) : Nat × Option (Nat × Nat) :=
  let cl := it.off / 64
  let r := ringAt s it.off
  if !(it.op = 0x70 || it.op = 0x71) then (sOK, none)
  else if (dirEnt s cl).st = .x || (dirEnt s cl).st.transient || !lineReadable s cl || poisoned s cl
      || pageUnusable s (cl / 1024) || !ringOk s r it.part then (sOK, none)
  else (runCheck s it.src it.part r.base r.cap true, some (r.base, r.cap))

/-- A request record of a fabric node: the checks of Table 5.5 in order, then admission. A record without a context of its node has no effect; so has one but a Felset record in a bootstrap context (R395). -/
def request (op : Nat) (c : TxnReq) (syms : SymErr) (s : State) : State :=
  let x := ctx s c.node
  if !x.live || x.bootstrap then s
  else
    let (it, s1) := arrive op c syms s
    if x.closing.isSome && !(op = 0x53 || op = 0x54) then refuse it sABORTED s1
    else if !recordOk op c then refuse it sBAD s1
    else if !takesRequests s1 op then refuse it sNOSERV s1
    else if c.routed && op < 0x70 then refuse it sDENIED s1
    else if strictStopped it s1 then refuse it sRETRY (bump (aTXN 7) s1)
    else
      let (ok, s2) := weirAdmit c.node it.part (chargeLines op it.param c.payload) s1
      if !ok then refuse it sRETRY (bump (aTXN 6) s2)
      else
        let it1 := { it with weir := true }
        let a := c.addr.toNat
        let st := if a / 2 ^ 50 ≠ homeIndex s2 then sDENIED
          else runCheck s2 it.src it.part it.off (addrSpan op c) (needsWrite op)
        let (rs, ring) := if st = sOK then ringAdmit it1 s2 else (st, none)
        if rs ≠ sOK then
          finish it1 rs 0 [] (if rs = sDENIED then partFail c.node s2 else s2)
        else admitted { it1 with ring := ring } s2

/-! ### Answers to the YM9's own requests (R138, R160, R411-R414) -/

/-- The line an own request was sent for. -/
def ownLine (o : OwnReq) : Nat :=
  match o.rcd with
  | .req _ _ _ _ _ a _ => a % 2 ^ 50 / 64
  | _ => 0

/-- Own requests outstanding for a line. -/
def ownPending (s : State) (line : Nat) : Bool :=
  s.kt.ctxs.any fun p => p.2.own.any fun o => decide (ownLine o = line)

/-- Answer the requests whose last forward has been answered. -/
def answerForwarded (s : State) : State :=
  (s.home.waitq.filter fun x => x.forwards.isEmpty && x.answer.isSome).foldl (fun s x =>
    match x.answer with
    | some (st, v, pl) => endForwarded x x.fwdBad st v pl s
    | none => s) s

/-- A forward or delta is answered (R411, R412, R414): other than OK by a member that is not fenced, its unit goes stale and the write fails. -/
def forwardDone (node tag status : Nat) (s : State) : State :=
  match (ctx s node).own.find? fun o => o.tag = tag with
  | none => s
  | some o =>
    let bad := decide (status ≠ sOK) && !fenced s node
    let line := ownLine o
    let s1 := setCtx node (fun c => { c with own := c.own.filter fun x => decide (x.tag ≠ tag) }) s
    let s2 := if bad then staleUnit (line * 64) s1 else s1
    let s3 := s2.onHome fun h => { h with
      forwardBusy := if ownPending s2 line then h.forwardBusy else kput false h.forwardBusy line false,
      waitq := h.waitq.map fun x => if x.forwards.contains (node, tag) then
        { x with forwards := x.forwards.filter (fun a => decide (a ≠ (node, tag))), fwdBad := x.fwdBad || bad } else x }
    pump (answerForwarded (ownPump node (ctx s3 node).own.length s3))

/-- Pacing on a response but RETRY (R138): the window halves at a load level of 12 or more and grows by one at 4 or less, up to MAX_OUT of the request's partition. -/
def pace (node part level : Nat) (s : State) : State :=
  setCtx node (fun c => { c with window :=
    (if 12 ≤ level then max 1 (c.window / 2) else if level ≤ 4 then min (maxOut s part) (c.window + 1) else c.window) }) s

/-- A request of a rebuild is answered: its batch has the data, or fails (R417). -/
def rebuildAnswered (i node tag status : Nat) (data : List Byte) (s : State) : State :=
  let s1 := setCtx node (fun c => { c with own := c.own.filter fun x => decide (x.tag ≠ tag) }) s
  let take (r : SetSt) : SetSt :=
    if !r.rbOut.contains (node, tag) then r
    else
      { r with
        rbOut := r.rbOut.filter (fun a => decide (a ≠ (node, tag)))
        rbBad := r.rbBad || decide (status ≠ sOK)
        rbGot := match r.rbAsk.find? fun a => a.1 = node && a.2.1 = tag with
          | some (_, _, p, g) => kput [] r.rbGot (p * 1024 + g) data
          | none => r.rbGot }
  ownPump node (ctx s1 node).own.length (setSet i take s1)

/-- An own request is answered, by what it was sent for. -/
def ownAnswered (node tag status : Nat) (data : List Byte) (s : State) : State :=
  match (ctx s node).own.find? fun o => o.tag = tag with
  | none => s
  | some o => match o.slot with
    | some i => rebuildAnswered i node tag status data s
    | none => forwardDone node tag status s

/-- An own request ends TARGET_DEAD (R160, R162). -/
def ownDead (node tag : Nat) (s : State) : State :=
  match (ctx s node).own.find? fun o => o.tag = tag with
  | none => s
  | some o =>
    ownAnswered node tag sDEAD []
      (event { cls := 3, code := 1, status := sDEAD, addr := globalOf s (ownLine o * 64) } (bump (aTXN 10) s))

/-- The deadline of an own request (R159). -/
def ownDeadline (s : State) (o : OwnReq) : Nat := if o.flash then flashDeadline s else loadDeadline s

/-! ### Deadlines of admitted requests (R161) -/

/-- What an engine has in progress for a request that its deadline ends (R275, R308). -/
def dropWork (id : Nat) (s : State) : State :=
  s.onEng fun e => { e with
    invs := kput {} e.invs id {},
    steps := e.steps.map fun p =>
      if p.2.closing = some id then (p.1, { p.2 with closing := none, done := p.2.done - 1 }) else p }

/-- A LOAD_LINES answered TARGET_DEAD: all bytes 0xFF, in the records that its lines would have come in (Table 5.3, R161). -/
def loadLinesDead (it : Item) (s : State) : State :=
  let n := it.param + 1
  let last := (n + 15) / 16 - 1
  let s1 := (List.range last).foldl (fun s g => respondMore it sDEAD (16 * g) false (ffs 1024) s) s
  endItem it sDEAD (16 * last) (ffs (64 * (n - 16 * last))) s1

/-- An admitted request is answered TARGET_DEAD and never performed (R161). -/
def itemDead (it : Item) (s : State) : State :=
  let (v, pl) := deadAnswer it
  let s1 := event { cls := 3, code := 0, part := some it.part, status := sDEAD, addr := globalOf s it.off } (dropWork it.id s)
  pump (if it.op = 0x01 then loadLinesDead it s1 else endItem it sDEAD v pl s1)

/-- Beats of a bay as nanoseconds (R51): at its measured rate, or at the nominal 1.94 Gbeat/s before the first window. -/
def beatsNs (s : State) (b n : Nat) : Nat :=
  let r := kget 0 s.pwr.beatRate b
  n * 1000 / (if r = 0 then 1940 else r)

end Sys2Proof.Machine
end

