-- ==== Sys2Proof/Machine/Coherence.lean ====
section
/-! DEFINITION. The commands of the home-node coherence: agents' requests, grants acknowledged, snoop responses, Race returns, and the limits on silent holders (chapter 6). -/

namespace Sys2Proof.Machine

/-- RD_SHARED (R177). -/
def execRdShared (c : TxnReq) (s : State) : Host.Outcome State Fault Refusal := .next (request 0x50 c {} s)

/-- RD_OWN (R177). -/
def execRdOwn (c : TxnReq) (s : State) : Host.Outcome State Fault Refusal := .next (request 0x51 c {} s)

/-- UPGRADE (R177). -/
def execUpgrade (c : TxnReq) (s : State) : Host.Outcome State Fault Refusal := .next (request 0x52 c {} s)

/-- WB_DIRTY (R176, R179). -/
def execWbDirty (c : TxnReq) (s : State) : Host.Outcome State Fault Refusal := .next (request 0x53 c {} s)

/-- EVICT_CLEAN (R177). -/
def execEvictClean (c : TxnReq) (s : State) : Host.Outcome State Fault Refusal := .next (request 0x54 c {} s)

/-- The grantee has installed its line (R178, R179). -/
def grantDone (line : Nat) (s : State) : State :=
  let e := dirEnt s line
  if e.after then
    (if e.wrote then freeDir line s
     else setDir line (fun e => { e with st := .x, grantee := 0, grantTag := 0, after := false, late := false }) s)
  else setDir line (fun e => { e with st := .s, grantee := 0, grantTag := 0, late := false }) s

/-- GRANT_ACK (R170, R178): a completion, which passes only step 1 of Table 5.5; one that matches no transaction in G is discarded. One that arrives routed is answered DENIED and not executed (R125). -/
def execGrantAck (c : TxnReq) (s : State) : Host.Outcome State Fault Refusal :=
  .next (
    let (_, r, _) := takeInbox 0x55 c.tag (ctx s c.node).inbox
    let line := c.addr.toNat % 2 ^ 50 / 64
    let e := dirEnt s line
    if !(ctx s c.node).live then s
    else
      let s1 := setCtx c.node (fun x => { x with inbox := r }) s
      if c.routed then sendRec c.node (.resp 0x55 c.tag sDENIED (loadLevel s c.node (lineBay line) (c.flags.toNat % 32) sDENIED)
        false 0 []) false false s1
      else if recordOk 0x55 c && c.addr.toNat / 2 ^ 50 = homeIndex s && e.st = .g && e.grantee = c.node && e.grantTag = c.tag then
        pump (grantDone line s1)
      else s1)

/-- SNP_INV response (R177). -/
def execSnpInvResponse (r : SnpResp) (s : State) : Host.Outcome State Fault Refusal :=
  .next (match awaitedLine s r.node r.tag false with
    | some line => pump (snoopAnswered line r false s)
    | none => s)

/-- SNP_DOWN response (R177). -/
def execSnpDownResponse (r : SnpResp) (s : State) : Host.Outcome State Fault Refusal :=
  .next (match awaitedLine s r.node r.tag true with
    | some line => pump (snoopAnswered line r true s)
    | none => s)

/-- RACE_INV_RETURN (R181): the invalidation has passed every stop of its ring, where copies are dropped, and counts as one acknowledgement. -/
def execRaceInvReturn (line : Nat) (s : State) : Host.Outcome State Fault Refusal :=
  .next (if (dirEnt s line).race then
      pump (endTxn line (setDir line (fun e => { e with race := false }) (bufDrop line s)))
    else s)

/-- SNOOP_LIMIT_EXPIRY (R185): each wait is counted, and an event names its agent; the home keeps waiting. Under revocation the holder is removed instead (R378, R379). -/
def execSnoopLimitExpiry (line : Nat) (s : State) : Host.Outcome State Fault Refusal :=
  .next (
    let e := dirEnt s line
    let who := if e.st = .g then [e.grantee] else e.acks.map (·.1)
    if who.isEmpty || !e.st.transient || e.late || !elapsed s e.since (snoopLimit s) then s
    else if e.st ≠ .g && (e.revoking || revokedLine s line) then pump (sweepLate line s)
    else
      who.foldl (fun s n =>
          event { cls := 3, code := 2, kind := kNode, unit := n, addr := globalOf s (line * 64) } (bump (aCOH 7) s))
        (setDir line (fun e => { e with late := true }) s))

/-- SLICE_FLUSH_TIMEOUT (R189): 1 ms has passed for the agents that have not responded. -/
def execSliceFlushTimeout (bay : Nat) (s : State) : Host.Outcome State Fault Refusal :=
  .next (if sliceSt s bay = .flushing && elapsed s (kget 0 s.home.flushAt bay) 1000000 then pump (finishFlush bay s) else s)

end Sys2Proof.Machine
end

