-- ==== Sys2Proof/Machine/KtFlow.lean ====
section
/-! DEFINITION. The life of a KT context: session records and their checks, opening, closing, fencing (R112, R122, R187, R391-R394, R404-R407, R488). -/

namespace Sys2Proof.Machine

/-! ### Closing -/

/-- Answer ABORTED to the transactions held in a context (R112, R488). -/
def abortHeld (n : Nat) (s : State) : State :=
  (s.home.waitq.filter fun x => x.src = .agent n).foldl (fun s it => endItem it sABORTED 0 [] (dropWork it.id s)) s

/-- Drop the requests admitted from a node and not yet performed (R162). -/
def dropHeld (n : Nat) (s : State) : State :=
  (s.home.waitq.filter fun x => x.src = .agent n).foldl (fun s it => removeItem it.id (dropWork it.id s)) s

/-- Every own request to a node ends TARGET_DEAD (R162). -/
def ownAllDead (n : Nat) (s : State) : State :=
  (ctx s n).own.foldl (fun s o => ownDead n o.tag s) s

/-- Forget a context, and the Felset sessions on it (R357). -/
def freeCtx (n : Nat) (s : State) : State :=
  let s1 := (s.onHome fun h => { h with flushDue := kput [] h.flushDue (flushKey n) [] }).onKt fun k =>
    { k with ctxs := kput {} k.ctxs n {} }
  flushAll (s1.onSec fun x => { x with sessions := x.sessions.filter fun p => decide (p.2.node ≠ n) })

/-- Send a SESSION_CLOSE once, in a sequenced frame with ORD 1 (R488). -/
def emitClose (n reason : Nat) (s : State) : State :=
  let c := ctx s n
  emit n c.plane { ord := true, seq := c.sndNext, rcd := .sessionClose reason } s

/-- Close a context at once, as a received SESSION_CLOSE asks: the transactions it held are answered ABORTED, its copies lost (R187, R488). -/
def closeNow (n : Nat) (s : State) : State :=
  pump (freeCtx n (ownAllDead n (dropAgent n (abortHeld n s))))

/-- Begin a close of reason 0 or 1: the transactions held in the context are answered ABORTED and its copies lost, and the close is held until it is acknowledged (R112, R187, R488). -/
def beginClose (n reason : Nat) (s : State) : State :=
  let s1 := dropAgent n (abortHeld n s)
  pump (sendSeq n (.sessionClose reason) true false
    (setCtx n (fun c => { c with closing := some reason, flushSent := none }) s1))

/-- A closing context whose close has been acknowledged is freed. -/
def closeAcked (n : Nat) (s : State) : State :=
  let c := ctx s n
  if c.live && c.closing.isSome && c.held.isEmpty then closeNow n s else s

/-- An agent has answered the flush before its context closes: it holds no copy (R187). -/
def forgetCopies (n : Nat) (s : State) : State :=
  s.home.dir.foldl (fun s p =>
    let e := p.2
    if e.st = .x && e.owner = n then freeDir p.1 s else dropSharer n p.1 s) s

/-! ### Fencing (R405-R407, R416, R417) -/

/-- Stop a set's rebuild. -/
def stopRebuild (i : Nat) (s : State) : State :=
  setSet i (fun r => { r with
    rbPos := 31, rbAll := [], rbPhase := 0, rbOut := [], rbAsk := [], rbGot := [], rbBad := false }) s

/-- What the fence of a node does to the sets it belongs to (R415, R416, R417). -/
def fenceSets (n : Nat) (s : State) : State :=
  let one (s : State) (i : Nat) : State :=
    let r := setSt s i
    if r.sstate = 0 || !r.members.contains n then s
    else
      let s1 := if r.master = n then setSet i (fun r => { r with holdLo := 0, holdHi := 0 }) (stopRebuild i s) else s
      setSet i (fun r =>
        let left := r.rbAll.filter fun p => decide (memberAt r p ≠ n)
        { r with rbAll := left, rbPos := (left.min?).getD 31 }) s1
  refreshSets ((List.range 16).foldl one s)

/-- The notification nodes of the enabled partitions (R406, R421). -/
def enabledNotify (s : State) : List Nat :=
  (((List.range 32).filter fun p => (part s p).enabled).map (notifyNode s)).dedup

/-- The effects of a lost peer on its context: closed with reason 2, held frames dropped, own requests TARGET_DEAD, transactions that wait on it ended (R122, R162, R186, R404). -/
def losePeer (n : Nat) (s : State) : State :=
  let s1 := if (ctx s n).live then emitClose n 2 s else s
  let s2 := freeCtx n (ownAllDead n (dropAgent n (dropHeld n s1)))
  s2.onKt fun k => { k with
    ownOpens := kput {} k.ownOpens n {}, opens := k.opens.filter fun o => decide (o.node ≠ n) }

/-- Fence a node (R406). -/
def fenceNode (n : Nat) (s : State) : State :=
  let s1 := (bump (aSET 0) s).onMach fun m => { m with fence := kput false m.fence n true }
  let s2 := fenceSets n (losePeer n s1)
  pump (event { cls := 9, code := 1, kind := kNode, unit := n, force := true, nodes := some (enabledNotify s2) } s2)

/-- A context reports its peer silent on both planes (R120, R405). -/
def reportSilent (n : Nat) (s : State) : State :=
  let s1 := setCtx n (fun c => { c with silentRep := true, lstate := .silent }) (bump (aSET 1) s)
  let s2 := event { cls := 9, code := 0, kind := kNode, unit := n, force := true } s1
  if elapsed s2 (ctx s2 n).lastHeard (liveBound s2) then fenceNode n s2 else s2

/-! ### Certificates and session records (R391-R394) -/

/-- Bytes 0-399 of a node certificate (Table 14.9). -/
def certBody (r : SessRec) : List Byte :=
  [1, BitVec.ofNat 8 (b2n r.certIsYm9)] ++ leBytes 2 r.certNode ++ leBytes 4 0 ++ padTo 8 r.signer ++ padTo 384 r.modulus

/-- The installer slots that verify certificates (ROLE 2; R353, R391). -/
def installerSlots (s : State) : List KeySlot :=
  (s.nor.keySlots.map (·.2)).filter fun k => k.role = 2 && k.macOk

/-- CERT is self-signed (R392). -/
def selfSigned (r : SessRec) : Bool :=
  r.signer = signerOf r.modulus && Config.rsaVerify (padTo 384 r.modulus) (certBody r) r.certSig

/-- CERT is signed by an installer slot (R394). -/
def slotSigned (s : State) (r : SessRec) : Bool :=
  (installerSlots s).any fun k => r.signer = signerOf k.modulus && Config.rsaVerify (padTo 384 k.modulus) (certBody r) r.certSig

/-- The checks of R394, or those of R392 while no installer slot is enrolled; `signed` is what SIG covers. -/
def sessionOk (s : State) (r : SessRec) (signed : List Byte) : Bool :=
  let boot := !s.nor.certCommitted
  (if boot && (installerSlots s).isEmpty then selfSigned r else slotSigned s r)
  && r.certNode = r.node && (boot || decide (reach s r.node r.plane ≠ 0))
  && !(boot && r.routed)
  && Config.rsaVerify (padTo 384 r.modulus) signed r.sig
  && (Config.rsaDecrypt r.ehalf).isSome

/-- A session record that fails its checks (R394). -/
def sessionFail (n : Nat) (s : State) : State :=
  event { cls := 5, code := 3, kind := kNode, unit := n } (bump (aSEC 1) s)

/-- The session key (Table 14.6). -/
def sessionKey (hOpen hAccept : List Byte) (nOpen nAccept session : Nat) (nonceO nonceA : List Byte) : List Byte :=
  kdf (padTo 32 hOpen ++ padTo 32 hAccept) ['L', 'Z', ' ', 'K', 'T', ' ', 'S', 'E', 'S', 'S', 'I', 'O', 'N']
    (leBytes 2 nOpen ++ leBytes 2 nAccept ++ leBytes 4 session ++ padTo 32 nonceO ++ padTo 32 nonceA)

/-- The SA numbered `k` of a session (Table 14.6). -/
def saOf (skey : List Byte) (k : Nat) : Sa :=
  { key := kdf skey ['L', 'Z', ' ', 'K', 'T', ' ', 'S', 'A', 'K'] (leBytes 4 k),
    salt := (kdf skey ['L', 'Z', ' ', 'K', 'T', ' ', 'S', 'A', 'L', 'T'] (leBytes 4 k)).take 12 }

/-- Install a new context with its first two SAs, and send what waited for it; requests of the YM9's own that waited for the session stay outstanding. -/
def newCtx (n : Nat) (c : Ctx) (s : State) : State :=
  let q := (kget {} s.kt.ownOpens n).queue
  let sas := kput {} (kput {} [] 0 (saOf c.skey 0)) 1 (saOf c.skey 1)
  let s1 := bump (aSEC 0) (s.onKt fun k => { k with
    ctxs := kput {} k.ctxs n { c with sas := sas, own := (ctx s n).own, lastTag := (ctx s n).lastTag },
    ownOpens := kput {} k.ownOpens n {} })
  q.foldl (fun s w => sendRec n w.1 w.2.1 w.2.2 s) s1

/-- The context of a session that has just opened; the window of R138 starts at 1 (DESIGN CHOICE, log entry 23). -/
def freshCtx (s : State) (session plane sndSeq rcvSeq rwnd : Nat) (skey : List Byte) : Ctx :=
  { live := true, session := session, plane := plane, sndNext := sndSeq, sndAck := sndSeq, rcvNext := rcvSeq,
    rwnd := rwnd, skey := skey, openedAt := now s, lastHeard := now s, lastSent := now s, lastProbe := now s,
    newest := now s, window := 1 }

/-- A session identifier: non-zero, random, unique (R393). -/
def pickSession (s : State) : Nat × State :=
  let (b, s1) := drbgBytes 4 s
  let used := 0 :: (s.kt.ctxs.map fun p => p.2.session)
  let k := (used.length + 1)
  (firstFree k (leNat b) used, s1)

/-- The contexts that an open may close when all are in use: no frame held in either direction for 100 ms (R112). -/
def closable (s : State) : List (Nat × Ctx) :=
  s.kt.ctxs.filter fun p => p.2.live && p.2.held.isEmpty
    && elapsed s p.2.lastHeard 100000000 && elapsed s p.2.lastSent 100000000

/-- The least recently used of some contexts. -/
def oldestCtx (l : List (Nat × Ctx)) : Option Nat :=
  (l.foldl (fun (r : Option (Nat × Ctx)) p => match r with
    | none => some p
    | some q => if max p.2.lastHeard p.2.lastSent < max q.2.lastHeard q.2.lastSent then some p else r) none).map (·.1)

/-- What an open finds: a context to use, one that is being freed for it, one to be closed first, or none (R110, R112). -/
inductive CtxRoom where
  | free
  | closing
  | close (n : Nat)
  | full

/-- Room for one more context. -/
def ctxRoom (s : State) : CtxRoom :=
  if ctxCount s < 16384 then .free
  else if s.kt.ctxs.any fun p => p.2.closing.isSome || p.2.flushSent.isSome then .closing
  else match oldestCtx (closable s) with
    | some v => .close v
    | none => .full

/-- Close a context that an open needs: an agent with copies flushes first (R112, R187). -/
def closeIdle (n : Nat) (s : State) : State :=
  if (ctx s n).cacher then flushContext n s else beginClose n 0 s

/-- Accept an open (R392-R394): the new context and its SESSION_ACCEPT. -/
def acceptOpen (r : SessRec) (s1 : State) : State :=
  match Config.rsaDecrypt r.ehalf with
  | none => sessionFail r.node s1
  | some hOpen =>
    let (sess, s2) := pickSession s1
    let (nonceA, s3) := drbgBytes 32 s2
    let (half, s4) := drbgBytes 32 s3
    let (q, s5) := drbgBytes 4 s4
    let seq0 := leNat q
    let eh := Config.rsaEncrypt (padTo 384 r.modulus) half
    let body := acceptBody seq0 sess nonceA (ownCert s5) eh
    let openRec := openBody r.seq0.toNat r.nonce (certBody r ++ padTo 384 r.certSig) r.ehalf ++ padTo 384 r.sig
    let acc : Rec := .sessionAccept seq0 sess nonceA (ownCert s5) eh (Config.rsaSign (body ++ openRec))
    let boot := !s5.nor.certCommitted
    let plane := if boot then r.plane else startPlane s5 r.node
    let c : Ctx := { freshCtx s5 sess plane seq0 r.seq0.toNat (min r.rwnd 4095)
        (sessionKey hOpen half r.node (nodeId s5) sess r.nonce nonceA) with
      bootstrap := boot, openNonce := r.nonce, acceptRec := some acc }
    newCtx r.node c (emitOpenFrame r.node plane seq0 acc s5)

end Sys2Proof.Machine
end

