-- ==== Sys2Proof/Machine/UnitOps.lean ====
section
/-! DEFINITION. The loss of units: core-rail setpoints and rate steps, retirement and its effects by unit kind, map-out, the charge token's moves (R34, R40, R41, R81, R98, R103, R163, R285, R290, R319, R345, R420, R440-R446). -/

namespace Sys2Proof.Machine

/-! ### Core rails and rate steps (R40, R41, R43, R163) -/

def railSet (s : State) (q : Nat) : Nat := cfg s (0x0E0010 + q) 9 0

/-- The reduction of throttling levels 9 to 12 (Table 17.6). -/
def throttleCut (s : State) : Nat := 25 * min 4 (s.pwr.throttle - 8)

/-- The applied setpoint of a quarter (R40), 650 mV in Furl (Table 17.3). -/
def appliedSetpoint (s : State) (q : Nat) : Nat :=
  if s.pwr.pstate = .furl then 650
  else max 650 (min 950 (railSet s q + 25 * (rail s q).vstep) - throttleCut s)

def applyRails (s : State) : State :=
  (List.range 4).foldl (fun s q => setRail q (fun r => { r with applied := appliedSetpoint s q }) s) s

/-- A voltage step is left (R41, R437). -/
def vstepLeft (s : State) (q : Nat) : Bool :=
  decide ((rail s q).vstep < 3) && decide (railSet s q + 25 * ((rail s q).vstep + 1) ≤ 950)

/-- The quarter whose VSTEP answers for a unit (Table 16.7). -/
def quarterOf (kind unit : Nat) : Option Nat :=
  if [kBay, kHome, kCols, kHoist, kBolter].contains kind then some (unit / 4)
  else if kind = kSluice || kind = kMillpond then some unit else none

/-- The island whose rate step answers for a unit (Tables 1.8 and 16.7). -/
def islandOf (kind unit : Nat) : Option Nat :=
  if kind = kLane || kind = kQuern then some (16 + unit / 8)
  else if kind = kDdr then some (48 + unit)
  else if kind = kNand then some (56 + unit / 4)
  else if kind = kIsland && decide (16 ≤ unit ∧ unit < 60) then some unit else none

/-- The pause of a rate-step change in ns (R46). -/
def stepPause (i : Nat) : Nat := if i < 48 then 2000 else if i < 56 then 6000 else 8000

/-- A rate step is left (R163, R437). -/
def rateLeft (s : State) (i : Nat) : Bool :=
  decide ((island s i).step < 2)
  && (decide (56 ≤ i) || decide (stepPause i + 2000 ≤ loadDeadline s))

/-! ### Decisions and their records -/

/-- A UNIT event of a Governor decision (Table 16.3). -/
def unitEvent (code kind unit detail : Nat) (s : State) : State :=
  event { cls := 4, code := code, kind := kind, unit := unit, detail := detail, decision := true } s

/-- The partitions that had items fail are told (R446). -/
def itemsFailed (kind unit : Nat) (ps : List Nat) (s : State) : State :=
  ps.dedup.foldl (fun s p =>
    event { cls := 4, code := 6, kind := kind, unit := unit, part := some p, force := true } s) s

def setHealth (kind unit : Nat) (h : Health) (s : State) : State :=
  setUnitH (unitKey kind unit) (fun u => { u with health := h }) s

/-- A unit is retired: its state, the history, the count, the event (R440, R443). -/
def markRetired (kind unit : Nat) (s : State) : State :=
  unitEvent 3 kind unit 0 (bump (aGOV 10)
    (setHist (unitKey kind unit) (fun h => { h with retired := true }) (setHealth kind unit .retired s)))

def isRetired (s : State) (kind unit : Nat) : Bool := (unitH s (unitKey kind unit)).health = .retired

/-! ### Streams -/

/-- Stop streams that have begun (R199, R252, R446) and let them end where nothing is in flight. -/
def stopBegun (status cause : Nat) (s : State) : State :=
  (s.core.streams.filter fun p => p.2.st = .running || p.2.st = .suspended).foldl (fun s p =>
    settle p.1 (stopStream p.1 status cause s)) s

/-- Partitions of the streams that have begun. -/
def begunParts (s : State) : List Nat :=
  (s.core.streams.filter fun p => p.2.st = .running || p.2.st = .suspended).map fun p => p.2.part

/-- End the queued streams that a test picks: removed, with no word performed (R250, R252). -/
def endQueued (test : Stream → Bool) (cause : Nat) (s : State) : State :=
  (s.core.streams.filter fun p => p.2.st = .queued && test p.2).foldl (fun s p =>
    endStream p.1 (setStream p.1 (fun t => { t with status := sABORTED, cause := cause }) s)) s

/-! ### Querns, Hoist and Bolter slices -/

/-- A portion at a Quern that is lost passes to another, and starts again as a whole (R290, Table 16.9). -/
def QPortion.moved (s : State) (p : QPortion) : QPortion :=
  { page := p.page, quern := quernOf s p.page, held := p.held, first := p.first, count := p.count,
    next := p.first, left := p.count }

/-- A Quern is lost (R285, R290, Table 16.9): a REDUCE with a portion begun there fails, other portions pass to the next Quern, groups it holds sums of are abandoned. -/
def loseQuern (u : Nat) (s : State) : State :=
  let here (p : QPortion) : Bool := p.quern = u
  let failed := s.eng.invs.filter fun x => x.2.live && x.2.op = 3 && x.2.portions.any fun p => here p && p.begun
  let its := s.home.waitq.filter fun it => failed.any fun x => x.1 = it.id
  let groups := (s.eng.groups.filter fun g => g.2.opened && g.2.querns.contains u).map fun g => g.2.part
  let s1 := s.onEng fun e => { e with querns := kput .off e.querns u .retired }
  let s2 := its.foldl (fun s it => endQExec it sFAULT 0 [] s) s1
  let move (p : QPortion) : QPortion := if here p then p.moved s1 else p
  let s3 := s2.onEng fun e => { e with
    invs := e.invs.map fun x => (x.1, { x.2 with portions := x.2.portions.map move }) }
  let s4 := abandonGroups (fun _ g => g.querns.contains u) 64 s3
  itemsFailed kQuern u (its.map (·.part) ++ groups) s4

/-- The steps that hold entries in a bay's Hoist slice are abandoned; its buffered rows go (R319). -/
def loseHoist (kind b : Nat) (s : State) : State :=
  let hit := s.eng.steps.filter fun p => p.2.taken && p.2.rows.any fun r => keyBay p.2.tables r.1 = b
  let s1 := hit.foldl (fun s p => abandonStep p.1 s) s
  let s2 := s1.onEng fun e => { e with rowBuf := e.rowBuf.filter fun r => decide (homeBay r.1 ≠ b) }
  itemsFailed kind b (hit.map fun p => p.2.part) s2

/-- The searches and merges that a bay's Bolter slice coordinates fail (R345). -/
def loseBolter (kind b : Nat) (s : State) : State :=
  let ps := (s.home.waitq.filter fun x => match x.search with
    | some t => decide (t.coord = b)
    | none => false).map (·.part)
  itemsFailed kind b ps (bolterLost b s)

/-! ### Memory units -/

/-- Pages with a frame in a channel lane. -/
def lanePages (s : State) (l : Nat) : List Nat :=
  (s.store.pages.filter fun p => p.2.tier = 1 && frameLane p.2.frame = l).map (·.1)

/-- A channel lane is retired with its Quern (R81, R290): evacuated, or with its island lost (R441). -/
def retireLane (evacuate : Bool) (l : Nat) (s : State) : State :=
  if isRetired s kLane l then s
  else
    let s1 := markRetired kLane l s
    let s2 := loseQuern l (if isRetired s1 kQuern l then s1 else markRetired kQuern l s1)
    let s3 := (s2.store.moves.filter fun p => p.2.tier = 1 && frameLane p.2.frame = l && (page s2 p.1).mig).foldl
      (fun s p => abandonMove p.1 s) s2
    (lanePages s3 l).foldl (fun s p =>
      if evacuate then requestMove p .evacuate s else setPage p (fun e => { e with lost := true }) s) s3

/-- A DDR5 channel: retirement pending (R442). -/
def pendDdr (d : Nat) (s : State) : State :=
  let u := unitH s (unitKey kDdr d)
  if u.health = .retired || u.health = .pending then s
  else unitEvent 4 kDdr d 0 (bump (aGOV 10)
    (setHist (unitKey kDdr d) (fun h => { h with pendingRetire := true }) (setHealth kDdr d .pending s)))

/-- Reads that a Millpond slice has in progress are given up. -/
def endReads (q : Nat) (s : State) : State :=
  (s.store.t3Reads.filter fun r => r.2.1 = q + 1).foldl (fun s r => endT3 r.1 s) s

/-- A Millpond slice is retired (R98): its reads are given up, and no move takes a page out of it or into it. -/
def retireMillpond (q : Nat) (s : State) : State :=
  if isRetired s kMillpond q then s
  else
    let s1 := markRetired kMillpond q (setMillpond q (fun m => { m with st := .retired }) s)
    let hit (p : Nat × Move) : Bool :=
      let e := page s1 p.1
      e.mig && ((p.2.tier = 3 && sliceOf p.2.frame = q) || (e.tier = 3 && sliceOf e.frame = q))
    (s1.store.moves.filter hit).foldl (fun s p => abandonMove p.1 s) (endReads q s1)

/-- A NAND channel takes no new image; a slice with none left is retired (Table 16.7). -/
def retireNand (n : Nat) (s : State) : State :=
  if isRetired s kNand n then s
  else
    let q := n / 4
    let s1 := setMillpond q (fun m => { m with dead := m.dead ++ [n % 4] }) (markRetired kNand n s)
    if (List.range 4).all fun c => (millpond s1 q).dead.contains c then retireMillpond q s1 else s1

/-! ### Ports -/

/-- A port whose links are all Retired is retired (R104). -/
def retirePortIfDead (p : Nat) (s : State) : State :=
  if portDead s p && !isRetired s kPort p then markRetired kPort p s else s

/-- A SerDes lane is retired; the link that contains it re-forms (R103). -/
def retireSerdes (l : Nat) (s : State) : State :=
  if isRetired s kSerdes l then s
  else
    let p := l / 8
    let s1 := setLane l .retired (markRetired kSerdes l s)
    let hit := (List.range 4).filter fun i =>
      let g := linkLanes (portMode s1 p) i
      decide (g.1 ≤ l % 8 ∧ l % 8 < g.1 + g.2) && decide ((link s1 (4 * p + i)).st ≠ .off)
    retirePortIfDead p (leavePlane (linkPlane (4 * p))
      (hit.foldl (fun s i => reformLink (4 * p + i) s) s1))

/-- Every lane of a port, and the port, are retired. -/
def retirePort (p : Nat) (s : State) : State :=
  let s1 := (List.range 8).foldl (fun s i => retireSerdes (8 * p + i) s) s
  if isRetired s1 kPort p then s1 else markRetired kPort p s1

/-! ### The charge token (R420) -/

/-- A half whose management island runs and is not retired. -/
def halfUp (s : State) (h : Nat) : Bool := islandUp s (60 + h) && !isRetired s kHalf h

/-- The half that holds the token. -/
def holderHalf (s : State) : Option Nat :=
  match s.mach.holder with
  | .west => some 0
  | .east => some 1
  | _ => none

/-- The token leaves its holder: in transfer to the other half, or with none where it cannot take it; a frozen arbiter moves nothing (R421). -/
def moveToken (s : State) : State :=
  match holderHalf s with
  | none => s
  | some h =>
    if s.mach.arbFault then s
    else s.onMach fun m => { m with
      lastHolder := m.holder, toEast := decide (h = 0), believesWest := false, believesEast := false,
      holder := if halfUp s (1 - h) then .transfer else .none }

/-- The holder's management island is gone (R420). -/
def tokenAfterIsland (s : State) : State :=
  match holderHalf s with
  | some h => if halfUp s h then s else moveToken s
  | none => s

/-- A management half is retired; the token moves if it held it. -/
def retireHalf (h : Nat) (s : State) : State :=
  if isRetired s kHalf h then s else tokenAfterIsland (markRetired kHalf h s)

/-! ### Islands (R441) -/

/-- A clocked island is retired, with all it serves. -/
def retireIsland (i : Nat) (s : State) : State :=
  if (island s i).st = .retired then s
  else
    let s1 := markRetired kIsland i (setIsland i (fun x => { x with st := .retired }) s)
    if i < 16 then retirePort (i / 2) s1
    else if i < 48 then (List.range 8).foldl (fun s j => retireLane false (8 * (i - 16) + j) s) s1
    else if i < 56 then pendDdr (i - 48) s1
    else if i < 60 then
      retireMillpond (i - 56) ((List.range 4).foldl (fun s c => retireNand (4 * (i - 56) + c) s) s1)
    else if i < 62 then retireHalf (i - 60) s1
    else s1

/-! ### Bays -/

/-- A map-out is decided; it takes effect at the next operation boundary (R445). -/
def decideMapOut (b : Nat) (s : State) : State :=
  if bayMapped s b || s.core.mapOutDue.contains b then s
  else unitEvent 5 kBay b 0 (s.onCore fun c => { c with mapOutDue := c.mapOutDue ++ [b] })

/-- A bay leaves service (R199, R444, R445): streams begun end MAPOUT, its Hoist and Bolter slices and its scratchpad are lost, and VSTEP returns to what it was before the steps taken for it. -/
def mapOutBay (b : Nat) (s : State) : State :=
  let ps := begunParts s
  let s1 := bump (aGOV 11) (setHist (unitKey kBay b) (fun h => { h with mappedOut := true })
    (setHealth kBay b .mappedOut s))
  let s2 := s1.onGov fun g => { g with mappedOut := g.mappedOut ++ [b] }
  let s3 := match s2.gov.mapOutVstep.find? fun x => x.1 = b with
    | some x => applyRails (setRail (b / 4) (fun r => { r with vstep := x.2 - 1, measuringTo := none }) s2)
    | none => s2
  let s4 := s3.onCore fun c => { c with
    mapOutDue := c.mapOutDue.filter fun x => decide (x ≠ b), weights := none, shadow := none,
    scratch := c.scratch.filter fun x => decide (x.1 / 2 ^ 24 ≠ b),
    chains := c.chains.filter fun x => decide (x.1 / 2 ^ 24 ≠ b) }
  pump (itemsFailed kBay b ps (stopBegun sABORTED 12 (loseBolter kBay b (loseHoist kBay b s4))))

/-- Retire a Hoist slice. -/
def retireHoist (b : Nat) (s : State) : State :=
  if isRetired s kHoist b then s
  else loseHoist kHoist b (markRetired kHoist b (s.onEng fun e => { e with hoists := kput .off e.hoists b .retired }))

/-- Retire a Bolter slice. -/
def retireBolter (b : Nat) (s : State) : State :=
  if isRetired s kBolter b then s
  else loseBolter kBolter b (markRetired kBolter b (s.onEng fun e => { e with bolters := kput .off e.bolters b .retired }))

/-- A Sluice is retired: its moves are abandoned and its queue passes to the Sluice of the next quarter (Tables 16.7 and 16.9). -/
def retireSluice (q : Nat) (s : State) : State :=
  if isRetired s kSluice q then s
  else
    let mine := (s.store.pages.filter fun p => p.2.mig && pageQuarter p.1 = q).map (·.1)
    mine.foldl (fun s p => abandonMove p s) (markRetired kSluice q s)

/-- A unit is permanent, or is named by RETIRE (Table 16.7). -/
def retireUnit (kind unit : Nat) (s : State) : State :=
  let s1 :=
    if kind = kBay || kind = kCols then decideMapOut unit s
    else if kind = kLane || kind = kQuern then retireLane true unit s
    else if kind = kHoist then retireHoist unit s
    else if kind = kBolter then retireBolter unit s
    else if kind = kDdr then pendDdr unit s
    else if kind = kNand then retireNand unit s
    else if kind = kSluice then retireSluice unit s
    else if kind = kMillpond then retireMillpond unit s
    else if kind = kPort then retirePort unit s
    else if kind = kSerdes then retireSerdes unit s
    else if kind = kIsland then retireIsland unit s
    else if kind = kHalf then retireHalf unit s
    else s
  pump s1

end Sys2Proof.Machine
end

