-- ==== Sys2Proof/Machine/Startup.lean ====
section
/-! DEFINITION. The audit log, image verification, the two resets and the steps of start-up (R11, R48, R59-R62, R89, R99, R291, R368, R398, R401, R420, R435, R442, R454-R459, R477-R482). -/

namespace Sys2Proof.Machine

/-! ### Audit log (R368, R369) -/

/-- AUDIT_WARN percent of 130,560 entries. -/
def auditWarnAt (s : State) : Nat := cfg s 0x0D0200 19 13 * 130560 / 100

/-- An entry can be appended now: the NOR link is up, and a sector that is needed has been erased. -/
def auditReady (s : State) : Bool := !(s.nor.auditErasing && s.nor.auditNext % 512 = 0)

/-- Bytes 0-95 of an entry (Table 13.9). -/
def auditBytes (e : AuditEnt) : List Byte :=
  leBytes 8 e.idx ++ leBytes 8 e.ts ++ leBytes 4 e.boot ++ leBytes 2 e.node ++ leBytes 1 e.role
  ++ leBytes 1 e.status ++ leBytes 2 e.fop ++ leBytes 1 e.keySlot ++ leBytes 1 e.half ++ leBytes 4 e.cseq
  ++ padTo 32 e.pdigest ++ padTo 32 e.prev

/-- Append an entry: chained to the one before; a new sector begins the erase of the next; the warning is raised once. -/
def auditAppend (node role status fop keySlot cseq : Nat) (params : List Byte) (s : State) : State :=
  let n := s.nor
  let e0 : AuditEnt := {
    idx := n.auditNext, ts := now s, boot := n.boot, node := node, role := role, status := status, fop := fop,
    keySlot := keySlot, half := halfInCharge s, cseq := cseq, pdigest := sha256 params, prev := n.lastHash, hash := [] }
  let e := { e0 with hash := sha256 (auditBytes e0) }
  let s1 := s.onNor fun n => { n with
    audit := n.audit ++ [e], auditNext := n.auditNext + 1, lastHash := e.hash,
    auditErasing := n.auditErasing || n.auditNext % 512 = 0 }
  if !s1.nor.auditWarned && decide (auditWarnAt s1 ≤ s1.nor.auditNext - s1.nor.auditAcked) then
    event { cls := 10, code := 4, force := true } (s1.onNor fun n => { n with auditWarned := true })
  else s1

/-! ### Images (R397, R398, R400) -/

/-- FW_FLOOR. -/
def fwFloor (s : State) : Nat := s.nor.floorSteps * 2 ^ 56

/-- The header of an image; of the factory's, which the maker fixes (log entry 3). -/
def imgHeader (i : ImgSlot) : List Byte := if i.bytes.isEmpty && i.istate ≠ 0 then Config.factoryHeader else i.bytes
def imgVersion (i : ImgSlot) : Nat := field (imgHeader i) 8 8
def imgFloor (i : ImgSlot) : Nat := field (imgHeader i) 16 8
def imgDigest (i : ImgSlot) : List Byte := slice (imgHeader i) 32 32

/-- The verification of R398. The image that the factory ships is valid (log entry 3). -/
def imageOk (s : State) (i : ImgSlot) : Bool :=
  if i.bytes.isEmpty then i.istate = 4
  else
    decide (i.bytes.length = 448 + field i.bytes 4 4)
    && Config.rsaVerify Config.makerModulus (i.bytes.take 64) (slice i.bytes 64 384)
    && slice i.bytes 32 32 = sha256 (i.bytes.drop 448)
    && field i.bytes 24 4 = Config.stepping.toNat
    && decide (fwFloor s ≤ imgVersion i) && decide (imgFloor i ≤ imgVersion i)

def imgSlot (s : State) (k : Nat) : ImgSlot := kget {} s.nor.images k

/-- The slot the ROM boots: the active one, else the other (R398). -/
def bootSlot (s : State) : Option Nat :=
  let a := s.nor.actSlot
  if imageOk s (imgSlot s a) then some a else if imageOk s (imgSlot s (1 - a)) then some (1 - a) else none

/-! ### Straps (R11, R392) -/

/-- A word with its strap fields loaded from a stored value. -/
def loadStrap (a w : Nat) (s : State) : State :=
  match regAt a with
  | some r =>
    let m := r.mask (·.strap)
    cwStore a ((cwRaw s a ^^^ (cwRaw s a &&& m)) ||| (w &&& m)) s
  | none => s

/-- Step 4 of Table 17.2: every strap field from the NOR; the words in effect follow their next values at a power-up reset. -/
def loadStraps (powerUp : Bool) (s : State) : State :=
  let home := homeIndex s
  let node := nodeId s
  let exts := mapExtents s
  let s1 := s.nor.straps.foldl (fun s p => loadStrap p.1 p.2.toNat s) s
  let next := cwRaw s1 0x0C0000
  let tnext := cfg s1 0x020000 62 42
  cwSetField 0x020000 41 21 (if powerUp then tnext else exts)
    (cwSetField 0x0C0000 61 48 (if powerUp then bits next 29 16 else home)
      (cwSetField 0x0C0000 47 32 (if powerUp then bits next 15 0 else node) s1))

/-! ### Resets (R454, Table 17.1) -/

/-- What persists of a Millpond's blocks: erase counts, bad and system blocks (R62). -/
def keptBlocks (s : State) : KMap Millpond :=
  let blkKept (b : Nat × Blk) : Nat × Blk :=
    (b.1, { erases := b.2.erases, st := if b.2.st = .bad || b.2.st = .system then b.2.st else .free })
  let one (m : Nat × Millpond) : Nat × Millpond :=
    (m.1, { blocks := (m.2.blocks.map blkKept).filter fun b => decide (b.2 ≠ {}),
            wear80 := m.2.wear80, wear100 := m.2.wear100 })
  s.store.millponds.map one

/-- What no reset touches: the NOR, what persists of the NAND blocks, and the model's own fields. -/
def blank (s : State) : State :=
  { pending := s.pending, nor := s.nor, wire := s.wire, free := s.free, sec := { drbg := s.sec.drbg },
    store := { millponds := keptBlocks s } }

/-- The end of the injections under way is logged (R450). -/
def endInjections (s : State) : State :=
  (s.gov.injects.filter fun i => i.2.live).foldl (fun s i =>
    (hlogWrite { cls := 12, code := 1, kind := i.2.kind, unit := i.2.unit, injected := true, decision := true } s).2) s

/-- The power-up reset: everything but the NOR and the NAND's blocks takes its reset value, and the boot counts (R434). -/
def powerUpReset (cause : Nat) (b : Board) (s : State) : State :=
  let s0 := blank (endInjections s)
  let s1 := s0.onNor fun n => { n with
    boot := n.boot + 1, runSlot := none,
    hist := n.hist.map fun h => (h.1, { h.2 with boots := ((false, 0) :: h.2.boots).take 4 }) }
  s1.onPwr fun _ => { pwrGood := true, resetN := s.pwr.resetN, tap := s.pwr.tap, board := b, resetCause := cause }

/-- An EXTEST-class instruction holds start-up at step 1 (R480). -/
def tapHolds (s : State) : Bool :=
  !(s.pwr.tap = .bypass || s.pwr.tap = .idcode || s.pwr.tap = .samplePreload)

/-- The device reset: the rows of Table 17.1 that are kept stay, and pages whose page-map line could not be corrected stay unusable (R65). A management island that does not run starts again with it (R48), and the test island as the management islands do (DESIGN CHOICE, log entry 33). -/
def deviceReset (cause : Nat) (b : Board) (s : State) : State :=
  let s := endInjections s
  let s0 := blank s
  let s1 := { s0 with
    stats := s.stats,
    store := { millponds := keptBlocks s, mapLost := s.store.mapLost.filter fun x => x.2 = 1 },
    pwr := { pwrGood := true, resetN := true, tap := s.pwr.tap, pstate := .starting, board := b,
             resetCause := cause, devResets := min 65535 (s.pwr.devResets + 1), startStep := if tapHolds s then 0 else 1,
             tsWest := s.pwr.tsWest, tsEast := s.pwr.tsEast, beatRem := s.pwr.beatRem,
             rails := (s.pwr.rails.map fun r => (r.1, ({ vstep := r.2.vstep } : Rail))).filter fun r => decide (r.2 ≠ {}),
             islands := s.pwr.islands.map fun x =>
               (x.1, if (x.1 = 60 ∨ x.1 = 61 ∨ x.1 = 63) ∧ x.2.st = .running then x.2
                 else { step := x.2.step, lockLoss := x.2.lockLoss,
                        st := if x.2.st = .retired then .retired else .off }) },
    core := { serials := s.core.serials, beatRem := s.core.beatRem, waitRem := s.core.waitRem },
    sec := { drbg := s.sec.drbg, mapKey := s.sec.mapKey,
             parts := (s.sec.parts.map fun p => (p.1, ({ keyEpoch := p.2.keyEpoch } : Part))).filter fun p => decide (p.2 ≠ {}) },
    mach := { fence := s.mach.fence, gen := s.mach.gen, genCopy := s.mach.genCopy, unitGen := s.mach.unitGen },
    gov := { ovf := s.gov.ovf, ovfFull := s.gov.ovfFull, ovfPend := s.gov.ovfPend, mappedOut := s.gov.mappedOut,
             mapOutVstep := [],
             units := s.gov.units.map fun u => (u.1, { health := u.2.health, total := u.2.total, spares := u.2.spares,
                                                       lastTs := u.2.lastTs, lastHidx := u.2.lastHidx }) } }
  cwSetField 0x0C0000 61 48 (homeIndex s) (cwSetField 0x0C0000 47 32 (nodeId s)
    (cwSetField 0x020000 41 21 (mapExtents s) s1))

/-! ### Islands at start-up (R43, R48, R475) -/

/-- The reference of an island runs (Table 18.5). -/
def refUp (b : Board) (i : Nat) : Bool :=
  if i < 8 then b.refSdWest
  else if i < 16 then b.refSdEast
  else if i < 32 then b.refSdWest
  else if i < 48 then b.refSdEast
  else if i < 63 then b.refMg else true

/-- An island leaves Off: it locks, or stays Locking where it does not reach Running by the bound of its step (R48). -/
def lockIsland (i : Nat) (s : State) : State :=
  if (island s i).st ≠ .off then s
  else if refUp s.pwr.board i && !s.pwr.board.failedIslands.contains i then
    setIsland i (fun x => { x with st := .running, tries := 0 }) s
  else setIsland i (fun x => { x with st := .locking }) s

def lockIslands (is : List Nat) (s : State) : State := is.foldl (fun s i => lockIsland i s) s

/-- An island is out of use: Held with no tries left, or Retired. -/
def islandGone (s : State) (i : Nat) : Bool :=
  ((island s i).st = .held && decide (3 ≤ (island s i).tries)) || (island s i).st = .retired

/-- No island of a step is still Locking, or Held with tries left (R47, R48). -/
def settled (is : List Nat) (s : State) : Bool :=
  !is.any fun i => (island s i).st = .locking || ((island s i).st = .held && !islandGone s i)

/-- The islands by what they serve (Table 1.8). -/
def stackIslands : List Nat := (List.range 32).map (· + 16)
def ddrIslands : List Nat := (List.range 8).map (· + 48)
def nandIslands : List Nat := (List.range 4).map (· + 56)

/-! ### The steps of Table 17.2: the state each leaves, and whether it has completed -/

/-- Step 1. The test island leaves Off with the management islands, and no step waits for it (DESIGN CHOICE, log entry 33: Table 17.2 gives it no step). -/
def startStep1 (s : State) : State × Bool :=
  if !s.pwr.resetN || tapHolds s then (s, false)
  else
    let s1 := lockIslands [60, 61, 63] s
    (s1, settled [60, 61] s1 && (islandUp s1 60 || islandUp s1 61))

/-- Step 2: the first half to ask takes the charge token (R420). A device reset locks here a management island, and the test island, that did not run. -/
def startStep2 (s0 : State) : State × Bool :=
  let s := lockIslands [60, 61, 63] s0
  let east := if halfUp s 0 && halfUp s 1 then s.pwr.board.eastFirst else halfUp s 1
  if !settled [60, 61] s || (!halfUp s 0 && !halfUp s 1) then (s, false)
  else (s.onMach fun m => { m with
    holder := if east then .east else .west, lastHolder := if east then .east else .west,
    gen := m.gen + 1, genCopy := m.gen + 1, unitGen := m.gen + 1, believesWest := !east, believesEast := east }, true)

/-- The key slots whose MAC fails are treated as empty, each with an audit entry and an event (R387). -/
def checkSlots (s : State) : State :=
  (s.nor.keySlots.filter fun k => !k.2.macOk).foldl (fun s k =>
    let s1 := s.onNor fun n => { n with keySlots := kput {} n.keySlots k.1 {} }
    event { cls := 5, code := 4 } (auditAppend (nodeId s) 0 sFAULT 0 k.1 0 [] s1)) s

/-- Step 3: the NOR link and Novva; recovery where no image passes (R398, R459). -/
def startStep3 (powerUp : Bool) (s : State) : State × Bool :=
  let s1 := lockIsland 62 s
  if !s1.pwr.board.norReadable || !islandUp s1 62 then (s1, false)
  else
    let s2 := checkSlots s1
    let slot := if powerUp then bootSlot s2 else s2.nor.runSlot
    match slot with
    | none => (s2, false)
    | some k =>
      let (key, s3) := if powerUp || s2.sec.mapKey.isEmpty then drbgBytes 64 s2 else (s2.sec.mapKey, s2)
      ((s3.onNor fun n => { n with runSlot := some k }).onSec fun x =>
        { x with nvState := .ready, mapKey := key }, true)

/-- Step 4. -/
def startStep4 (powerUp : Bool) (s : State) : State × Bool :=
  if s.pwr.board.norReadable then (loadStraps powerUp s, true) else (s, false)

/-- The step a unit starts at: the lower of those it reached in the last two boots (R435). -/
def startStepOf (h : Hist) : Nat :=
  match h.boots with
  | _ :: a :: b :: _ => min a.2 b.2
  | _ => 0

/-- A unit's history applied (R435, R442, R443). -/
def applyHist (powerUp : Bool) (s : State) (p : Nat × Hist) : State :=
  let k := p.1 / 65536
  let u := p.1 % 65536
  let h := p.2
  let gone := h.retired || h.pendingRetire
  let s1 := if h.mappedOut then
      (setHealth k u .mappedOut s).onGov fun g =>
        { g with mappedOut := if g.mappedOut.contains u then g.mappedOut else g.mappedOut ++ [u] }
    else if gone then setHealth k u .retired s
    else if powerUp && decide (0 < startStepOf h) then setHealth k u .stepped s else s
  let s2 := if !gone then s1
    else if k = kQuern then s1.onEng fun e => { e with querns := kput .off e.querns u .retired }
    else if k = kHoist then s1.onEng fun e => { e with hoists := kput .off e.hoists u .retired }
    else if k = kBolter then s1.onEng fun e => { e with bolters := kput .off e.bolters u .retired }
    else if k = kMillpond then setMillpond u (fun m => { m with st := .retired }) s1
    else if k = kSerdes then setLane u .retired s1
    else if k = kIsland then setIsland u (fun x => { x with st := .retired }) s1
    else if k = kDdr then setHist p.1 (fun h => { h with retired := true, pendingRetire := false }) s1
    else s1
  let s3 := (setUnitH p.1 (fun x => { x with spares := min 255 (h.spares.map (·.2)).sum }) s2).onHome fun m =>
    { m with waysOut := h.waysOut.foldl (fun w i => kmod 0 w (u * 65536 + i) (· + 1)) m.waysOut }
  if !powerUp then s3
  else
    let st := startStepOf h
    let s4 := match quarterOf k u with
      | some q => setRail q (fun r => { r with vstep := max r.vstep st }) s3
      | none => s3
    match islandOf k u with
    | some i => setIsland i (fun x => { x with step := max x.step st }) s4
    | none => s4

/-- Step 5: the Governor counts, and the history is applied. -/
def startStep5 (powerUp : Bool) (s : State) : State × Bool :=
  let s1 := s.onGov fun g => { g with state := 1 }
  (s1.nor.hist.foldl (applyHist powerUp) s1, true)

/-- Step 6: setpoints; the scratchpad and the arrays hold nothing (R198). -/
def startStep6 (s : State) : State × Bool :=
  (applyRails (s.onCore fun c => { c with scratch := [], chains := [], weights := none, shadow := none }), true)

/-- Step 7: the stack PHY islands, each with its Querns (R291). -/
def startStep7 (s : State) : State × Bool :=
  let s1 := lockIslands stackIslands s
  let up (m : KMap UState) (u : Nat) : KMap UState :=
    if islandUp s1 (16 + u / 8) && decide (kget .off m u ≠ .retired) then kput .off m u .serving else m
  (s1.onEng fun e => { e with querns := (List.range 256).foldl up e.querns },
    settled stackIslands s1 && stackIslands.any (islandUp s1))

/-- A DIMM that R481 accepts. -/
def dimmOk (d : Dimm) : Bool := d.kindOk && decide (0 < d.gib) && decide (4800 ≤ d.mts)

/-- The rate step that does not exceed a DIMM's maximum (R481). -/
def dimmStep (d : Dimm) : Nat := if 6400 ≤ d.mts then 0 else if 5600 ≤ d.mts then 1 else 2

/-- A NAND target that meets R89. -/
def nandOk (t : NandTarget) : Bool :=
  t.pageKiB = 16 && decide (spareNeeded ≤ t.spareB) && within t.pagesPerBlock 256 4096 && within t.blocks 1 65536
  && [1, 2, 4].contains t.planes && decide (t.tRus ≤ 60)

/-- A target that the slice uses: it meets R89 and has the geometry of target 0 of its channel. -/
def nandUsed (t0 t : NandTarget) : Bool :=
  nandOk t && t.pagesPerBlock = t0.pagesPerBlock && t.blocks = t0.blocks && t.planes = t0.planes

/-- The usable targets of a channel, with the blocks of each that 4 TiB allow (R89). -/
def nandTargets (ch : Nat) (ts : List NandTarget) : List MpTarget :=
  match ts with
  | [] => []
  | t0 :: _ =>
    let us := ((ts.take 8).zipIdx).filter fun (x : NandTarget × Nat) => nandUsed t0 x.1
    us.map fun (x : NandTarget × Nat) =>
      { ch := ch, tg := x.2, ppb := x.1.pagesPerBlock, planes := x.1.planes,
        blocks := min x.1.blocks (2 ^ 42 / us.length / (x.1.pagesPerBlock * 16384)) }

/-- The targets of a Millpond slice: channels whose island and which themselves are not retired. -/
def sliceTargets (s : State) (q : Nat) : List MpTarget :=
  if (island s (56 + q)).st = .retired then []
  else (List.range 4).flatMap fun c =>
    if isRetired s kNand (4 * q + c) then [] else nandTargets c (s.pwr.board.nand.getD (4 * q + c) [])

/-- The largest MAP_EXTENTS whose reservation fits half of T2 (R60). -/
def fitExtents (s : State) : Nat :=
  let half := t2Total s * 4096 / 2 / 65536 * 65536
  let fixed := ((List.range 4).map fun q => mpSlots (millpond s q) * 8 + mpBlocks (millpond s q) * 16).sum
  (half - fixed) / 32768 / 1024 * 1024

/-- The bad and the system blocks that the targets' own records name. -/
def markBlocks (s : State) (q : Nat) (bs : KMap Blk) : KMap Blk :=
  (List.range 4).foldl (fun bs c => ((s.pwr.board.nand.getD (4 * q + c) []).zipIdx).foldl (fun bs (x : NandTarget × Nat) =>
    let key (b : Nat) : Nat := (c * 8 + x.2) * 65536 + b
    x.1.system.foldl (fun bs b => kmod {} bs (key b) fun k => { k with st := .system })
      (x.1.bad.foldl (fun bs b => kmod {} bs (key b) fun k => { k with st := .bad }) bs)) bs) bs

/-- The NAND targets of each Millpond slice that is still Off, as their parameter pages give them (R89). SPARE_BLOCKS is the reserved eighth less the bad and the system blocks; the blocks of that eighth stand in the free pool too (DESIGN CHOICE, log entry 36: R90 does not split the eighth). -/
def findTargets (s : State) : State :=
  (List.range 4).foldl (fun s q => if (millpond s q).st ≠ .off then s else setMillpond q (fun m =>
    let m' := { m with targets := sliceTargets s q, blocks := markBlocks s q m.blocks }
    { m' with spares := mpBlocks m' / 8 - (m'.blocks.filter fun b => b.2.st = .bad || b.2.st = .system).length }) s) s

/-- Step 8: DDR5 channels, the T2 reservation, the page map written invalid (R59, R60, R62, R442, R481, R482). -/
def startStep8 (s : State) : State × Bool :=
  let s1 := lockIslands ddrIslands s
  let pop := (List.range 8).filter fun d =>
    islandUp s1 (48 + d) && !isRetired s1 kDdr d && dimmOk (s1.pwr.board.dimms.getD d {})
  if !settled ddrIslands s1 || pop.isEmpty then (s1, false)
  else
    let gib := (pop.map fun d => (s1.pwr.board.dimms.getD d {}).gib).min?.getD 0
    let s2 := pop.foldl (fun s d =>
      setIsland (48 + d) (fun x => { x with step := max x.step (dimmStep (s.pwr.board.dimms.getD d {})) }) s) s1
    let s3 := (findTargets s2).onStore fun st => { st with
      populated := pop, unitsPerChannel := gib * 262144, pages := [], mapCache := [], lineCache := [] }
    let fit := fitExtents s3
    let s4 := if t2Total s3 < 2 * reservation s3 then
        event { cls := 10, code := 2, detail := fit, force := true } (cwSetField 0x020000 41 21 fit s3)
      else s3
    (s4.onStore fun st => { st with reserved := reservation s4 }, true)

/-- Each target that a slice does not use is reported (R89), by an event whose class and code are free (log entry 37: Table 16.3 has none for it). -/
def reportTargets (s : State) : State :=
  (List.range 16).foldl (fun s ch =>
    let ts := s.pwr.board.nand.getD ch []
    match ts with
    | [] => s
    | t0 :: _ =>
      if !islandUp s (56 + ch / 4) || isRetired s kNand ch then s
      else (((ts.take 8).zipIdx).filter fun (x : NandTarget × Nat) => !nandUsed t0 x.1).foldl (fun s x =>
        let (v, s1) := freeVal s
        event { cls := v.toNat % 13, code := v.toNat / 16 % 16, kind := kNand, unit := ch, detail := x.2 } s1) s) s

/-- Step 9: the NAND islands; the slices report the targets they do not use and scan (R89, R99). -/
def startStep9 (s : State) : State × Bool :=
  let s1 := findTargets (lockIslands nandIslands s)
  let s2 := (List.range 4).foldl (fun s q =>
    let m := millpond s q
    if m.st ≠ .off || m.targets.isEmpty || !islandUp s (56 + q) then s
    else setMillpond q (fun m => { m with st := .scanning }) s) s1
  if settled nandIslands s1 then (reportTargets s2, true) else (s2, false)

/-- A port comes up from Off: its lanes come into service and its links train (R103; Table 17.5, step 8). -/
def portOn (s : State) (p : Nat) : State :=
  if !(islandUp s (2 * p) && islandUp s (2 * p + 1)) then s
  else
    let s1 := if portMode s p = 0 then s else lanesOn p s
    (List.range 4).foldl (fun s i => if (link s (4 * p + i)).st = .off then reformLink (4 * p + i) s else s) s1

/-- Step 10: the MAC and SerDes islands, and the ports whose islands run (R103). -/
def startStep10 (s : State) : State × Bool :=
  let s1 := lockIslands (List.range 16) s
  ((List.range 8).foldl portOn s1, settled (List.range 16) s1)

/-! ### Running start-up -/

/-- Mark a step completed. -/
def stepped (n : Nat) (s : State) : State := s.onPwr fun p => { p with startStep := max p.startStep n }

/-- Steps 7 to 10, which go on side by side once step 6 is complete; each is left when it has completed. -/
def startTail (s : State) : State :=
  let go (n : Nat) (f : State → State × Bool) (s : State) : State :=
    if s.pwr.tail.contains n then s
    else
      let r := f s
      if r.2 then stepped n (r.1.onPwr fun p => { p with tail := p.tail ++ [n] }) else r.1
  go 10 startStep10 (go 9 startStep9 (go 8 startStep8 (go 7 startStep7 s)))

/-- Start-up from where it stands, as far as it goes (R457). While no image runs since power-up, it is a power-up reset's. -/
def runStart (s : State) : State :=
  let powerUp := s.nor.runSlot.isNone
  let go (n : Nat) (f : State → State × Bool) (x : State × Bool) : State × Bool :=
    if !x.2 || decide (n ≤ x.1.pwr.startStep) then x
    else
      let r := f x.1
      if r.2 then (stepped n r.1, true) else r
  let r := go 6 startStep6 (go 5 (startStep5 powerUp) (go 4 (startStep4 powerUp) (go 3 (startStep3 powerUp)
    (go 2 startStep2 (go 1 startStep1 (s, true))))))
  if r.2 then startTail r.1 else r.1

/-- The cause of a start-up that cannot go on (R459); none where it can, or only waits. -/
def haltCause (s : State) : Option Nat :=
  if s.pwr.startStep ≤ 1 then
    if [60, 61].all (islandGone s) then some 4 else none
  else if s.pwr.startStep = 2 then
    if !s.pwr.board.norReadable || islandGone s 62 then some 3
    else if islandUp s 62 && s.nor.runSlot = none && bootSlot s = none then some 2 else none
  else if s.pwr.startStep < 6 then none
  else if !s.pwr.tail.contains 7 && stackIslands.all (islandGone s) then some 5
  else if !s.pwr.tail.contains 8 && settled ddrIslands s && ddrIslands.all (fun i => (island s i).st ≠ .off) then some 1
  else none

end Sys2Proof.Machine
end

