-- ==== Sys2Proof/Machine/Felset.lean ====
section
/-! DEFINITION. Felset: the command and reply records, the checks of Table 13.3 in order, the audit of a command, and the opcodes of group 0x00 (R350-R369, R390, R396). -/

namespace Sys2Proof.Machine

/-! ### What a command is and what it answers -/

/-- The opcode lists of R359. -/
inductive FsKind where
  | read | install | sleep | restart | service
  deriving DecidableEq, Repr

/-- DETAIL of a reply that names no field (Table 13.2). -/
def noDetail : Nat := 0xFFFFFFFF

/-- The outcome of a command: the state it leaves, its status and DETAIL, its reply data, whether the reply waits for the end of a wake (R462), the line that the command must wait for before it can be executed, and what follows the reply. -/
structure FsRes where
  st : State
  status : Nat := 0
  detail : Nat := noDetail
  data : List Byte := []
  held : Bool := false
  wait : Option Nat := none
  after : State → State := id

/-- A command as Table 13.5 gives it: FOP, the PLEN its fields define, the Log column, its list in R359, whether it runs with FSID 0, whether its FOP is assigned, its right (R366), the rules of its parameters with the byte offset of the field each names, and its effect. -/
structure FsOp where
  fop : Nat
  plen : Nat
  audited : Bool := false
  kind : FsKind := .service
  free : Bool := false
  assigned : Bool := true
  rights : FSession → State → Bool
  checks : FSession → State → List (Nat × Bool) := fun _ _ => []
  body : FSession → State → FsRes

def fsOk (s : State) (data : List Byte := []) : FsRes := { st := s, data := data }
def fsFail (s : State) (status : Nat) : FsRes := { st := s, status := status }
def fsBad (s : State) (off : Nat) : FsRes := { st := s, status := sBAD, detail := off }

/-- The rule of reserved bytes: the first that is not zero (R12). -/
def resZero (c : FsCmd) (off n : Nat) : Nat × Bool :=
  match (List.range n).find? fun i => prm c (off + i) 1 ≠ 0 with
  | some i => (off + i, false)
  | none => (off, true)

/-- The lowest offset of a field that breaks a rule. -/
def firstBad (l : List (Nat × Bool)) : Option Nat := ((l.filter fun p => !p.2).map (·.1)).min?

/-! ### Rights (Table 13.6) -/

def isInstaller (se : FSession) (_ : State) : Bool := se.role = 2
def isMaker (se : FSession) (_ : State) : Bool := se.role = 3
def anyRole (_ : FSession) (_ : State) : Bool := true
def opOrInst (se : FSession) (_ : State) : Bool := se.role = 1 || se.role = 2
def instOrMaker (se : FSession) (_ : State) : Bool := se.role = 2 || se.role = 3

/-- The partition lies in the operator's PMASK. -/
def inPmask (se : FSession) (s : State) (p : Nat) : Bool :=
  decide (p < 32) && bit ((kget {} s.nor.keySlots se.slot).pmask.toNat) p

/-- O* of Table 13.5: the installer, or an operator with every partition concerned in its PMASK. -/
def starRight (ps : State → List (Option Nat)) (se : FSession) (s : State) : Bool :=
  se.role = 2 || (se.role = 1 && (ps s).all fun p => match p with | some n => inPmask se s n | none => false)

/-- The owner of an extent. -/
def extOwner (s : State) (e : Nat) : Option Nat :=
  let x := extent s e
  if x.xstate = 0 || x.failed then none else some x.part

/-- The owner of the extent that an address of this YM9 lies in. -/
def addrOwner (s : State) (a : Nat) : Option Nat :=
  if a / 2 ^ 50 = homeIndex s then extOwner s (extentOf (a % 2 ^ 50)) else none

/-! ### Records (Tables 13.1 and 13.2) -/

/-- A command record with its TAG bytes taken as zero. -/
def cmdBytes (fop : Nat) (c : FsCmd) : List Byte :=
  [0x7F] ++ leBytes 1 c.len ++ [c.fflags, c.res3] ++ leBytes 4 c.cseq.toNat ++ leBytes 2 fop ++ leBytes 2 c.plen
  ++ leBytes 4 c.fsid.toNat ++ List.replicate 16 0 ++ padTo 8 c.params

/-- LOAD_LEVEL of a reply while `q` records wait at the engine (R352). -/
def fsLevel (q status : Nat) : Nat := if status = sRETRY then 15 else min 14 (15 * q / 64)

/-- A reply record with its TAG bytes taken as zero. -/
def replyBytes (q fop : Nat) (c : FsCmd) (status detail idx : Nat) (data : List Byte) : List Byte :=
  [0x7F] ++ leBytes 1 (5 + (data.length + 7) / 8) ++ leBytes 1 (0x80 + fsLevel q status) ++ leBytes 1 status
  ++ leBytes 4 c.cseq.toNat ++ leBytes 2 fop ++ leBytes 2 data.length ++ leBytes 4 c.fsid.toNat
  ++ List.replicate 16 0 ++ leBytes 4 detail ++ leBytes 4 idx ++ padTo 8 data

/-- The tag of a record under a command key (R355); zeros where no session gives a key. -/
def fsTag (ck record : List Byte) : List Byte :=
  if ck.isEmpty then List.replicate 16 0 else (hmac256 ck record).take 16

def replyRec (q fop : Nat) (c : FsCmd) (ck : List Byte) (status detail idx : Nat) (data : List Byte) : Rec :=
  .felset fop c.cseq.toNat c.fsid.toNat status (fsLevel q status) detail idx
    (fsTag ck (replyBytes q fop c status detail idx data)) data

/-! ### The engine -/

def fsession (s : State) (id : Nat) : FSession := kget {} s.sec.sessions id
def setFsession (id : Nat) (f : FSession → FSession) (s : State) : State :=
  s.onSec fun x => { x with sessions := kmod {} x.sessions id f }

/-- A command engine answers: of the half that holds the token or moves it; after an arbiter fault each for itself (R421). -/
def fsAlive (s : State) : Bool :=
  if s.mach.arbFault then islandUp s 60 || islandUp s 61 else decide (s.mach.holder ≠ .none)

/-- The record has been taken from what its context delivered. -/
def takeFelset (c : FsCmd) (s : State) : State :=
  setCtx c.node (fun x => { x with inbox := x.inbox.eraseP fun d => d.op = 0x7F && d.tag = c.cseq.toNat }) s

/-- Send a reply in the KT session it belongs to, if that is still there (R350, R357). -/
def fsSend (n : Nat) (rcd : Rec) (s : State) : State :=
  if (ctx s n).live then sendRec n rcd true true s else s

/-- Send a reply, and keep it as its session's stored reply where it becomes that. -/
def fsReply (n : Nat) (store : Bool) (rcd : Rec) (s : State) : State :=
  match rcd with
  | .felset _ cseq fsid _ _ _ _ _ _ =>
    fsSend n rcd (if store then
        setFsession fsid (fun x => if x.live then { x with lastCseq := cseq, stored := some rcd } else x) s
      else s)
  | _ => s

/-- Answer a command; from step 4 on every status but RETRY becomes the session's stored reply (R356). -/
def fsAnswer (fop : Nat) (c : FsCmd) (ck : List Byte) (store : Bool) (idx : Nat) (r : FsRes) : State :=
  let rcd := replyRec r.st.sec.waiting.length fop c ck r.status r.detail idx r.data
  if r.held then r.after (r.st.onPwr fun p => { p with wakeReplies := p.wakeReplies ++ [(c.node, store, rcd)] })
  else r.after (fsReply c.node (store && decide (r.status ≠ sRETRY)) rcd
    (if r.status = sRETRY then bump (aFS 5) r.st else r.st))

/-- The low half of the index an audit entry takes now. -/
def auditLow (s : State) : Nat := s.nor.auditNext % 2 ^ 32

/-- The NOR takes an entry now. -/
def auditOpen (s : State) : Bool := auditReady s && islandUp s 62

/-- ROLE and KEY_SLOT of an audit entry (Table 13.9). -/
def auditAs (fop : Nat) (c : FsCmd) (se : FSession) (status : Nat) (s : State) : State :=
  auditAppend c.node se.role status fop (if se.role = 0 then 0xFE else se.slot) c.cseq.toNat c.params s

/-- Log a DENIED of step 2 or step 8, at most one per context per 100 ms (R368). -/
def auditDenied (fop : Nat) (c : FsCmd) (se : FSession) (s : State) : Nat × State :=
  let due := match (ctx s c.node).deniedAt with | some t => elapsed s t 100000000 | none => true
  if due && auditOpen s then
    (auditLow s, setCtx c.node (fun x => { x with deniedAt := some (now s) }) (auditAs fop c se sDENIED s))
  else (noDetail, s)

/-- Step 1 of Table 13.3. -/
def fsForm (o : FsOp) (c : FsCmd) : Bool :=
  c.len = 4 + (c.plen + 7) / 8 && c.params.length = c.plen && c.plen = o.plen && c.fflags = 0 && c.res3 = 0
  && (c.fsid ≠ 0 || (c.cseq = 0 && c.tag.all (· = 0)))

/-- Step 6: what R359 and R398 permit. -/
def fsPermitted (o : FsOp) (s : State) : Bool :=
  (match s.pwr.pstate with
    | .inService => true
    | .furlEntry | .furl | .waking => o.kind = .read || o.kind = .sleep || o.kind = .restart
    | _ => o.kind = .read || o.kind = .install || o.kind = .restart)
  && !(s.sec.nvState = .lost && (o.audited || o.fop = 0x0001))
  && !(s.sec.nvState = .recovery && [0x0004, 0x0006, 0x0B00, 0x0B04, 0x0B05].contains o.fop)

/-- Steps 4 to 10: the outcome, and whether step 8 refused. -/
def fsOutcome (o : FsOp) (se : FSession) (s : State) : FsRes × Bool :=
  if !o.assigned then (fsFail s sBAD, false)
  else if (s.mach.holder = .transfer && !s.mach.arbFault) || (o.audited && !auditReady s)
      || decide (64 ≤ s.sec.waiting.length) then (fsFail s sRETRY, false)
  else if !fsPermitted o s then (fsFail s sNOSERV, false)
  else if s.mach.arbFault && o.audited then (fsFail s sDEGRADED, false)
  else if !o.rights se s then (fsFail (bump (aFS 4) s) sDENIED, true)
  else match firstBad (o.checks se s) with
    | some off => (fsBad s off, false)
    | none =>
      let r := o.body se s
      if r.status = sRETRY || r.wait.isSome then (r, false)
      else
        let h := halfInCharge s
        ({ r with st := bump (aFS 0) (r.st.onSec fun x => { x with lastFop := kput 0 x.lastFop h o.fop }) }, false)

/-- The command in execution waits for a line: it has waited since it was first taken up. -/
def keepWaiting (fop : Nat) (c : FsCmd) (line : Nat) (s : State) : State :=
  s.onSec fun x => { x with hold := some { fop := fop, cmd := c, since := x.going.getD (now s), line := line } }

/-- Execute a command (R360): an audited command whose entry cannot be appended is discarded and answered INTERNAL_FAULT. -/
def fsExecute (o : FsOp) (c : FsCmd) (se : FSession) (ck : List Byte) (s : State) : State :=
  let (r, refused) := fsOutcome o se s
  let store := decide (c.fsid ≠ 0)
  match r.wait with
  | some l => keepWaiting o.fop c l r.st
  | none =>
    if r.status = sRETRY then fsAnswer o.fop c ck store noDetail r
    else if o.audited then
      if !islandUp s 62 then fsAnswer o.fop c ck store noDetail (fsFail s sFAULT)
      else fsAnswer o.fop c ck store (auditLow r.st) { r with st := auditAs o.fop c se r.status r.st }
    else if refused then
      let (i, s1) := auditDenied o.fop c se r.st
      fsAnswer o.fop c ck store i { r with st := s1 }
    else fsAnswer o.fop c ck store noDetail r

/-- A Felset record goes through the checks of Table 13.3 and is executed. -/
def fsTake (o : FsOp) (c : FsCmd) (s : State) : State :=
  if !(ctx s c.node).live || !fsAlive s then s
  else
    let s0 := takeFelset c s
    let se := fsession s0 c.fsid.toNat
    let own := c.fsid ≠ 0 && se.live && se.node = c.node
    let ck := if own then se.ck else []
    let tagOk := c.tag = fsTag ck (cmdBytes o.fop c)
    if !c.mgmt then fsAnswer o.fop c ck false noDetail (fsFail s0 sDENIED)
    else if !fsForm o c then fsAnswer o.fop c ck false noDetail (fsFail s0 sBAD)
    else if (c.fsid = 0 && !o.free) || (c.fsid ≠ 0 && !(own && tagOk)) then
      let s1 := bump (aFS 2) s0
      let s2 := if own && !tagOk then event { cls := 5, code := 2, kind := kNode, unit := c.node } s1 else s1
      let (i, s3) := auditDenied o.fop c {} s2
      fsAnswer o.fop c ck false i (fsFail s3 sDENIED)
    else if c.fsid = 0 then fsExecute o c {} [] s0
    else
      let s1 := setFsession c.fsid.toNat (fun x => { x with lastUse := now s0 }) s0
      if c.cseq.toNat = (se.lastCseq + 1) % 2 ^ 32 then fsExecute o c se ck s1
      else match (if c.cseq.toNat = se.lastCseq then se.stored else none) with
        | some rcd => fsSend c.node rcd (bump (aFS 1) s1)
        | none => fsAnswer o.fop c ck false noDetail (fsFail (bump (aFS 3) s0) sDENIED)

/-- The engine executes an earlier record, or has records waiting: a new one waits behind (R24). -/
def fsBusy (s : State) : Bool := s.sec.going.isNone && (s.sec.hold.isSome || !s.sec.waiting.isEmpty)

/-- The engine is through with the record that it took up again. -/
def fsGone (s : State) : State := if s.sec.going.isNone then s else s.onSec fun x => { x with going := none }

/-- A Felset record reaches the command engine: it is executed, or waits its turn, 64 at most (R24, R352, R360). -/
def runFelset (o : FsOp) (c : FsCmd) (s : State) : State :=
  if fsBusy s && decide (s.sec.waiting.length < 64) && (ctx s c.node).live && fsAlive s then
    (takeFelset c s).onSec fun x => { x with waiting := x.waiting ++ [(o.fop, c)] }
  else fsGone (fsTake o c s)

/-- A record with an FOP that is not assigned (R12, step 4 of Table 13.3). -/
def unknownFop (fop : Nat) (c : FsCmd) (s : State) : State :=
  runFelset { fop := fop, plen := c.plen, assigned := false, rights := anyRole, body := fun _ s => fsFail s sBAD } c s

/-! ### Sessions (R353-R357) -/

/-- FS_HELLO. -/
def execFsHello (c : FsCmd) (s : State) : Host.Outcome State Fault Refusal :=
  .next (runFelset
    { fop := 0x0000, plen := 0, kind := .read, free := true, rights := anyRole, body := fun _ s =>
      let (n, s1) := drbgBytes 32 s
      fsOk (setCtx c.node (fun x => { x with nonce := some (n, now s) }) s1) n } c s)

/-- Open sessions. -/
def openSessions (s : State) : List (Nat × FSession) := s.sec.sessions.filter fun p => p.2.live

/-- The modulus that KEY_SLOT names for a role; none where the slot holds no key of that role. -/
def slotModulus (slot role : Nat) (s : State) : Option (List Byte) :=
  if slot = 0xFF then (if role = 3 then some Config.makerModulus else none)
  else
    let k := kget {} s.nor.keySlots slot
    if k.role = role && role ≠ 0 then some k.modulus else none

/-- The effect of FS_OPEN (R354): the nonce is consumed whatever the checks find. -/
def fsOpenBody (c : FsCmd) (s : State) : FsRes :=
  if 64 ≤ (openSessions s).length || 4 ≤ ((openSessions s).filter fun p => p.2.node = c.node).length then fsFail s sNORES
  else
    let slot := prm c 0 1
    let role := prm c 1 1
    let nonce := prmBytes c 4 32
    let ehalf := prmBytes c 36 384
    let fresh := match (ctx s c.node).nonce with
      | some (n, t) => decide (n = nonce) && decide (now s ≤ t + 10000000000)
      | none => false
    let s1 := setCtx c.node (fun x => { x with nonce := none }) s
    let signed := nonce ++ leBytes 2 c.node ++ leBytes 1 role ++ leBytes 1 slot ++ ehalf
    match slotModulus slot role s, Config.rsaDecrypt ehalf with
    | some m, some h =>
      if fresh && Config.rsaVerify m signed (prmBytes c 420 384) then
        let (d, s2) := drbgBytes 32 s1
        let id := firstFree 65 1 ((openSessions s).map (·.1))
        let ck := kdf (h ++ d) "LZ FELSET CK".toList
          (leBytes 4 id ++ nonce ++ leBytes 2 c.node ++ leBytes 1 role ++ leBytes 1 slot)
        let dh := slice (Config.rsaEncrypt m d) 0 384
        let sig := slice (Config.rsaSign (leBytes 4 id ++ nonce ++ dh)) 0 384
        let new : FSession := { live := true, node := c.node, role := role, slot := slot, ck := ck, lastUse := now s }
        fsOk (setFsession id (fun _ => new) s2) (leBytes 4 id ++ leBytes 4 0 ++ dh ++ sig)
      else fsFail s1 sDENIED
    | _, _ => fsFail s1 sDENIED

/-- FS_OPEN (R354, R357). -/
def execFsOpen (c : FsCmd) (s : State) : Host.Outcome State Fault Refusal :=
  .next (runFelset
    { fop := 0x0001, plen := 804, audited := true, kind := .read, free := true, rights := anyRole,
      checks := fun _ _ => [(0, decide (prm c 0 1 < 64) || prm c 0 1 = 0xFF), (1, within (prm c 1 1) 1 3), resZero c 2 2],
      body := fun _ s => fsOpenBody c s } c s)

/-- Forget a session. -/
def closeFsession (id : Nat) (s : State) : State :=
  s.onSec fun x => { x with sessions := kput {} x.sessions id {} }

/-- FS_CLOSE. -/
def execFsClose (c : FsCmd) (s : State) : Host.Outcome State Fault Refusal :=
  .next (runFelset
    { fop := 0x0002, plen := 0, audited := true, kind := .read, rights := anyRole,
      body := fun _ s => fsOk (closeFsession c.fsid.toNat s) } c s)

/-- FS_IDLE_EXPIRY (R357): a session without a command for FS_IDLE seconds closes. -/
def execFsIdleExpiry (fsid : Nat) (s : State) : Host.Outcome State Fault Refusal :=
  .next (if (fsession s fsid).live && elapsed s (fsession s fsid).lastUse (cfg s 0x0D0200 31 20 * 1000000000)
    then closeFsession fsid s else s)

/-! ### Identity and attestation (R390, R396) -/

/-- Table 14.8. -/
def identityRecord (s : State) : List Byte :=
  [1, 0] ++ leBytes 2 (nodeId s) ++ leBytes 2 (homeIndex s) ++ leBytes 2 0 ++ slice Config.deviceId 0 16
  ++ slice (ascii "LZ-YM9-288".toList) 0 16 ++ leBytes 4 Config.stepping.toNat ++ leBytes 4 0
  ++ slice Config.idModulus 0 384 ++ slice Config.makerSig 0 384

/-- IDENTITY. -/
def execIdentity (c : FsCmd) (s : State) : Host.Outcome State Fault Refusal :=
  .next (runFelset
    { fop := 0x0003, plen := 0, kind := .read, free := true, rights := anyRole,
      body := fun _ s => fsOk s (identityRecord s) } c s)

/-- Extents that test true, of a table of extents. -/
def countExt (s : State) (p : Extent → Bool) : Nat := (s.sec.extents.filter fun x => p x.2).length

/-- Extents that a partition owns in XSTATE 1. -/
def extentsOf (s : State) (n : Nat) : Nat := countExt s fun x => x.xstate = 1 && x.part = n

/-- The control words that hold an RW or RW-L field, ascending. -/
def configWords : List Nat :=
  (List.range 0x0F0000).filter fun a => match regAt a with
    | some r => decide (r.mask (fun f => f.acc = .rw || f.acc = .rwl) ≠ 0)
    | none => false

/-- CFG_DIGEST of Table 14.11. -/
def configDigest (s : State) : List Byte :=
  sha256 (configWords.flatMap fun a => match regAt a with
    | some r => leBytes 8 (cwRaw s a &&& r.mask (fun f => f.acc = .rw || f.acc = .rwl))
    | none => [])

/-- SLOTS_DIGEST of Table 14.11. -/
def slotsDigest (s : State) : List Byte :=
  sha256 ((List.range 64).flatMap fun i =>
    let k := kget {} s.nor.keySlots i
    if k.role = 0 then List.replicate 392 0
    else leBytes 1 k.role ++ leBytes 4 k.pmask.toNat ++ leBytes 3 0 ++ slice k.modulus 0 384)

/-- One entry of PARTS (Table 14.11). -/
def partEntry (s : State) (n : Nat) : List Byte :=
  leBytes 1 (b2n (part s n).enabled) ++ leBytes 3 0 ++ leBytes 4 (part s n).keyEpoch ++ leBytes 4 (extentsOf s n)
  ++ leBytes 4 (countExt s fun x => decide (2 ≤ x.xstate) && !x.failed && x.part = n)

/-- The running image. -/
def runningImage (s : State) : ImgSlot := match s.nor.runSlot with | some k => imgSlot s k | none => {}

/-- Ports are in use: the device is in service or asleep. -/
def portsInUse (s : State) : Bool :=
  match s.pwr.pstate with | .starting | .halted | .resetting => false | _ => true

/-- DEG_CAUSE (Table 16.13), from bit 40 up. -/
def degCause (s : State) : List Bool :=
  [portsInUse s && (linksUp s 0).isEmpty, portsInUse s && (linksUp s 1).isEmpty, s.mach.arbFault,
   s.sec.nvState = .lost, !s.gov.mappedOut.isEmpty, s.gov.units.any fun u => u.2.health = .pending,
   s.store.millponds.any fun m => m.2.st = .readOnly || m.2.st = .retired,
   !s.home.waysOut.isEmpty || s.home.slices.any fun x => x.2 = .flushing,
   s.pwr.rails.any fun r => r.2.vOut || r.2.tOut, s.gov.ovfFull, s.core.lostSeq || s.core.lostDma,
   isRetired s kHalf 0 || isRetired s kHalf 1]

/-- Bytes 0-767 of the attestation report (Table 14.11); groups outside SCOPE are zero. -/
def attestBody (c : FsCmd) (se : FSession) (s : State) : List Byte :=
  let scope := prm c 32 4
  let grp (b : Nat) (bs : List Byte) : List Byte := if bit scope b then bs else List.replicate bs.length 0
  let dstate := b2n (inService s) + 2 * b2n (s.pwr.pstate = .furl) + 4 * b2n ((degCause s).any id)
    + 8 * b2n (s.sec.nvState = .recovery)
  let img := runningImage s
  [1] ++ leBytes 3 0 ++ leBytes 4 scope ++ slice Config.deviceId 0 16 ++ prmBytes c 0 32 ++ leBytes 8 (now s)
  ++ leBytes 4 s.nor.boot ++ leBytes 1 dstate ++ leBytes 3 0
  ++ grp 1 (slice Config.romDigest 0 32 ++ imgDigest img ++ leBytes 8 (imgVersion img) ++ leBytes 8 (fwFloor s))
  ++ grp 2 (slice (configDigest s) 0 32)
  ++ grp 3 (slice (slotsDigest s) 0 32 ++ leBytes 8 s.nor.auditNext ++ slice s.nor.lastHash 0 32)
  ++ grp 4 ((List.range 32).flatMap fun n =>
      if se.role = 1 && !inPmask se s n then List.replicate 16 0 else partEntry s n)

/-- ATTEST. -/
def execAttest (c : FsCmd) (s : State) : Host.Outcome State Fault Refusal :=
  .next (runFelset
    { fop := 0x0004, plen := 40, kind := .read, rights := anyRole,
      checks := fun _ _ => [(32, decide (prm c 32 1 < 32)), resZero c 33 7],
      body := fun se s =>
        let b := attestBody c se s
        fsOk (bump (aSEC 6) s) (b ++ slice (Config.rsaSign b) 0 384) } c s)

/-! ### The audit log (R368, R369) -/

/-- AUDIT_READ. -/
def execAuditRead (c : FsCmd) (s : State) : Host.Outcome State Fault Refusal :=
  .next (runFelset
    { fop := 0x0005, plen := 16, kind := .read, rights := anyRole,
      checks := fun _ s => [(0, decide (s.nor.auditBase ≤ prm c 0 8 ∧ prm c 0 8 < s.nor.auditNext)),
        (8, within (prm c 8 2) 1 15 && decide (prm c 0 8 + prm c 8 2 ≤ s.nor.auditNext)), resZero c 10 6],
      body := fun _ s => fsOk s
        ((s.nor.audit.filter fun e => decide (prm c 0 8 ≤ e.idx ∧ e.idx < prm c 0 8 + prm c 8 2)).flatMap fun e =>
          auditBytes e ++ slice e.hash 0 32) } c s)

/-- AUDIT_HEAD. -/
def execAuditHead (c : FsCmd) (s : State) : Host.Outcome State Fault Refusal :=
  .next (runFelset
    { fop := 0x0006, plen := 0, kind := .read, rights := anyRole,
      body := fun _ s =>
        let b := leBytes 8 s.nor.auditNext ++ slice s.nor.lastHash 0 32 ++ leBytes 4 s.nor.boot ++ leBytes 4 0
        fsOk s (b ++ slice (Config.rsaSign b) 0 384) } c s)

/-- AUDIT_ACK: the warning can be raised again once the count has fallen below it. -/
def execAuditAck (c : FsCmd) (s : State) : Host.Outcome State Fault Refusal :=
  .next (runFelset
    { fop := 0x0007, plen := 8, audited := true, rights := isInstaller,
      checks := fun _ s => [(0, decide (s.nor.auditAcked ≤ prm c 0 8 ∧ prm c 0 8 ≤ s.nor.auditNext))],
      body := fun _ s => fsOk (s.onNor fun n => { n with
        auditAcked := prm c 0 8,
        auditWarned := n.auditWarned && decide (auditWarnAt s ≤ n.auditNext - prm c 0 8) }) } c s)

/-- AUDIT_ERASE_DONE (R369): the erase that began with the sector being written is complete; AUDIT_BASE advances by 512 once the ring is full, and entries lost unacknowledged are counted and reported. -/
def execAuditEraseDone (s : State) : Host.Outcome State Fault Refusal :=
  .next (
    let n := s.nor
    if !n.auditErasing then s
    else
      let base := max n.auditBase (((n.auditNext - 1) / 512 - 254) * 512)
      let lost := (n.audit.filter fun e => decide (e.idx < base ∧ n.auditAcked ≤ e.idx)).length
      let s1 := s.onNor fun n => { n with
        auditErasing := false, auditBase := base, audit := n.audit.filter fun e => decide (base ≤ e.idx) }
      (List.range lost).foldl (fun s _ => event { cls := 10, code := 4, force := true } (bump (aFS 6) s)) s1)

end Sys2Proof.Machine
end

