-- ==== Sys2Proof/Machine/Near.lean ====
section
/-! DEFINITION. The commands of the Querns, the Hoist and the Bolter (chapters 10 to 12): invocation records, and the engines' own steps. -/

namespace Sys2Proof.Machine

/-! ### Querns (R270-R290) -/

/-- Whether a QN_EXEC record is of the operation that a row names: OP of its descriptor, where the address is of this YM9 and OP is assigned; other records end at a check whatever the row. -/
def opNamed (op : Nat) (c : TxnReq) (s : State) : Bool :=
  let a := c.addr.toNat
  decide (a / 2 ^ 50 ≠ homeIndex s) || (let o := readNat s (a % 2 ^ 50) 1; decide (o = op) || decide (7 ≤ o))

/-- A QN_EXEC record of one operation (R270, R274). -/
def qnExec (op : Nat) (c : TxnReq) (s : State) : State := if opNamed op c s then request 0x60 c {} s else s

/-- FILL (R274, Table 10.4). -/
def execFill (c : TxnReq) (s : State) : Host.Outcome State Fault Refusal := .next (qnExec 0 c s)

/-- COPY. -/
def execCopy (c : TxnReq) (s : State) : Host.Outcome State Fault Refusal := .next (qnExec 1 c s)

/-- COMPARE. -/
def execCompare (c : TxnReq) (s : State) : Host.Outcome State Fault Refusal := .next (qnExec 2 c s)

/-- REDUCE (R277). -/
def execReduce (c : TxnReq) (s : State) : Host.Outcome State Fault Refusal := .next (qnExec 3 c s)

/-- DIGEST (R279). -/
def execDigest (c : TxnReq) (s : State) : Host.Outcome State Fault Refusal := .next (qnExec 4 c s)

/-- EC_ENCODE (R288). -/
def execEcEncode (c : TxnReq) (s : State) : Host.Outcome State Fault Refusal := .next (qnExec 5 c s)

/-- EC_COMBINE (R289). -/
def execEcCombine (c : TxnReq) (s : State) : Host.Outcome State Fault Refusal := .next (qnExec 6 c s)

/-- QN_PORTION_DONE (R267, R275): a Quern has worked the portion of an invocation (by its item's number) in a page (by its number). -/
def execQnPortionDone (inv portion : Nat) (s : State) : Host.Outcome State Fault Refusal :=
  .next (if (kget {} s.eng.invs inv).live then pump (qportion inv portion s) else s)

/-- QN_CONTRIB (R282). -/
def execQnContrib (c : TxnReq) (s : State) : Host.Outcome State Fault Refusal := .next (request 0x61 c {} s)

/-- A QN_GROUP record of one PARAM; one with an unassigned PARAM is refused under any of the three rows. -/
def qnGroup (param : Nat) (c : TxnReq) (s : State) : State :=
  if c.param.toNat = param ∨ 3 ≤ c.param.toNat then request 0x62 c {} s else s

/-- QN_GROUP OPEN (R281). -/
def execQnGroupOpen (c : TxnReq) (s : State) : Host.Outcome State Fault Refusal := .next (qnGroup 0 c s)

/-- QN_GROUP DONE (R283). -/
def execQnGroupDone (c : TxnReq) (s : State) : Host.Outcome State Fault Refusal := .next (qnGroup 1 c s)

/-- QN_GROUP ABANDON (R285). -/
def execQnGroupAbandon (c : TxnReq) (s : State) : Host.Outcome State Fault Refusal := .next (qnGroup 2 c s)

/-- QN_ECDELTA (R289). -/
def execQnEcdelta (c : TxnReq) (s : State) : Host.Outcome State Fault Refusal := .next (request 0x63 c {} s)

/-! ### Hoist (R300-R319) -/

/-- HS_LOOKUP (R300). -/
def execHsLookup (c : TxnReq) (s : State) : Host.Outcome State Fault Refusal := .next (request 0x64 c {} s)

/-- HS_GRAD (R312). -/
def execHsGrad (c : TxnReq) (s : State) : Host.Outcome State Fault Refusal := .next (request 0x65 c {} s)

/-- HS_ROWGRAD (R312). -/
def execHsRowgrad (c : TxnReq) (s : State) : Host.Outcome State Fault Refusal := .next (request 0x66 c {} s)

/-- An HS_STEP record of one PARAM; one with an unassigned PARAM is refused under any of the four rows. -/
def hsStep (param : Nat) (c : TxnReq) (s : State) : State :=
  if c.param.toNat = param ∨ 4 ≤ c.param.toNat then request 0x67 c {} s else s

/-- HS_STEP OPEN (R315). -/
def execHsStepOpen (c : TxnReq) (s : State) : Host.Outcome State Fault Refusal := .next (hsStep 0 c s)

/-- HS_STEP DONE (R317). -/
def execHsStepDone (c : TxnReq) (s : State) : Host.Outcome State Fault Refusal := .next (hsStep 1 c s)

/-- HS_STEP_CLOSE_DONE (R317, R318): the close of a table's step (by its descriptor's offset) has run. -/
def execHsStepCloseDone (table : Nat) (s : State) : Host.Outcome State Fault Refusal :=
  .next (if (closingItem s table).isSome then pump (closeStep table s) else s)

/-- HS_STEP ABANDON (R318). -/
def execHsStepAbandon (c : TxnReq) (s : State) : Host.Outcome State Fault Refusal := .next (hsStep 2 c s)

/-- HS_STEP END (R318). -/
def execHsStepEnd (c : TxnReq) (s : State) : Host.Outcome State Fault Refusal := .next (hsStep 3 c s)

/-- HOT_REFRESH (R311): a hot slot's REFRESH_MS has passed since its last refresh, or since HOT_EN was set. -/
def execHotRefresh (slot : Nat) (s : State) : Host.Outcome State Fault Refusal :=
  .next (
    let a := 0x090202 + 4 * slot
    if inService s && decide (slot < 16) && decide (cfg s a 63 63 = 1)
        && elapsed s (kget 0 s.eng.hotAt slot) (cfg s a 47 32 * 1000000) then pump (refreshHot slot s)
    else s)

/-! ### Bolter (R329-R345) -/

/-- BL_SEARCH (R333). -/
def execBlSearch (c : TxnReq) (s : State) : Host.Outcome State Fault Refusal := .next (request 0x68 c {} s)

/-- BL_INSERT (R339). -/
def execBlInsert (c : TxnReq) (s : State) : Host.Outcome State Fault Refusal := .next (request 0x69 c {} s)

/-- BL_DELETE (R340). -/
def execBlDelete (c : TxnReq) (s : State) : Host.Outcome State Fault Refusal := .next (request 0x6A c {} s)

/-- BL_MERGE (R342). -/
def execBlMerge (c : TxnReq) (s : State) : Host.Outcome State Fault Refusal := .next (request 0x6B c {} s)

/-- The requester a time limit names: a node, or a stream by its STREAM_ID (which is above every node ID). -/
def namedSrc (node tag : Nat) : Src := if node < 65536 then .agent node else .call node tag

/-- A search's or merge's time is up where half of FLASH_DEADLINE has passed since its admission. -/
def halfGone (it : Item) (s : State) : Bool := elapsed s it.admitted (flashDeadline s / 2)

/-- Mark the time of an invocation as used up; it ends as its rule gives. -/
def cutItem (it : Item) (s : State) : State :=
  pump (updateItem it.id (fun x => { x with search := x.search.map fun t => { t with cut := true } }) s)

/-- BL_TIME_CUT (R335): expansion of a graph search stops. -/
def execBlTimeCut (node tag : Nat) (s : State) : Host.Outcome State Fault Refusal :=
  .next (match s.home.waitq.find? fun x => x.op = 0x68 && x.src = namedSrc node tag && x.tag = tag && x.search.isSome with
    | some it => if halfGone it s then cutItem it s else s
    | none => s)

/-- BL_MERGE_TIME_LIMIT (R342): the merge of an index (by its descriptor's offset) stops. -/
def execBlMergeTimeLimit (index : Nat) (s : State) : Host.Outcome State Fault Refusal :=
  .next (match s.home.waitq.find? fun x => x.op = 0x6B && (match x.search with | some t => decide (t.index = index) | none => false) with
    | some it => if halfGone it s then cutItem it s else s
    | none => s)

end Sys2Proof.Machine
end

