-- ==== Sys2Proof/Machine/Sluice.lean ====
section
/-! DEFINITION. The commands of the store (chapter 3): heat and its sweep, the Sluices' moves, the page map, the Millpond's reads, collection, erases and programs. -/

namespace Sys2Proof.Machine

/-! ### Heat (R71, R72) -/

/-- DECAY_EPOCH (R71): the epoch advances every DECAY_PERIOD; not in Furl (Table 17.3). -/
def execDecayEpoch (s : State) : Host.Outcome State Fault Refusal :=
  .next (if inService s && elapsed s s.store.epochAt (cfg s 0x020000 20 7 * 1000000) then
      s.onStore fun st => { st with epoch := (st.epoch + 1) % 256, epochAt := now s }
    else s)

/-- The pages of a list by rising HEAT, 64 of them at most (R72). -/
def coldest (s : State) (l : List (Nat × PageEnt)) : List Nat :=
  let heat (p : Nat × PageEnt) : Nat := heatNow s.store.epoch p.2
  ((l.mergeSort fun a b => decide (heat a ≤ heat b)).take 64).map (·.1)

/-- HEAT_SWEEP (R72): every valid entry is brought up to date, and the candidate lists of each bay's T1 (0-15) and of T2 (16) formed. -/
def execHeatSweep (s : State) : Host.Outcome State Fault Refusal :=
  .next (if !inService s then s
    else
      let s1 := s.store.pages.foldl (fun s p =>
        editPage p.1 (fun e => { e with heat := heatNow s.store.epoch e, epoch := s.store.epoch }) s) s
      let free := s1.store.pages.filter fun p => !p.2.pin
      let t1 (b : Nat) : List Nat := coldest s1 (free.filter fun p => p.2.tier = 1 && pageBay p.1 = b)
      let lists := (List.range 16).foldl (fun m b => kput [] m b (t1 b))
        (kput [] [] 16 (coldest s1 (free.filter fun p => p.2.tier = 2)))
      s1.onStore fun st => { st with candidates := lists })

/-! ### Moves (R74-R81) -/

/-- The page of a candidate list that is still in its tier, may leave it, and has the lowest HEAT now (R74, R75). -/
def candidate (s : State) (key tier : Nat) : Option Nat :=
  let may (p : Nat) : Bool :=
    let e := page s p
    e.tier = tier && !e.pin && !e.mig
    && !((kget [] s.store.moveQ (pageQuarter p)).any fun r => r.page = p && r.why = .demote)
  let heat (p : Nat) : Nat := heatNow s.store.epoch (page s p)
  ((kget [] s.store.candidates key).filter may).foldl (fun r p => match r with
    | none => some p
    | some x => if heat p < heat x then some p else some x) none

def lowWater (s : State) (tier : Nat) : Nat := if tier = 1 then cfg s 0x020001 31 24 else cfg s 0x020001 23 16

/-- SLUICE_DEMOTE_TRIGGER (R75): the coldest page of the tier that runs short, or of the partition over its quota, is queued for demotion. T2_LOW_WATER is a percentage of the T2 units above the reservation (DESIGN CHOICE, log entry 34: the rule names no base). -/
def execSluiceDemoteTrigger (t : DemoteCause) (s : State) : Host.Outcome State Fault Refusal :=
  .next (
    if !inService s then s
    else match t with
    | .t1 b =>
      if decide (16 ≤ b) || decide (lowWater s 1 * 294912 ≤ bayFree s b * 100) then s
      else (match candidate s b 1 with | some p => requestMove p .demote s | none => s)
    | .t2 =>
      if lowWater s 2 * (t2Total s - s.store.reserved) ≤ t2Free s * 100 then s
      else (match candidate s 16 2 with | some p => requestMove p .demote s | none => s)
    | .quota n tier =>
      if !(tier = 1 || tier = 2) || decide (usedBy s n tier ≤ quota s n tier * 16) then s
      else
        let mine := s.store.pages.filter fun p => p.2.part = n && p.2.tier = tier && !p.2.pin && !p.2.mig
        (match coldest s mine with | p :: _ => requestMove p .demote s | [] => s))

/-- A promotion that finds no free frame in its bay: the bay's coldest page makes way when it is colder by HYSTERESIS (R74). -/
def makeWay (p : Nat) (s : State) : Option Nat :=
  let e := page s p
  let b := pageBay p
  if !quotaRoom s e.part 1 16 || (freeFrame s b).isSome then none
  else match candidate s b 1 with
    | none => none
    | some v =>
      if heatNow s.store.epoch (page s v) + cfg s 0x020001 39 32 < heatNow s.store.epoch e
      then some v else none

/-- A demotion out of a bay's T1 is in progress. -/
def makingWay (b : Nat) (s : State) : Bool :=
  s.store.pages.any fun p => p.2.mig && p.2.tier = 1 && pageBay p.1 = b
    && decide ((kget ({} : Move) s.store.moves p.1).why = .demote)

/-- Take a promotion candidate; none while it waits first in its queue for a frame that is being made free. Where no page makes way it goes from T3 to T2, or leaves the queue (R74). -/
def takePromo (q p : Nat) (s : State) : Option State :=
  let drop (s : State) : State := s.onStore fun st =>
    { st with promo := kput [] st.promo q ((kget [] st.promo q).filter fun x => decide (x ≠ p)) }
  let e := page s p
  if e.tier < 2 || e.pin || e.mig then some (drop s)
  else match makeWay p s with
    | none => some (drop (startMove p .promote s).2)
    | some v =>
      if makingWay (pageBay p) s then none
      else match startMove v .demote s with
        | (true, s1) => some s1
        | (false, _) => some (drop (startMove p .promote s).2)

/-- The requests of a queue for one cause, in order. -/
def queuedFor (s : State) (q : Nat) (w : MoveWhy) : List MoveReq :=
  (kget [] s.store.moveQ q).filter fun r => r.why = w

/-- Take a request out of a queue. -/
def unqueue (q : Nat) (r : MoveReq) (s : State) : State :=
  s.onStore fun st => { st with moveQ := kput [] st.moveQ q ((kget [] st.moveQ q).erase r) }

/-- Start the first of some requests that can start; those that have nothing left to do leave the queue. -/
def startFirst (q : Nat) : List MoveReq → State → Option State
  | [], _ => none
  | r :: rs, s =>
    let s0 := unqueue q r s
    match startMove r.page r.why s0 with
    | (true, s1) => some s1
    | (false, _) => startFirst q rs s

/-- Drop the demotions of a queue that cannot start. -/
def dropStuck (q : Nat) (s : State) : State :=
  s.onStore fun st => { st with
    moveQ := kput [] st.moveQ q ((kget [] st.moveQ q).filter fun r => decide (r.why ≠ .demote)) }

/-- A Sluice that runs a quarter's queue: its own, or that of the next quarter in service (Table 16.7). -/
def sluiceUp (s : State) (q : Nat) : Bool :=
  (List.range 4).any fun i => !isRetired s kSluice ((q + i) % 4)

/-- SLUICE_MOVE_START (R74, R76, R77, R80, R81): the next move by priority. During Furl entry only moves for admitted writes start (R460). -/
def execSluiceMoveStart (q : Nat) (s : State) : Host.Outcome State Fault Refusal :=
  .next (
    if decide (4 ≤ q) || !sluiceUp s q then s
    else if s.pwr.pstate = .furlEntry then (startFirst q (queuedFor s q .takeWrite) s).getD s
    else if !inService s then s
    else match startFirst q (queuedFor s q .evacuate) s with
      | some s1 => s1
      | none => match startFirst q (queuedFor s q .takeWrite) s with
        | some s1 => s1
        | none => match (kget [] s.store.promo q).head?.bind fun p => takePromo q p s with
          | some s1 => s1
          | none => match startFirst q (queuedFor s q .demote) s with
            | some s1 => s1
            | none => dropStuck q s)

/-- MOVE_SWITCH (R75, R76): the copy is complete; more than 64 dirty lines are read again up to three times; then the move switches, an image at the place that its encoding now takes, or is abandoned. -/
def execMoveSwitch (page : Nat) (s : State) : Host.Outcome State Fault Refusal :=
  .next (match moveOf s page with
    | none => s
    | some m =>
      let e := Sys2Proof.Machine.page s page
      let hot := m.why = .demote && decide (promoteHeat s ≤ heatNow s.store.epoch e)
      if 64 < m.dirty.length && decide (m.passes < 3) then
        s.onStore fun st => { st with moves := kmod {} st.moves page fun m => { m with dirty := [], passes := m.passes + 1 } }
      else if 64 < m.dirty.length || hot || pageLost s page || pageUnusable s page then pump (abandonMove page s)
      else match finalPlace page m s with
        | none => pump (abandonMove page s)
        | some (m', s1) =>
          if m'.comp && !m.dirty.isEmpty then pump (abandonMove page s) else pump (switchMove page m' s1))

/-! ### Page map (R64, R65) -/

/-- PAGE_MAP_LINE_FILL (R64, R65): a line of the map is read from T2; an uncorrectable one leaves its eight pages unusable. -/
def execPageMapLineFill (group : Nat) (uncorrectable : Bool) (s : State) : Host.Outcome State Fault Refusal :=
  .next (
    if (kget {} s.store.mapCache group).held || decide (kget 0 s.store.mapLost group ≠ 0) then s
    else if uncorrectable then
      pump (countEvent .t2Uncorrectable kDdr (t2Channel s (mapUnit group)) 0 false
        (s.onStore fun st => { st with mapLost := kput 0 st.mapLost group 1 }))
    else pump (mapTouch group false s))

/-! ### Millpond -/

def freeBlocks (s : State) (q : Nat) : Nat :=
  let m := millpond s q
  (m.targets.map fun t =>
    if m.dead.contains t.ch then 0
    else ((tgBlocks t).filter fun b => (blk m b).st = .free && !blkOut s q b).length).sum

/-- The Governor may decide: it is Deciding, not frozen, and a half holds the token (R421, R443). -/
def canDecide (s : State) : Bool :=
  s.gov.state = 2 && !s.mach.arbFault && (holderHalf s).isSome
  && (s.pwr.pstate = .inService || s.pwr.pstate = .furlEntry)

/-- The NAND channel of a block. -/
def blkChannel (q b : Nat) : Nat := 4 * q + b / 65536 / 8 % 4

/-- A slice short of spares takes no new images (R97). -/
def checkSpares (q : Nat) (s : State) : State :=
  let m := millpond s q
  if m.st = .serving && decide (m.spares * 200 < mpBlocks m) then setMillpond q (fun m => { m with st := .readOnly }) s else s

/-- A block goes bad and is replaced from the spares (R96); a channel with 2 % of its blocks bad is permanent (Table 16.5). -/
def blockBad (q b : Nat) (s : State) : State :=
  let k := blk (millpond s q) b
  if k.st = .bad then s
  else
    let s1 := checkSpares q (setMillpond q (fun m => { m with
      blocks := kput {} m.blocks b { k with st := .bad }, spares := m.spares - 1 }) s)
    let m := millpond s1 q
    let ch := blkChannel q b
    let total := ((m.targets.filter fun t => 4 * q + t.ch = ch).map (·.blocks)).sum
    let bad := (m.blocks.filter fun x => x.2.st = .bad && blkChannel q x.1 = ch).length
    if canDecide s1 && decide (total ≤ bad * 50) then retireNand ch s1 else s1

/-- The lines of some that no home line cache holds. -/
def notCached (s : State) (ls : List Nat) : List Nat := ls.filter fun l => !(kget ({} : CacheTag) s.store.lineCache l).held

/-- A block that cannot be decoded: its lines are poisoned, but those the line cache holds, and its page is queued for a move (R84, R93, R430). -/
def blockFailed (p k ch : Nat) (s : State) : State :=
  requestMove p .takeWrite ((notCached s (blockLines p k)).foldl (fun s l => poisonLine l (some (kNand, ch)) false s) s)

/-- The NAND reads of codec blocks (R93, R95): the slice and the NAND block that a read which has completed was made from: those that the forward map named when it began. -/
def readSource (r : NandRead) (s : State) : Option (Nat × Nat) :=
  let x := kget (0, 0) s.store.t3Reads (r.page * 16 + r.block)
  let e := page s r.page
  if x.1 ≠ 0 then some (x.1 - 1, x.2)
  else if e.tier = 3 && !pageLost s r.page then some (sliceOf e.frame, (fwd s e.frame).blk)
  else none

/-- Decrypt what the NAND returned, and decode it: the block's bytes; none where its descriptor or its data are corrupt (R79, R82, R84, R93). -/
def decodeRead (r : NandRead) (s : State) : Option (List Byte) :=
  let key := pageKey s r.page
  let ds := parseHeader (openUnits key r.page 1 0 (slice r.header 0 64))
  let d := ds.getD r.block { method := 3, len := 0, off := 0 }
  if !descOk ds r.block then none
  else
    let n := if d.len = 0 then 0 else units64 (d.off % 64 + d.len)
    decodeBlock d.method (slice (openUnits key r.page n (d.off / 64) (slice r.data 0 (64 * n))) (d.off % 64) d.len)

/-- The lines of a block that have come are taken into the line cache for the requests, and the Felset command, that wait for them (R169). -/
def fetchWanted (p k : Nat) (s : State) : State :=
  let held := (s.sec.hold.map fun h => h.line).toList
  let wanted := (s.home.waitq.flatMap itemLines ++ held).filter fun l => l / 64 = p * 16 + k
  (notCached s wanted.dedup).foldl (fun s l => (fetchLine l {} s).2) s

/-- A block that only an injection made fail is poisoned for this read alone, and not kept (R451). -/
def failedHere (p k ch : Nat) (s : State) : State :=
  let ls := notCached s (blockLines p k)
  let s1 := ls.foldl (fun s l => setPoison l true (poisonLine l (some (kNand, ch)) true s)) s
  let s2 := pump ((fetchWanted p k s1).onStore fun st => { st with t3Ready := [p * 16 + k] })
  ls.foldl (fun s l => if poisoned s l then lcDrop l (setPoison l false s) else s) s2

/-- A read that has crossed into the core (R93, R96): each retry counts; one that needs the last level makes its block bad; a failure at that level poisons the lines; else the block is decoded and the waiting loads go on. -/
def serveRead (r : NandRead) (s : State) : State :=
  match readSource r s with
  | none => s
  | some (q, b) =>
    let ch := blkChannel q b
    let (arm, s0) := takeArmed kNand ch [0x13] (endT3 (r.page * 16 + r.block) s)
    let n := min 5 (r.retries + b2n arm.isSome)
    let s1 := (List.range (min 4 n)).foldl (fun s _ => countEvent .nandRetry kNand ch 0 arm.isSome s) s0
    let s2 := if 4 ≤ r.retries then blockBad q b s1 else s1
    if (page s2 r.page).tier ≠ 3 || pageLost s2 r.page then pump s2
    else if n = 5 && decide (r.retries < 5) then failedHere r.page r.block ch s2
    else
      let s3 := match (if 5 ≤ n then none else decodeRead r s2) with
        | none => blockFailed r.page r.block ch s2
        | some bs => (notCached s2 (blockLines r.page r.block)).foldl (fun s l =>
            writeBytes (l * 64) (slice bs (l % 64 * 64) 64) s) s2
      let s4 := pump ((fetchWanted r.page r.block s3).onStore fun st => { st with t3Ready := [r.page * 16 + r.block] })
      s4.onStore fun st => { st with t3Ready := [] }

/-- The reads in an island's boundary cross it, in the order they were offered (R44). -/
def crossReads (i : Nat) (s : State) : State :=
  (island s i).fromIsland.foldl (fun s r => serveRead r s) (setIsland i (fun x => { x with fromIsland := [] }) s)

/-- T3_READ_DONE (R44, R46, R93): what a NAND read returns crosses its island's boundary, or stands there, 32 at most, while the island drains for a change of step; an island that does not run returns nothing. -/
def execT3ReadDone (r : NandRead) (s : State) : Host.Outcome State Fault Refusal :=
  .next (if 16 ≤ r.block then s
    else match readSource r s with
      | none => s
      | some (q, _) =>
        let i := island s (56 + q)
        if i.st ≠ .running then s
        else if i.toStep.isNone then serveRead r s
        else if i.fromIsland.length < 32 then
          setIsland (56 + q) (fun x => { x with fromIsland := x.fromIsland ++ [r] }) s
        else s)

/-- The spread of erase counts exceeds WEAR_SPREAD (R96). -/
def wornUneven (s : State) (q : Nat) : Bool :=
  let m := millpond s q
  let es := (m.targets.flatMap tgBlocks).map fun b => (blk m b).erases
  decide (cfg s 0x020002 47 32 < es.max?.getD 0 - es.min?.getD 0)

/-- A block whose images must leave it: its channel is retired, or it is bad. -/
def mustLeave (m : Millpond) (q : Nat) (b : Nat × Blk) : Bool :=
  decide (0 < b.2.valid) && (m.dead.contains (blkChannel q b.1 % 4) || b.2.st = .bad)

/-- The block that collection picks: one whose images it could not all copy before, then those that must leave theirs, then a full one with the fewest valid bytes, or where wear is uneven with the lowest erase count (R94, R96). -/
def gcBlock (s : State) (q : Nat) : Option Nat :=
  let m := millpond s q
  let full := m.blocks.filter fun b => b.2.st = .full && !m.collecting.contains b.1
  let key (b : Nat × Blk) : Nat := if wornUneven s q then b.2.erases else b.2.valid
  let old := (m.blocks.filter fun b => decide (0 < b.2.valid) && m.collecting.contains b.1)
    ++ m.blocks.filter fun b => mustLeave m q b && !m.collecting.contains b.1
  match old with
  | b :: _ => some b.1
  | [] => (full.foldl (fun (r : Option (Nat × Blk)) b => match r with
      | none => some b
      | some x => if key b < key x then some b else some x) none).map (·.1)

/-- Copy a slot's image to an open block (R94). -/
def relocate (q k : Nat) (s : State) : State :=
  let m := millpond s q
  let f := kget {} m.slots k
  match appendImage (blkOut s q) m f.len with
  | none => s
  | some (b, w, m') => setMillpond q (fun _ => { m' with
      slots := kput {} m'.slots k { f with blk := b, start := w },
      blocks := kmod {} m'.blocks f.blk fun x => { x with valid := x.valid - f.len } }) s

/-- The slots whose images lie in a block. -/
def slotsIn (s : State) (q b : Nat) : List Nat :=
  ((millpond s q).slots.filter fun x => x.2.len ≠ 0 && x.2.blk = b).map (·.1)

/-- MILLPOND_GC_START (R94, R96): free blocks are short, the wear is uneven, or a retired channel still holds images; a block's images are copied away. -/
def execMillpondGcStart (q : Nat) (s : State) : Host.Outcome State Fault Refusal :=
  .next (
    let m := millpond s q
    let short := decide (freeBlocks s q * 100 < cfg s 0x020001 15 8 * mpBlocks m)
    let old := m.blocks.any fun b => mustLeave m q b
    if !inService s || !(m.st = .serving || m.st = .readOnly) || !(short || old || wornUneven s q) then s
    else match gcBlock s q with
      | none => s
      | some b => (slotsIn s q b).foldl (fun s k => relocate q k s)
          (setMillpond q (fun m => { m with collecting := if m.collecting.contains b then m.collecting else m.collecting ++ [b] }) s))

/-- WEAR_PCT: the mean erase count as percent of RATED_PE (Table 3.14). -/
def wearPct (s : State) (q : Nat) : Nat :=
  let m := millpond s q
  let n := mpBlocks m
  let e := (m.blocks.map fun b => b.2.erases).sum
  if n = 0 then 0 else min 127 (e * 100 / n / cfg s 0x020002 31 16)

/-- The events of R97, at each rise of WEAR_PCT to 80 and to 100. -/
def wearEvents (q : Nat) (s : State) : State :=
  let w := wearPct s q
  let m := millpond s q
  let ev (n : Nat) (s : State) : State :=
    event { cls := 10, code := 5, kind := kMillpond, unit := q, detail := n, force := true } s
  let s1 := setMillpond q (fun m => { m with wear80 := decide (80 ≤ w), wear100 := decide (100 ≤ w) }) s
  let s2 := if 80 ≤ w && !m.wear80 then ev 80 s1 else s1
  if 100 ≤ w && !m.wear100 then ev 100 s2 else s2

/-- MILLPOND_BLOCK_ERASE (R94): a collected block with no reads in progress is erased and free. -/
def execMillpondBlockErase (q blk : Nat) (s : State) : Host.Outcome State Fault Refusal :=
  .next (
    let m := millpond s q
    let k := Sys2Proof.Machine.blk m blk
    if !m.collecting.contains blk || decide (k.valid ≠ 0) || decide (k.reads ≠ 0) || blkOut s q blk || !inService s then s
    else
      let bad := k.st = .bad || m.dead.contains (blkChannel q blk % 4)
      let k' : Blk := if bad then { k with st := .bad } else { erases := k.erases + 1 }
      wearEvents q (setMillpond q (fun m => { m with
        collecting := m.collecting.filter fun b => decide (b ≠ blk), blocks := kput {} m.blocks blk k' }) s))

/-- MILLPOND_PROGRAM_DONE (R96): a failed program or erase makes the block bad; the images written there are written again elsewhere. -/
def execMillpondProgramDone (q blk : Nat) (ok : Bool) (s : State) : Host.Outcome State Fault Refusal :=
  .next (if ok || decide (4 ≤ q) || (tgOf (millpond s q) blk).isNone then s
    else (slotsIn s q blk).foldl (fun s k => relocate q k s) (blockBad q blk s))

/-- The scan erases every block that is neither bad nor system (R99). -/
def scanErase (m : Millpond) : KMap Blk :=
  (m.targets.flatMap tgBlocks).foldl (fun bs b => kmod {} bs b fun k =>
    if k.st = .bad || k.st = .system then k else { erases := k.erases + 1 }) m.blocks

/-- MILLPOND_SCAN_DONE (R99, R458): a slice enters Serving; start-up's last step is complete with the last slice. -/
def execMillpondScanDone (q : Nat) (s : State) : Host.Outcome State Fault Refusal :=
  .next (
    if (millpond s q).st ≠ .scanning then s
    else
      let s1 := checkSpares q (wearEvents q (setMillpond q (fun m => { m with st := .serving, blocks := scanErase m }) s))
      if inService s1 && (List.range 4).all fun i => decide ((millpond s1 i).st ≠ .scanning) then
        s1.onPwr fun p => { p with startStep := 12 }
      else s1)

end Sys2Proof.Machine
end

