-- ==== Sys2Proof/Machine/CtlWords.lean ====
section
/-! DEFINITION. The control words as they read and are written: every RO field from the state it shows, CW_READ, CW_WRITE and CW_WRITE_MULTI, what a write to each word does, and the writes that are rows of their own (R10, R12, R361 and the words of every chapter). -/

namespace Sys2Proof.Machine

/-! ### Codes of state fields -/

def IslState.code : IslState → Nat
  | .off => 0 | .locking => 1 | .running => 2 | .held => 3 | .retired => 4
def LinkState.code : LinkState → Nat
  | .off => 0 | .training => 1 | .up => 2 | .down => 3 | .retired => 4
def LaneState.code : LaneState → Nat
  | .off => 0 | .inService => 1 | .retired => 2
def MpState.code : MpState → Nat
  | .off => 0 | .scanning => 1 | .serving => 2 | .readOnly => 3 | .retired => 4
def SliceState.code : SliceState → Nat
  | .off => 0 | .serving => 1 | .flushing => 2
def UState.code : UState → Nat
  | .off => 0 | .serving => 1 | .retired => 2
def NvState.code : NvState → Nat
  | .off => 0 | .recovery => 1 | .ready => 2 | .lost => 3
def Holder.code : Holder → Nat
  | .west => 0 | .east => 1 | .transfer => 2 | .none => 3
def PState.code : PState → Nat
  | .starting => 0 | .inService => 1 | .furlEntry => 2 | .furl => 3 | .waking => 4 | .halted => 5 | .resetting => 6

/-- One byte of PORT_STAT (Table 4.4). -/
def linkByte (l : Link) : Nat :=
  at' 5 l.st.code + at' 3 (match l.width with | 0 => 0 | 1 => 1 | 2 => 2 | _ => 3) + l.first

/-! ### Words shown from the state -/

/-- Bays in service in the core; none before step 6 of start-up. -/
def baysShown (s : State) : List Nat := if 6 ≤ s.pwr.startStep then baysIn s else []

/-- CORE_STATUS (chapter 7): the index counts with the slowest bay in service. -/
def coreStatusWord (s : State) : Nat :=
  let bs := baysShown s
  let w := 96 * bs.length
  let slow := ((bs.map fun b => kget 0 s.pwr.beatRate b).min?).getD 0
  at' 32 (1000 * w * slow / (1536 * 1940) % 4096) + at' 16 w + (bs.map fun b => 2 ^ b).sum

/-- DIR_RESULT0 (Table 6.8) of the line that DIR_PROBE selects, at the moment of the read (R191): the Race acknowledgement is among the responses awaited, and until it comes on-die holders may have the line (R181). -/
def dirWord0 (s : State) : Nat :=
  let line := cfg s 0x060010 49 6
  let e := dirEnt s line
  let owned := e.st = .x || e.st = .xr || (e.st = .g && e.after)
  let due := if e.st = .si || e.st = .xr || e.st = .bi then e.acks.length + b2n e.race else 0
  at' 63 (b2n (e.st ≠ .i)) + at' 60 e.st.code + at' 59 (b2n e.coarse) + at' 58 (b2n (e.eng || e.race))
  + at' 55 (if e.coarse then 0 else min 4 e.pointers.length) + at' 48 (min 64 (lineWaiting s line)) + at' 44 (e.way % 16)
  + at' 16 (if owned then e.owner % 65536 else 0) + due % 65536

/-- DIR_RESULT1 (Table 6.9). -/
def dirWord1 (s : State) : Nat :=
  let e := dirEnt s (cfg s 0x060010 49 6)
  if e.coarse then e.vec % 2 ^ 64
  else (((e.pointers.take 4).zipIdx).map fun (x : Nat × Nat) => at' (16 * x.2) (x.1 % 65536)).sum

/-- COH_SLICE (Table 6.10). -/
def cohSliceWord (s : State) (b : Nat) : Nat :=
  let es := s.home.dir.filter fun p => lineBay p.1 = b && p.2.st ≠ .i
  at' 62 (sliceSt s b).code + at' 32 es.length + at' 12 (es.filter fun p => p.2.st.transient).length

/-- STREAM_PART but for SHARE (Table 8.16). -/
def streamPartWord (s : State) (n : Nat) : Nat :=
  let has (x : StState) : Bool := s.core.streams.any fun p => p.2.part = n && p.2.st = x
  at' 51 ((s.core.streams.filter fun p => p.2.part = n && p.2.st = .queued).length)
  + at' 49 (if has .running then 1 else if has .suspended then 2 else 0) + kget 0 s.core.lastId n

/-- SEQ_STATUS. -/
def seqStatusWord (s : State) : Nat :=
  (match s.core.cur with
    | some id => at' 32 id + at' 27 ((stream s id).part) + at' 26 1
    | none => 0)
  + at' 17 ((s.core.streams.filter fun p => p.2.st = .queued).length)

/-- CE_STATE of a half (Table 13.11). -/
def ceState (s : State) (h : Nat) : Nat :=
  if isRetired s kHalf h then 3
  else if holderHalf s = some h then 2
  else if islandUp s (60 + h) then 1 else 0

/-- HEALTH_STATUS (Table 16.13). -/
def healthStatusWord (s : State) : Nat :=
  let d := degCause s
  at' 63 (b2n (d.any id)) + ((d.zipIdx).map fun (x : Bool × Nat) => at' (40 + x.2) (b2n x.1)).sum + at' 32 (s.gov.state % 4)
  + (((List.range 16).filter (bayMapped s)).map fun b => 2 ^ (16 + b)).sum
  + min 65535 (s.gov.units.filter fun u => u.2.health = .suspect).length

/-- PWR_STATUS (Table 17.7). -/
def pwrStatusWord (s : State) : Nat :=
  let p := s.pwr
  at' 61 p.pstate.code + at' 56 (p.startStep % 32) + at' 52 (p.haltCause % 16) + at' 49 (p.resetCause % 8)
  + at' 44 (p.throttle % 32) + at' 32 (p.pkgPower % 4096) + at' 16 (p.devResets % 65536)

/-- SEC_STATUS (Table 14.17). -/
def secStatusWord (s : State) : Nat :=
  at' 61 s.sec.nvState.code + at' 60 (s.nor.actSlot % 2) + at' 32 (countExt s fun x => decide (2 ≤ x.xstate))
  + at' 27 s.sec.scrubbing.length + s.sec.grants.length

/-- The value a control word reads as. -/
def wordView (s : State) (a : Nat) : Reg → Nat
  | .timestamp => now s
  | .bayBeat b => at' 48 (kget 0 s.pwr.beatRate b % 4096) + kget 0 s.stats a
  | .coreRail q =>
    let r := rail s q
    at' 42 (r.meas % 1024) + at' 32 (r.applied % 1024) + at' 24 (r.temp % 256).toNat + at' 16 (r.vstep % 4) + cwRaw s a
  | .island i => at' 32 (island s i).lockLoss + at' 4 ((island s i).step % 4) + (island s i).st.code
  | .tierQuota n t => cwRaw s a + usedBy s n t
  | .sluiceStat q =>
    at' 56 (s.store.epoch % 256) + at' 48 (min 255 (kget [] s.store.promo q).length) + kget 0 s.stats a
  | .millpondStat q =>
    let m := millpond s q
    at' 61 m.st.code + at' 54 (wearPct s q) + at' 24 (freeBlocks s q % 2 ^ 24) + m.spares % 2 ^ 24
  | .portStat p =>
    (((List.range 8).filter fun l => lane s (8 * p + l) = .inService).map fun l => 2 ^ (32 + l)).sum
    + ((List.range 4).map fun i => at' (8 * i) (linkByte (link s (4 * p + i)))).sum
  | .serdesLane l => at' 62 (lane s l).code + kget 0 s.stats a
  | .weirLevels => ((List.range 16).map fun b => at' (4 * b) (kget 0 s.kt.lvlSlice b % 16)).sum
  | .weirPlane => at' 8 (b2n s.kt.windowed) + at' 4 (s.kt.lvlPlaneB % 16) + s.kt.lvlPlaneA % 16
  | .dirResult0 => dirWord0 s
  | .dirResult1 => dirWord1 s
  | .cohSlice b => cohSliceWord s b
  | .coreStatus => coreStatusWord s
  | .coreFlags n => kget 0 s.core.coreFlags n % 64
  | .streamPart n => cwRaw s a + streamPartWord s n
  | .seqStatus => seqStatusWord s
  | .qnStat u => at' 62 (kget .off s.eng.querns u).code + at' 55 (min 64 (quernLoad s u)) + kget 0 s.stats a
  | .qnGroups => (s.eng.groups.filter fun g => g.2.opened).length
  | .hoistSteps => (s.eng.steps.filter fun h => h.2.taken).length
  | .hoistSlice b =>
    at' 62 (kget .off s.eng.hoists b).code + at' 44 (pendingIn s b)
    + (s.eng.rowBuf.filter fun x => homeBay x.1 = b && (hotRowsAll s).contains x.1).length
  | .hotCtrl h => cwRaw s a + at' 62 (b2n (kget false s.eng.hotShort h))
  | .bolterStatus =>
    at' 13 (activeIndexes s).length + (s.home.waitq.filter fun x => x.op = 0x68 && x.search.isSome).length
  | .bolterSlice b => at' 62 (kget .off s.eng.bolters b).code + coordCount s b
  | .cmdEngine h =>
    at' 62 (ceState s h) + at' 55 (if halfInCharge s = h then min 64 s.sec.waiting.length else 0) + at' 48 (openSessions s).length + at' 32 (kget 0 s.sec.lastFop h)
  | .partStat n => at' 63 (b2n (part s n).enabled) + at' 32 (extentsOf s n) + (part s n).keyEpoch % 2 ^ 32
  | .secStatus => secStatusWord s
  | .setState i =>
    let r := setSt s i
    at' 61 r.sstate + at' 56 (r.pos % 32) + at' 51 (r.rbPos % 32) + r.validTo % 2 ^ 33
  | .fantail => at' 62 s.mach.holder.code + at' 61 (b2n s.mach.arbFault) + s.mach.gen % 2 ^ 32
  | .healthStatus => healthStatusWord s
  | .ctrOvf i => kget 0 s.gov.ovf i
  | .pwrStatus => pwrStatusWord s
  | .setEpoch i => (setSt s i).epoch
  | .fenceMap k => (((List.range 64).filter fun j => fenced s (64 * k + j)).map fun j => 2 ^ j).sum
  | .auditNext => s.nor.auditNext
  | .auditBase => s.nor.auditBase
  | .auditAcked => s.nor.auditAcked
  | .hlogNext => s.nor.hlogNext
  | .hlogBase => s.nor.hlogBase
  | .stat _ => kget 0 s.stats a
  | _ => cwRaw s a

/-- What the word at an address reads as. -/
def cwWord (s : State) (a : Nat) : Nat :=
  match regAt a with
  | some r => wordView s a r % 2 ^ 64
  | none => 0

/-- CW_READ (R361). -/
def execCwRead (c : FsCmd) (s : State) : Host.Outcome State Fault Refusal :=
  .next (runFelset
    { fop := 0x0100, plen := 8, kind := .read, rights := anyRole
      checks := fun _ _ => [(0, (List.range (prm c 4 2)).all fun i => (regAt (prm c 0 3 + i)).isSome), resZero c 3 1,
        (4, within (prm c 4 2) 1 64), resZero c 6 2]
      body := fun _ s => fsOk s ((List.range (prm c 4 2)).flatMap fun i => leBytes 8 (cwWord s (prm c 0 3 + i))) } c s)

/-! ### Writes -/

/-- One entry of a write: ADDR, MASK and VALUE. -/
structure CwEnt where
  addr : Nat
  mask : Nat
  value : Nat

/-- The entry whose fields begin at an offset of PARAMS. -/
def cwEnt (c : FsCmd) (off : Nat) : CwEnt :=
  { addr := prm c off 3, mask := prm c (off + 8) 8, value := prm c (off + 16) 8 }

/-- The mask touches a field. -/
def CwEnt.covers (e : CwEnt) (f : Fld) : Bool := bits e.mask f.hi f.lo ≠ 0

/-- Step 8 of Table 13.3 for one entry: every covered field but RO may be written by the role (R10, Table 13.6). -/
def CwEnt.right (e : CwEnt) (se : FSession) (s : State) : Bool :=
  match regAt e.addr with
  | none => true
  | some r => r.fields.all fun f =>
      !e.covers f || f.acc = .ro || se.role = 2
      || (se.role = 1 && f.acc = .w1c && (match r with | .coreFlags n => inPmask se s n | _ => false))

/-- The reserved bits of a word: those that no field holds, and those inside a byte that also holds a field (R12; bits 7:5 of each byte of PEER_REACH, Table 4.6). -/
def Reg.reserved (r : Reg) : Nat :=
  (2 ^ 64 - 1) - r.mask (fun _ => true)
  + (match r with | .peerReach _ => 0xE0E0E0E0E0E0E0E0 | _ => 0)

/-- The stored part of the word as it would stand after the write. -/
def CwEnt.next (e : CwEnt) (r : Reg) (raw : Nat) : Nat :=
  let m := e.mask &&& r.mask (fun f => f.acc = .rw || f.acc = .rwl)
  (raw ^^^ (raw &&& m)) ||| (e.value &&& m)

/-- The entry writes an RW or RW-L field of its word. -/
def CwEnt.writes (e : CwEnt) (r : Reg) : Bool := r.fields.any fun f => (f.acc = .rw || f.acc = .rwl) && e.covers f

/-- Every entry's fields in place, for the rules that relate words (R361). -/
def cwPlaced (es : List CwEnt) (s : State) : State :=
  es.foldl (fun s e => match regAt e.addr with | some r => cwStore e.addr (e.next r (cwRaw s e.addr)) s | none => s) s

/-- Two partitions' scratchpad windows share a unit (R197). -/
def windowsOverlap (s : State) (n m : Nat) : Bool :=
  decide (swBase s n < swBase s m + swSize s m ∧ swBase s m < swBase s n + swSize s n)
  && decide (swSize s n ≠ 0 ∧ swSize s m ≠ 0)

/-- The rules of a written word that name other state: `s` as it stands, `t` with every entry in place. -/
def CwEnt.ruleIn (e : CwEnt) (r : Reg) (s t : State) : Bool :=
  match r with
  | .scratchWin n => (List.range 32).all fun m => m = n || !windowsOverlap t n m
  | .setSlot i =>
    let rest := decide (e.mask % 2 ^ 48 &&& r.mask (fun _ => true) ≠ 0)
    if slotSetId s i = 0xFFFF then true
    else if (setSt s i).sstate ≠ 0 then !rest && (decide (bits e.mask 63 48 = 0) || slotSetId t i = 0xFFFF)
    else !rest
  | _ => true

/-- Step 9 of Table 13.3 for one entry at an offset of PARAMS: the offset of each field and whether it keeps its rule. -/
def CwEnt.checks (e : CwEnt) (off : Nat) (c : FsCmd) (s t : State) : List (Nat × Bool) :=
  match regAt e.addr with
  | none => [(off, false)]
  | some r =>
    let whole := r.fields.all fun f => !e.covers f || bits e.mask f.hi f.lo = 2 ^ (f.hi + 1 - f.lo) - 1
    let res := e.mask &&& e.value &&& r.reserved
    let resAt := ((List.range 8).find? fun i => bits res (8 * i + 7) (8 * i) ≠ 0).getD 0
    [resZero c (off + 3) 1, resZero c (off + 4) 4, (off + 8, whole), (off + 16 + resAt, decide (res = 0)),
     (off + 16, !e.writes r || (r.valid (cwRaw t e.addr) && e.ruleIn r s t))]

/-- A write that has to wait (R250, R266). -/
def CwEnt.busy (e : CwEnt) (s : State) : Bool :=
  let active (n : Nat) : Bool := s.core.streams.any fun p => p.2.part = n && (p.2.st = .running || p.2.st = .suspended)
  match regAt e.addr with
  | some r => e.writes r && (match r with | .scratchWin n => active n | .orderMode n => active n | _ => false)
  | none => false

/-! ### What a write does -/

/-- The reach of a node changes (R404): raised from none in service it enters the fence table; lowered to none on both planes its context closes. -/
def reachChanged (n old new : Nat) (s : State) : State :=
  let up (h l : Nat) : Bool := decide (bits old h l = 0) && decide (bits new h l ≠ 0)
  if n = nodeId s then s
  else if inService s && (up 1 0 || up 3 2) then
    pump (fenceSets n (losePeer n (s.onMach fun m => { m with fence := kput false m.fence n true })))
  else if bits old 3 0 ≠ 0 ∧ bits new 3 0 = 0 then pump (losePeer n s)
  else s

/-- Bytes that leave or enter a partition's window are zeroed (R197). -/
def windowMoved (old new : Nat) (s : State) : State :=
  let inW (w k : Nat) : Bool := decide (bits w 15 8 ≤ k ∧ k < bits w 15 8 + bits w 7 0)
  let stays (k : Nat) : Bool := inW old (k % 2 ^ 24 / 65536) = inW new (k % 2 ^ 24 / 65536)
  s.onCore fun c => { c with
    scratch := c.scratch.filter fun x => stays x.1, chains := c.chains.filter fun x => stays x.1 }

/-- SHARE changes (R250): time run so far counts at the old share; queued streams end when it becomes 0. -/
def shareWritten (n a new : Nat) (s : State) : State :=
  let s1 := match s.core.cur with | some id => accrue id s | none => s
  let s2 := cwStore a new s1
  if bits new 63 56 = 0 then endQueued (fun t => t.part = n) 14 s2 else s2

/-- HANDOVER (R420): the token moves to the other half, if that can take it. -/
def handOver (s : State) : State :=
  match holderHalf s with
  | some h => if halfUp s (1 - h) then moveToken s else s
  | none => s

/-- Commit one entry: its fields, W1C bits and actions. -/
def CwEnt.commit (e : CwEnt) (s : State) : State :=
  match regAt e.addr with
  | none => s
  | some r =>
    let old := cwRaw s e.addr
    let new := e.next r old
    let ones := e.mask &&& e.value
    let s1 := cwStore e.addr new s
    if r.fields.all fun f => f.acc = .ro || !e.covers f then s
    else match r with
    | .coreRail _ => applyRails s1
    | .millpondCfg => (List.range 4).foldl (fun s q => wearEvents q s) s1
    | .portCfg p => if bits e.mask 17 14 = 0 then s1 else retirePortIfDead p (reformPort p s1)
    | .peerReach k => (List.range 8).foldl (fun s j =>
        reachChanged (8 * k + j) (bits old (8 * j + 7) (8 * j)) (bits new (8 * j + 7) (8 * j)) s) s1
    | .scratchWin _ => windowMoved old new s1
    | .streamPart n => shareWritten n e.addr new s
    | .coreFlags n => s.onCore fun c => { c with coreFlags := kmod 0 c.coreFlags n fun v => v ^^^ (v &&& ones) }
    | .hotCtrl h => if !bit old 63 && bit new 63 then s1.onEng fun x => { x with hotAt := kput 0 x.hotAt h (now s) } else s1
    | .setSlot i => if bits new 63 48 = 0xFFFF then pump (setSet i (fun _ => {}) s1) else s1
    | .ctrOvf i => if bit ones 63 && bit (kget 0 s.gov.ovf i) 63 then
        s.onGov fun g => { g with ovf := kmod 0 g.ovf i (· % 2 ^ 63), ovfFull := false } else s
    | .fantail => if bit ones 60 then handOver s else s
    | _ => s1

/-- CW_WRITE as Table 13.5 gives it (R361). -/
def cwWriteOp (c : FsCmd) : FsOp :=
  { fop := 0x0101, plen := 24, audited := true, kind := .install
    rights := fun se s => (cwEnt c 0).right se s
    checks := fun _ s => (cwEnt c 0).checks 0 c s (cwPlaced [cwEnt c 0] s)
    body := fun _ s =>
      if (cwEnt c 0).busy s then fsFail s sRETRY
      else fsOk ((cwEnt c 0).commit s) (leBytes 8 (cwWord ((cwEnt c 0).commit s) (cwEnt c 0).addr)) }

/-- CW_WRITE. -/
def execCwWrite (c : FsCmd) (s : State) : Host.Outcome State Fault Refusal := .next (runFelset (cwWriteOp c) c s)

/-- CW_WRITE_MULTI (R361): every entry is checked before any is written, and all are committed at one instant. -/
def execCwWriteMulti (c : FsCmd) (s : State) : Host.Outcome State Fault Refusal :=
  let n := prm c 0 2
  let offs := (List.range (min n 64)).map fun i => 8 + 24 * i
  let es := offs.map (cwEnt c)
  .next (runFelset
    { fop := 0x0102, plen := 8 + 24 * n, audited := true, kind := .install,
      rights := fun se s => es.all (fun e => e.right se s),
      checks := fun _ s =>
        let t := cwPlaced es s
        [(0, within n 1 64), resZero c 2 6] ++ offs.flatMap fun o => (cwEnt c o).checks o c s t,
      body := fun _ s => if es.any (·.busy s) then fsFail s sRETRY else fsOk (es.foldl (fun s e => e.commit s) s) } c s)

/-! ### Writes that are rows of their own -/

/-- The command writes a field of a word of the kind asked for; a command that names another word is not this row's. -/
def namesWord (c : FsCmd) (p : Reg → Bool) : Bool := match regAt (prm c 0 3) with | some r => p r | none => false

/-- RAIL_SET_WRITE (R41). -/
def execRailSetWrite (c : FsCmd) (s : State) : Host.Outcome State Fault Refusal :=
  .next (if namesWord c fun r => match r with | .coreRail _ => true | _ => false then runFelset (cwWriteOp c) c s else s)

/-- PORT_MODE_WRITE (R100). -/
def execPortModeWrite (c : FsCmd) (s : State) : Host.Outcome State Fault Refusal :=
  .next (if namesWord c fun r => match r with | .portCfg _ => true | _ => false then runFelset (cwWriteOp c) c s else s)

/-- SCRATCH_WIN_WRITE (R197, R250). -/
def execScratchWinWrite (c : FsCmd) (s : State) : Host.Outcome State Fault Refusal :=
  .next (if namesWord c fun r => match r with | .scratchWin _ => true | _ => false then runFelset (cwWriteOp c) c s else s)

/-- SHARE_WRITE (R250). -/
def execShareWrite (c : FsCmd) (s : State) : Host.Outcome State Fault Refusal :=
  .next (if namesWord c fun r => match r with | .streamPart _ => true | _ => false then runFelset (cwWriteOp c) c s else s)

/-- ORDER_MODE_WRITE (R266). -/
def execOrderModeWrite (c : FsCmd) (s : State) : Host.Outcome State Fault Refusal :=
  .next (if namesWord c fun r => match r with | .orderMode _ => true | _ => false then runFelset (cwWriteOp c) c s else s)

/-- PEER_REACH_WRITE (R404). -/
def execPeerReachWrite (c : FsCmd) (s : State) : Host.Outcome State Fault Refusal :=
  .next (if namesWord c fun r => match r with | .peerReach _ => true | _ => false then runFelset (cwWriteOp c) c s else s)

/-- SET_SLOT_WRITE (R408). -/
def execSetSlotWrite (c : FsCmd) (s : State) : Host.Outcome State Fault Refusal :=
  .next (if namesWord c fun r => match r with | .setSlot _ => true | _ => false then runFelset (cwWriteOp c) c s else s)

/-- HANDOVER (R420): a write of the word FANTAIL. -/
def execHandover (c : FsCmd) (s : State) : Host.Outcome State Fault Refusal :=
  .next (if namesWord c fun r => match r with | .fantail => true | _ => false then runFelset (cwWriteOp c) c s else s)

end Sys2Proof.Machine
end

