-- ==== Sys2Proof/Machine/Power.lean ====
section
/-! DEFINITION. The commands of power, clocks and pins (chapters 2, 17 and 18): the resets, entering service, islands, timestamps, rails and throttling, the test access port. -/

namespace Sys2Proof.Machine

/-! ### Pins and start-up -/

/-- POWER_GOOD_RISE (R454, R457): a power-up reset, and the steps of start-up. -/
def execPowerGoodRise (b : Board) (s : State) : Host.Outcome State Fault Refusal :=
  .next (if s.pwr.pwrGood then s else runStart (powerUpReset 0 b s))

/-- POWER_GOOD_FALL (R478): everything but the NOR is lost; the outputs are high-impedance. -/
def execPowerGoodFall (s : State) : Host.Outcome State Fault Refusal :=
  .next ((blank s).onPwr fun p => { p with resetN := s.pwr.resetN })

/-- RESET_N_FALL (R477): it ends a start-up under way; the device is held until the rise. With the power-good input low every other input is ignored. -/
def execResetNFall (s : State) : Host.Outcome State Fault Refusal :=
  .next (if !s.pwr.pwrGood || s.pwr.thermTrip || !s.pwr.resetN then s
    else s.onPwr fun p => { p with resetN := false, pstate := .resetting })

/-- RESET_N_RISE (R454, R477): a device reset runs from the rise; a power-up reset that waited at step 1 goes on. A pulse shorter than the 1 µs the system must give is no reset the spec describes, and leaves the device held. -/
def execResetNRise (lowNs : Nat) (b : Board) (s : State) : Host.Outcome State Fault Refusal :=
  .next (if !s.pwr.pwrGood then s.onPwr fun p => { p with resetN := true }
    else if s.pwr.thermTrip || s.pwr.resetN then s
    else if s.pwr.pstate = .starting && s.pwr.startStep = 0 then
      runStart (s.onPwr fun p => { p with resetN := true })
    else if lowNs < 1000 then s
    else runStart (deviceReset 3 b s))

/-- Islands that failed their step enter service retired (R459); one that lost lock and has tries left does not (R47). -/
def retireFailed (s : State) : State :=
  ((List.range 62).filter fun i => islandGone s i && decide ((island s i).st = .held)).foldl (fun s i => retireIsland i s) s

/-- ENTER_SERVICE (R458): step 11 of Table 17.2, and with no slice still Scanning step 12. -/
def execEnterService (s : State) : Host.Outcome State Fault Refusal :=
  .next (
    if s.pwr.pstate = .starting && s.pwr.tail.contains 7 && s.pwr.tail.contains 8 && s.sec.nvState = .ready then
      let up (d : KMap UState) (m : KMap UState) (b : Nat) : KMap UState :=
        if kget .off d b = .retired then m else kput .off m b .serving
      let s1 := s.onHome fun h => { h with
        slices := (List.range 16).foldl (fun m b => kput .off m b .serving) [] }
      let s2 := s1.onEng fun e => { e with
        hoists := (List.range 16).foldl (up e.hoists) e.hoists, bolters := (List.range 16).foldl (up e.bolters) e.bolters }
      let s3 := s2.onGov fun g => { g with state := if s.mach.arbFault then 3 else 2 }
      let s4 := s3.onKt fun k => { k with weirAt := now s, windowed := false }
      let s5 := s4.onStore fun st => { st with epochAt := now s }
      retireFailed (stepped (if (List.range 4).any fun q => (millpond s q).st = .scanning then 11 else 12)
        (s5.onPwr fun p => { p with pstate := .inService }))
    else s)

/-- START_HALT (R459): a step cannot complete. Ports come up under causes 1, 2 and 5. -/
def execStartHalt (s : State) : Host.Outcome State Fault Refusal :=
  .next (
    if s.pwr.pstate ≠ .starting then s
    else match haltCause s with
      | none => s
      | some c =>
        let s1 := s.onPwr fun p => { p with pstate := .halted, haltCause := c }
        if c = 3 ∨ c = 4 then s1
        else if c = 2 then
          (startStep10 (loadStraps true (s1.onSec fun x => { x with nvState := .recovery }))).1
        else (startStep10 s1).1)

/-- THERMAL_TRIP (R469): the output is asserted and every unit stops until the power-good input falls. -/
def execThermalTrip (s : State) : Host.Outcome State Fault Refusal :=
  .next (if !s.pwr.pwrGood then s
    else (blank s).onPwr fun _ =>
      { pwrGood := true, resetN := s.pwr.resetN, thermTrip := true, tap := s.pwr.tap, pstate := .resetting })

/-! ### Islands (R46-R48) -/

/-- The words at an island's boundary when it closes: those toward it are not delivered, so that their requests fail at their deadlines; those from it have crossed (R47, R446). Reads that the island had begun are given up and begun again after it runs. -/
def boundaryLost (i : Nat) (s : State) : State :=
  let gone := (island s i).toIsland.map (·.1)
  let s1 := setIsland i (fun x => { x with toIsland := [] })
    (s.onHome fun h => { h with waitq := h.waitq.map fun it => if gone.contains it.id then { it with lost := true } else it })
  let s2 := crossReads i s1
  if 56 ≤ i && decide (i < 60) then endReads (i - 56) s2 else s2

/-- PLL_LOCK_LOSS (R47, R476): the island is Held; the charge token leaves a half whose island is. A change of rate step under way is dropped and the step in use stays (DESIGN CHOICE, log entry 35: the rule does not say). -/
def execPllLockLoss (i : Nat) (s : State) : Host.Outcome State Fault Refusal :=
  .next (
    let x := island s i
    if 64 ≤ i || !(x.st = .running || x.st = .locking) then s
    else
      let s1 := setIsland i (fun x => { x with
        st := .held, tries := 0, toStep := none, lockLoss := min 65535 (x.lockLoss + 1) }) s
      pump (boundaryLost i (tokenAfterIsland (countEvent .lockLoss kIsland i 0 false s1))))

/-- An island reopens its boundary: what stood there crosses, and the waiting requests are served (R44, R46, R47). -/
def reopened (i : Nat) (s : State) : State := pump (crossReads i (setIsland i (fun x => { x with toIsland := [] }) s))

/-- Start-up goes on where it waited for an island. -/
def startGoesOn (s : State) : State := if s.pwr.pstate = .starting then runStart s else s

/-- A failed relock is permanent for its island (Table 16.5), where the Governor decides. -/
def failedRelock (i : Nat) (s : State) : State :=
  if decide (i < 62) && s.gov.state = 2 && !s.mach.arbFault && (holderHalf s).isSome then retireUnit kIsland i s else s

/-- ISLAND_RELOCK (R47): at most three tries. -/
def execIslandRelock (i : Nat) (ok : Bool) (s : State) : Host.Outcome State Fault Refusal :=
  .next (
    let x := island s i
    if x.st ≠ .held || decide (3 ≤ x.tries) then s
    else if ok then startGoesOn (reopened i (setIsland i (fun x => { x with st := .running, tries := 0 }) s))
    else
      let s1 := setIsland i (fun x => { x with tries := x.tries + 1 }) s
      if 3 ≤ x.tries + 1 then startGoesOn (failedRelock i s1) else s1)

/-- The step of Table 17.2 at which an island starts has not completed. -/
def stepOpen (i : Nat) (s : State) : Bool :=
  s.pwr.pstate = .starting
  && (if i < 16 then !s.pwr.tail.contains 10
      else if i < 48 then !s.pwr.tail.contains 7
      else if i < 56 then !s.pwr.tail.contains 8
      else if i < 60 then !s.pwr.tail.contains 9
      else if i = 62 then decide (s.pwr.startStep < 3) else decide (s.pwr.startStep < 2))

/-- ISLAND_LOCK_TIMEOUT (R48): an island not Running at the bound of its step, still Locking or Held since it lost lock there, is Held with no further tries; start-up goes on where it waited for it. -/
def execIslandLockTimeout (i : Nat) (s : State) : Host.Outcome State Fault Refusal :=
  .next (
    let x := island s i
    if x.st = .locking || (x.st = .held && decide (x.tries < 3) && stepOpen i s) then
      let s1 := countEvent .lockLoss kIsland i 0 false
        (setIsland i (fun x => { x with st := .held, tries := 3, lockLoss := min 65535 (x.lockLoss + 1) }) s)
      if s1.pwr.pstate = .starting then runStart s1 else failedRelock i s1
    else s)

/-- RATE_STEP_PAUSE_END (R46): the drained island switches and reopens. -/
def execRateStepPauseEnd (i : Nat) (s : State) : Host.Outcome State Fault Refusal :=
  .next (match (island s i).toStep with
    | some n => if islandUp s i then reopened i (setIsland i (fun x => { x with step := n, toStep := none }) s) else s
    | none => s)

/-- BAY_BEAT_WINDOW (R39): the ring's count over 1 ms: RATE_LAST, and BEAT_COUNT in units of 65,536 beats, whether or not the Governor counts. A slow-bay injection reads 90 % (Table 16.11). -/
def execBayBeatWindow (b rate beats : Nat) (s : State) : Host.Outcome State Fault Refusal :=
  .next (
    if 16 ≤ b || !s.pwr.pwrGood || s.pwr.thermTrip then s
    else
      let slow := s.gov.injects.any fun x => x.2.live && x.2.kind = kBay && x.2.unit = b && x.2.fault = 0x40
        && decide (0 < x.2.armed)
      let r := (if slow then rate * 9 / 10 else rate) % 4096
      let n := kget 0 s.pwr.beatRem b + beats
      let s1 := s.onPwr fun p => { p with
        beatRate := kput 0 p.beatRate b r, beatRem := kput 0 p.beatRem b (n % 65536) }
      let s2 := if s.gov.state = 0 then s1 else s1.onPwr fun p => { p with
        slowSum := kmod 0 p.slowSum b (· + r), slowWindows := kmod 0 p.slowWindows b (· + 1) }
      bumpBy (0x0D0100 + b) (n / 65536) s2)

/-- TIMESTAMP_COMPARE (R50): the standby half loads the value in charge where the two differ by more than 10 ns. `drift` is how far the standby counter has run apart. -/
def execTimestampCompare (drift : Int) (s : State) : Host.Outcome State Fault Refusal :=
  .next (
    if !(islandUp s 60 && islandUp s 61) then s
    else
      let t := now s
      let west := halfInCharge s = 0
      let other : Int := (if west then s.pwr.tsEast else s.pwr.tsWest) + drift
      if (other - t).natAbs ≤ 10 then
        s.onPwr fun p => if west then { p with tsEast := other.toNat } else { p with tsWest := other.toNat }
      else
        event { cls := 8, code := 2 }
          (s.onPwr fun p => if west then { p with tsEast := t } else { p with tsWest := t }))

/-! ### Power and rails (R438, R466, R467, R474) -/

/-- The largest current of a rail in mA, in the order of Table 18.4 (Table 18.3). -/
def railMax (i : Nat) : Nat :=
  [340000, 340000, 340000, 340000, 100000, 10000, 150000, 160000, 25000, 90000, 15000, 4000, 3000].getD i 0

/-- The voltage of a rail in mV for PKG_POWER: a core rail at its sense point, another at its nominal. -/
def railMv (s : State) (i : Nat) : Nat :=
  if i < 4 then (rail s i).meas else [750, 1800, 1050, 750, 1100, 750, 1200, 1200, 1800].getD (i - 4) 0

/-- A reading of one rail: a read not answered reuses the last, and counts at its maximum after 1 ms. -/
def readRail (i : Nat) (x : Option Nat) (s : State) : State :=
  s.onPwr fun p => { p with avs := kmod {} p.avs i fun a => match x with
    | some m => { mA := m, silentNs := 0 }
    | none => { a with silentNs := a.silentNs + 100000 } }

/-- The current a rail counts with (R474). -/
def railCurrent (s : State) (i : Nat) : Nat :=
  let a := kget {} s.pwr.avs i
  if 1000000 ≤ a.silentNs then railMax i else a.mA

/-- The two RANGE conditions of a quarter, each raised once on entry (R438). -/
def rangeCheck (q : Nat) (s : State) : State :=
  let r := rail s q
  let v := !within r.meas 650 950
  let t := decide (r.temp < 25) || decide (105 < r.temp)
  let s1 := setRail q (fun r => { r with vOut := v, tOut := t }) s
  let s2 := if v && !r.vOut then event { cls := 8, code := 0, kind := kRail, unit := q, detail := r.meas } s1 else s1
  if t && !r.tOut then event { cls := 8, code := 1, kind := kRail, unit := q, detail := r.temp.toNat } s2 else s2

/-- THROTTLE moves by one level (R466). -/
def throttleStep (s : State) : State :=
  let p := s.pwr
  let lim := cfg s 0x0E0001 52 42
  let therm : Int := cfg s 0x0E0001 41 34
  let temps := (List.range 4).map fun q => (rail s q).temp
  let hot := temps.any fun t => decide (therm < t)
  let cool := decide (100 * p.pkgPower < 97 * lim) && temps.all fun t => decide (t < therm - 3)
  if decide (lim < p.pkgPower) || hot then
    s.onPwr fun p => { p with throttle := min 15 (p.throttle + 1), coolSince := none }
  else if cool then
    match p.coolSince with
    | none => s.onPwr fun p => { p with coolSince := some (now s) }
    | some t =>
      if elapsed s t 10000000 then s.onPwr fun p => { p with throttle := p.throttle - 1, coolSince := some (now s) }
      else s
  else s.onPwr fun p => { p with coolSince := none }

/-- POWER_SAMPLE (R438, R466): the readings of 100 µs: PKG_POWER, THROTTLE and the applied setpoints. -/
def execPowerSample (r : RailReadings) (s : State) : Host.Outcome State Fault Refusal :=
  .next (
    if s.gov.state = 0 then s
    else
      let s1 := (List.range 13).foldl (fun s i => readRail i ((r.currents.getD i none)) s) s
      let s2 := (List.range 4).foldl (fun s q => setRail q (fun x => { x with
        meas := (r.senseMv.getD q x.meas) % 1024, temp := r.temps.getD q x.temp }) s) s1
      let w := ((List.range 13).map fun i => railCurrent s2 i * railMv s2 i).sum / 1000000
      let s3 := s2.onPwr fun p => { p with pkgPower := min 4095 w }
      (List.range 4).foldl (fun s q => rangeCheck q s) (applyRails (throttleStep s3)))

/-- AVS_READ_TIMEOUT (R474): a regulator has not answered for `sinceNs`. -/
def execAvsReadTimeout (rail sinceNs : Nat) (s : State) : Host.Outcome State Fault Refusal :=
  .next (if 13 ≤ rail || s.gov.state = 0 then s
    else s.onPwr fun p => { p with avs := kmod {} p.avs rail fun a => { a with silentNs := max a.silentNs sinceNs } })

/-! ### Test access port (R479, R480) -/

/-- EXTEST-class instructions are accepted before step 1 completes, or when halted. -/
def tapOpen (s : State) : Bool :=
  (s.pwr.pstate = .starting && s.pwr.startStep = 0) || s.pwr.pstate = .halted

/-- The instruction selected for an update (Table 18.6); any other code selects BYPASS. TRST_N resets the port to IDCODE, as IEEE 1149.1 gives where a device has one (PRESUMED, log entry 105). -/
def tapSelect (t : TapUpdate) (s : State) : TapInstr :=
  let ext (x : TapInstr) : TapInstr := if tapOpen s then x else .bypass
  match t with
  | .bypass => .bypass
  | .idcode => .idcode
  | .samplePreload => .samplePreload
  | .extest => ext .extest
  | .extestPulse => ext .extestPulse
  | .extestTrain => ext .extestTrain
  | .clamp => ext .clamp
  | .highz => ext .highz
  | .other _ => .bypass
  | .trst => .idcode

/-- TAP_INSTRUCTION_UPDATE (R480): start-up that waited at step 1 goes on when the instruction leaves the EXTEST class. -/
def execTapInstructionUpdate (t : TapUpdate) (s : State) : Host.Outcome State Fault Refusal :=
  .next (
    if !s.pwr.pwrGood || s.pwr.thermTrip then s
    else
      let s1 := s.onPwr fun p => { p with tap := tapSelect t s }
      if s1.pwr.pstate = .starting && s1.pwr.startStep = 0 && tapHolds s && !tapHolds s1 then runStart s1 else s1)

end Sys2Proof.Machine
end

