-- ==== Sys2Proof/Machine/Stream.lean ====
section
/-! DEFINITION. The commands of operation streams (chapters 8 and 9): the scheduler, word fetch, the issue of each word, and the completion of what the engines have in hand (R226-R266). -/

namespace Sys2Proof.Machine

/-! ### Issue -/

/-- Settle a stream whose words may have become requests: the home slices go on between. -/
def settlePump (sid : Nat) (s : State) : State := settle sid (pump (settle sid s))

/-- Issue the head word and let the home slices take the requests it makes. -/
def issueReq (op : Nat) (eff : Nat → Issued → State → State) (s : State) : State :=
  match headWord s with
  | none => s
  | some (sid, w) => if wOp w = op then settlePump sid (issueWord op eff s) else s

/-- Scalar words that take effect at issue: a new state of the stream, then the word is complete (R233, R234). -/
def atIssue (f : Issued → Stream → Stream) (op : Nat) (s : State) : State :=
  issueWord op (scalarWord fun sid i s => completeWord sid i.num (setStream sid (f i) s)) s

/-- NOP. -/
def execNop (s : State) : Host.Outcome State Fault Refusal := .next (atIssue (fun _ t => t) 0x00 s)

/-- HALT (R251): issue stops. -/
def execHalt (s : State) : Host.Outcome State Fault Refusal := .next (atIssue (fun _ t => { t with halted := true }) 0x01 s)

/-- LI. -/
def execLi (s : State) : Host.Outcome State Fault Refusal :=
  .next (atIssue (fun i t => setReg (wRd i.word) (wImm i.word) t) 0x02 s)

/-- The second operand of ALU and BR: IMM (BR: its low half sign-extended) or s[RB]. -/
def secondOperand (i : Issued) (imm : Nat) : Nat := if wImmB i.word then imm else i.rbase

/-- ALU (Table 8.6). -/
def execAlu (s : State) : Host.Outcome State Fault Refusal :=
  .next (atIssue (fun i t =>
    setReg (wRd i.word) (aluOp (wFunc i.word) i.base (secondOperand i (wImm i.word))) t) 0x03 s)

/-- BR (Table 8.6, R238). -/
def execBr (s : State) : Host.Outcome State Fault Refusal :=
  .next (issueWord 0x04 (scalarWord fun sid i s =>
    if brCond (wFunc i.word) i.base (secondOperand i (sext 32 (wf i.word 223 192))) then branchTo sid i s
    else completeWord sid i.num s) s)

/-- LOOP (Table 8.6, R238). -/
def execLoop (s : State) : Host.Outcome State Fault Refusal :=
  .next (issueWord 0x05 (scalarWord fun sid i s =>
    let v := (regVal (stream s sid) (wRd i.word) + 2 ^ 64 - 1) % 2 ^ 64
    let s1 := setStream sid (setReg (wRd i.word) v) s
    if v ≠ 0 then branchTo sid i s1 else completeWord sid i.num s1) s)

/-- Put a word behind the earlier range writes of its stream (R263), or launch it at once. -/
def launchOrHold (sid : Nat) (i : Issued) (s : State) : State :=
  if (stream s sid).ym5 && orderedWrite i then setStream sid (modIssued i.num fun w => { w with started := false }) s
  else launch sid i s

/-- LD (R239): a misaligned address fails as DECODE. -/
def execLd (s : State) : Host.Outcome State Fault Refusal :=
  .next (issueReq 0x06 (scalarWord fun sid i s =>
    if wordAddr i % 8 ≠ 0 then failWord sid i.num i.pc sBAD 1 s else submit sid i.num 0x101 (wordAddr i) 0 [] s) s)

/-- ST (R239). -/
def execSt (s : State) : Host.Outcome State Fault Refusal :=
  .next (issueReq 0x07 (scalarWord fun sid i s =>
    if wordAddr i % 8 ≠ 0 then failWord sid i.num i.pc sBAD 1 s else launchOrHold sid i s) s)

/-- WAIT_ALL (R235): its issue waits for every earlier word. -/
def execWaitAll (s : State) : Host.Outcome State Fault Refusal := .next (atIssue (fun _ t => t) 0x40 s)

/-- WAIT_MULTI (Table 8.6, R259): the counts are taken at issue. -/
def execWaitMulti (s : State) : Host.Outcome State Fault Refusal := .next (atIssue (fun _ t => t) 0x41 s)

/-- TOKEN_SET (Table 8.6). -/
def execTokenSet (s : State) : Host.Outcome State Fault Refusal :=
  .next (atIssue (fun i t =>
    (List.range 64).foldl (fun t k => if bit (wImm i.word) k then setTok k (wCount i.word) t else t) t) 0x42 s)

/-- NOTIFY (Table 8.14, R263). -/
def execNotifyWord (s : State) : Host.Outcome State Fault Refusal :=
  .next (issueReq 0x43 (scalarWord launchOrHold) s)

/-- CALL (R240, R263): of the invocation opcodes a stream may submit only QN_EXEC, HS_LOOKUP, HS_GRAD and BL_SEARCH (R273, R306, R332). -/
def execCall (s : State) : Host.Outcome State Fault Refusal :=
  .next (issueReq 0x50 (scalarWord fun sid i s =>
    if [0x60, 0x64, 0x65, 0x68].contains (wKtop i.word) then launchOrHold sid i s else failWord sid i.num i.pc sBAD 1 s) s)

/-! ### Matrix words (R241-R243) -/

/-- The results of an MM word are formed when it issues, from what the earlier words of the array leave; they reach the scratchpad when it completes (R234, R258). -/
def mmEffect (sid : Nat) (i : Issued) (s : State) : State :=
  let t := stream s sid
  let f := mmFields i.word i.base
  match mmCheck s t.part f with
  | some (cause, st) => failWord sid i.num i.pc st cause s
  | none =>
    if chainBad s t i.num f then failWord sid i.num i.pc sBAD 1 s
    else
      let (ws, fl) := mmResults s (overlayRead s t .mm i.num) f
      let s1 := setStream sid (modIssued i.num fun w => { w with writes := ws, flags := fl, started := false })
        (drawn f.rnd (f.drawsIn s) s)
      { s1 with free := s1.free + f.results }

/-- MM (R241). -/
def execMm (s : State) : Host.Outcome State Fault Refusal := .next (issueWord 0x10 mmEffect s)

/-! ### Vector words (R244) -/

/-- A vector word's results, as those of an MM word. -/
def vecEffect (sid : Nat) (i : Issued) (s : State) : State :=
  let t := stream s sid
  let f := vecFields i.word i.base i.rbase
  match vecCheck s t.part f with
  | some (cause, st) => failWord sid i.num i.pc st cause s
  | none =>
    let (ws, fl) := vecResults s (overlayRead s t .vec i.num) f
    let s1 := setStream sid (modIssued i.num fun w => { w with writes := ws, flags := fl, started := false })
      (drawn f.rnd (f.drawsIn s) s)
    { s1 with free := s1.free + f.draws }

/-- ADD (Table 8.10). -/
def execVecAdd (s : State) : Host.Outcome State Fault Refusal := .next (issueWord 0x20 vecEffect s)
/-- SUB. -/
def execVecSub (s : State) : Host.Outcome State Fault Refusal := .next (issueWord 0x21 vecEffect s)
/-- MUL. -/
def execVecMul (s : State) : Host.Outcome State Fault Refusal := .next (issueWord 0x22 vecEffect s)
/-- FMA. -/
def execVecFma (s : State) : Host.Outcome State Fault Refusal := .next (issueWord 0x23 vecEffect s)
/-- MIN. -/
def execVecMin (s : State) : Host.Outcome State Fault Refusal := .next (issueWord 0x24 vecEffect s)
/-- MAX. -/
def execVecMax (s : State) : Host.Outcome State Fault Refusal := .next (issueWord 0x25 vecEffect s)
/-- CMP. -/
def execVecCmp (s : State) : Host.Outcome State Fault Refusal := .next (issueWord 0x26 vecEffect s)
/-- SEL. -/
def execVecSel (s : State) : Host.Outcome State Fault Refusal := .next (issueWord 0x27 vecEffect s)
/-- DIV. -/
def execVecDiv (s : State) : Host.Outcome State Fault Refusal := .next (issueWord 0x28 vecEffect s)
/-- SQRT. -/
def execVecSqrt (s : State) : Host.Outcome State Fault Refusal := .next (issueWord 0x29 vecEffect s)
/-- FUNC1. -/
def execVecFunc1 (s : State) : Host.Outcome State Fault Refusal := .next (issueWord 0x2A vecEffect s)
/-- CVT. -/
def execVecCvt (s : State) : Host.Outcome State Fault Refusal := .next (issueWord 0x2B vecEffect s)
/-- CVT_BS (R221). -/
def execVecCvtBs (s : State) : Host.Outcome State Fault Refusal := .next (issueWord 0x2C vecEffect s)
/-- RED_ROW. -/
def execVecRedRow (s : State) : Host.Outcome State Fault Refusal := .next (issueWord 0x2D vecEffect s)
/-- RED_ALL (R222). -/
def execVecRedAll (s : State) : Host.Outcome State Fault Refusal := .next (issueWord 0x2E vecEffect s)

/-! ### DMA words (R245, R246) -/

/-- Scratchpad runs of a DMA word at SP_ADDR. -/
def dmaRuns (w : Issued) : List SpRun :=
  (List.range (wf w.word 75 72 + 1)).flatMap fun j => (List.range (wf w.word 171 156 + 1)).map fun r =>
    ⟨wf w.word 223 220 + j, dmaSp w + r * wf w.word 123 100, wf w.word 195 172⟩

/-- The field rules of Table 8.11: CAUSE and status of the first that fails. -/
def dmaCheck (s : State) (p : Nat) (w : Issued) : Option (Nat × Nat) :=
  let x := w.word
  let fields := decide (wf x 61 32 = 0) && decide (wf x 195 172 % 64 = 0) && decide (64 ≤ wf x 195 172)
    && decide (wf x 155 124 % 64 = 0) && decide (wf x 123 100 % 64 = 0)
  let aligned := decide (dmaSp w % 64 = 0)
    && (if wOp x = 0x32 then decide (wf x 231 224 % 64 = 0) else decide (dmaRange w % 64 = 0))
  if !fields || !aligned || !(dmaRuns w).all (runExists s) then some (1, sBAD)
  else if !(dmaRuns w).all (runInWindow s p) then some (2, sDENIED)
  else none

/-- A COPY_IN or COPY_OUT enters the DMA engine. -/
def copyEffect (go : Nat → Issued → State → State) (sid : Nat) (i : Issued) (s : State) : State :=
  match dmaCheck s (stream s sid).part i with
  | some (cause, st) => failWord sid i.num i.pc st cause s
  | none => go sid i s

/-- COPY_IN. -/
def execCopyIn (s : State) : Host.Outcome State Fault Refusal :=
  .next (issueReq 0x30 (copyEffect fun sid i s => submit sid i.num 0x103 0 0 [] s) s)

/-- COPY_OUT (R245, R263). -/
def execCopyOut (s : State) : Host.Outcome State Fault Refusal :=
  .next (issueReq 0x31 (copyEffect launchOrHold) s)

/-- The lines of a COPY_BAY: source and destination as logical bay and offset. The destination's bay and offset are those of the 28-bit address RIMM advanced as the plan of R245 advances a range address. -/
def bayLines (w : Issued) : List ((Nat × Nat) × (Nat × Nat)) :=
  (List.range (dmaCount w.word)).map fun i =>
    let (d, j, o) := dmaLine w.word i
    let dst := wf w.word 251 224 + d
    ((wf w.word 223 220 + j, dmaSp w + o), (dst / 2 ^ 24, dst % 2 ^ 24 + w.base % 2 ^ 24))

/-- The failure of a COPY_BAY's destination. -/
def bayCheck (s : State) (p : Nat) (w : Issued) : Option (Nat × Nat) :=
  let ls := bayLines w
  let dst := ls.map fun x => (⟨x.2.1, x.2.2, 64⟩ : SpRun)
  let src := ls.map fun x => (⟨x.1.1, x.1.2, 64⟩ : SpRun)
  if decide (wf w.word 71 67 ≠ 0) || !dst.all (runExists s) then some (1, sBAD)
  else if !dst.all (runInWindow s p) then some (2, sDENIED)
  else if dst.any fun d => src.any (runsOverlap d) then some (1, sBAD)
  else none

/-- COPY_BAY (R245): its bytes, read at issue, reach their places when it completes. -/
def bayEffect (sid : Nat) (i : Issued) (s : State) : State :=
  match bayCheck s (stream s sid).part i with
  | some (cause, st) => failWord sid i.num i.pc st cause s
  | none =>
    let rd (b o : Nat) : Byte := kget 0 s.core.scratch (spKey ((physBay s b).getD 0) o)
    let ws := (bayLines i).flatMap fun x => (List.range 64).map fun k =>
      (spKey ((physBay s x.2.1).getD 0) (x.2.2 + k), rd x.1.1 (x.1.2 + k))
    setStream sid (modIssued i.num fun w => { w with writes := ws, value := some (sOK, 0) }) s

/-- COPY_BAY. -/
def execCopyBay (s : State) : Host.Outcome State Fault Refusal := .next (issueWord 0x32 (copyEffect bayEffect) s)

/-! ### Completion (R234, R239, R240, R246) -/

/-- The word that the Millstone or the vector engine has started. -/
def startedWord (s : State) (e : Eng) : Option (Nat × Issued) :=
  match s.core.cur with
  | none => none
  | some sid => ((liveIn (stream s sid) e).find? (·.started)).map fun w => (sid, w)

/-- Count in units of 1,024, with what is left over. -/
def bump1024 (a n rem : Nat) (s : State) : Nat × State := ((rem + n) % 1024, bumpBy a ((rem + n) / 1024) s)

/-- The statistics of an MM word (Table 7.14, R205, R208): the array waits for a weight load that nothing hides, or that outlasts the operation before it; only a word that stood issued when that operation ended loaded its weights meanwhile. -/
def mmStats (sid : Nat) (w : Issued) (s : State) : State :=
  let f := mmFields w.word w.base
  let p := f.passes (baysIn s).length
  let occ := f.c * max f.m 1024
  let before := if s.core.shadow = some (sid, w.num) then s.core.occ else 0
  let (r1, s1) := bump1024 (aCORE 3) (f.c * f.m * p) s.core.beatRem (bump (aCORE 0) s)
  let (r2, s2) := bump1024 (aCORE 4) (f.c * 1024 - before) s.core.waitRem s1
  let s3 := if w.flags / fSPAN % 2 = 1 then bump (aCORE 5) s2 else s2
  let next := ((liveIn (stream s3 sid) .mm).find? fun x => decide (w.num < x.num)).map fun x => (sid, x.num)
  bumpBy (aCORE 6) (p - 1) (s3.onCore fun c => { c with
    beatRem := r1, waitRem := r2, occ := occ, weights := some (sid, w.num), shadow := next })

/-- MM_COMPLETE: every result of the started MM word is in the scratchpad. -/
def execMmComplete (s : State) : Host.Outcome State Fault Refusal :=
  .next (match startedWord s .mm with
    | some (sid, w) => settle sid (completeWord sid w.num (markChain w (landWrites w.writes (mmStats sid w s))))
    | none => s)

/-- VECTOR_COMPLETE. -/
def execVectorComplete (s : State) : Host.Outcome State Fault Refusal :=
  .next (match startedWord s .vec with
    | some (sid, w) => settle sid (completeWord sid w.num (landWrites w.writes (bump (aCORE 1) s)))
    | none => s)

/-- The outcome of a word's request: its answer, or TARGET_DEAD once its deadline has passed (R161, R239). -/
def wordAnswer (sid num : Nat) (w : Issued) (s : State) : Option ((Nat × Nat) × State) :=
  match w.value with
  | some v => some (v, s)
  | none => match s.home.waitq.find? fun x => x.src = .call sid num with
    | some it =>
      if elapsed s it.admitted (itemDeadline s it) then
        some ((sDEAD, (deadAnswer it).1), bump (aTXN 10) (removeItem it.id (dropWork it.id s)))
      else none
    | none => none

/-- A word of one of the concurrent engines is answered: it completes as `eff` gives, or fails with its status. -/
def answerWord (ok : BitVec 256 → Bool) (eff : Nat → Issued → Nat × Nat → State → State) (sid num : Nat) (s : State) : State :=
  match findIssued (stream s sid) num with
  | none => s
  | some w =>
    if !w.live || !ok w.word then s
    else match wordAnswer sid num w s with
      | none => s
      | some (v, s1) => settlePump sid (eff sid w v s1)

/-- Complete, or fail with the status of a range access. -/
def rangeEnd (done : Nat → Issued → Nat → State → State) (sid : Nat) (w : Issued) (v : Nat × Nat) (s : State) : State :=
  if v.1 = sOK then completeWord sid w.num (done sid w v.2 s)
  else failWord sid w.num w.pc v.1 (rangeCause v.1) s

/-- DMA_COPY_COMPLETE (R234, R246). -/
def execDmaCopyComplete (sid num : Nat) (s : State) : Host.Outcome State Fault Refusal :=
  .next (answerWord (fun w => within (wOp w) 0x30 0x32) (rangeEnd fun _ w _ s => landWrites w.writes s) sid num s)

/-- LD_COMPLETE (R239): the register is written. -/
def execLdComplete (sid num : Nat) (s : State) : Host.Outcome State Fault Refusal :=
  .next (answerWord (fun w => wOp w = 0x06) (rangeEnd fun sid w v s => setStream sid (setReg (wRd w.word) v) s) sid num s)

/-- ST_COMPLETE (R239). -/
def execStComplete (sid num : Nat) (s : State) : Host.Outcome State Fault Refusal :=
  .next (answerWord (fun w => wOp w = 0x07) (rangeEnd fun _ _ _ s => s) sid num s)

/-- The end of a CALL (R240). -/
def callEnd (sid : Nat) (w : Issued) (v : Nat × Nat) (s : State) : State :=
  let soft := bit (wFunc w.word) 0
  let s1 := setStream sid (fun t =>
    let t1 := setReg (wRd w.word) v.2 t
    if soft then setReg (wRb w.word) v.1 t1 else t1) s
  if soft || v.1 = sOK then completeWord sid w.num s1 else failWord sid w.num w.pc v.1 6 s1

/-- CALL_COMPLETE (R240). -/
def execCallComplete (sid num : Nat) (s : State) : Host.Outcome State Fault Refusal :=
  .next (answerWord (fun w => wOp w = 0x50) callEnd sid num s)

/-! ### Word fetch (R232) -/

/-- STREAM_WORD_FETCH: the line of word `idx` is read on behalf of the running stream; given again when its deadline has passed, the fetch has failed. -/
def execStreamWordFetch (idx : Nat) (s : State) : Host.Outcome State Fault Refusal :=
  .next (match s.core.cur with
    | none => s
    | some sid =>
      let t := stream s sid
      let line (i : Nat) : Nat := (t.base + 32 * i) / 64
      if t.stopping || t.halted || s.core.suspending || decide (fetchedAt t idx ≠ .no)
          || !decide (t.pc ≤ idx ∧ idx < t.pc + 256 ∧ idx < t.count) then s
      else match s.home.waitq.find? fun x => x.op = 0x100 && x.src = .call sid x.tag && line x.param = line idx with
        | some it =>
          if elapsed s it.admitted (itemDeadline s it) then
            settle sid (fetchEnd it sid (some sDEAD) (bump (aTXN 10) s))
          else s
        | none => settle sid (pump (submit sid idx 0x100 ((t.base + 32 * idx) % 2 ^ 64) idx [] s)))

/-! ### The scheduler (R247-R249) -/

/-- The stream of a partition that would run: a suspended one, else the queued one admitted first. -/
def readyOf (s : State) (p : Nat) : Option Nat :=
  match s.core.streams.find? fun x => x.2.st = .suspended && x.2.part = p with
  | some x => some x.1
  | none => s.core.queue.find? fun i => (stream s i).part = p

/-- The partition with the least virtual time among some, the lower number among equals. -/
def leastV (s : State) (ps : List Nat) : Option Nat :=
  ps.foldl (fun (r : Option Nat) p => match r with
    | none => some p
    | some q => if kget 0 s.core.vtime p < kget 0 s.core.vtime q then some p else r) none

/-- Partitions with a stream ready. -/
def readyParts (s : State) : List Nat := (List.range 32).filter fun p => (readyOf s p).isSome

/-- A stream starts (R230, R266) or resumes. -/
def beginStream (sid : Nat) (s : State) : State :=
  let t := stream s sid
  let run (t : Stream) : Stream := { t with st := .running, since := now s, sliceSince := now s }
  let regs : KMap Word := (t.args.zipIdx).foldl (fun m (x : Word × Nat) => kput 0 m (x.2 + 1) x.1) []
  let regs := kput 0 (kput 0 regs 6 (BitVec.ofNat 64 sid)) 7 (BitVec.ofNat 64 (baysIn s).length)
  let s1 := setStream sid (fun t =>
    if t.st = .suspended then run t
    else run { t with regs := regs, toks := [], ym5 := cfg s (0x070500 + t.part) 0 0 = 1 })
    (if t.st = .suspended then s else seedBays s)
  settlePump sid (s1.onCore fun c => { c with
    cur := some sid, suspending := false, occ := 0, queue := c.queue.filter fun i => decide (i ≠ sid) })

/-- STREAM_SCHEDULE (R247): with no stream running, the next is chosen. -/
def execStreamSchedule (s : State) : Host.Outcome State Fault Refusal :=
  .next (
    if !inService s || s.core.cur.isSome || s.core.lostSeq || s.core.lostDma then s
    else match (leastV s (readyParts s)).bind (readyOf s) with
      | some sid => beginStream sid s
      | none => s)

/-- SLICE_US_EXPIRY (R247): the running stream has had its slice; where another partition is due it is to be suspended. -/
def execSliceUsExpiry (s : State) : Host.Outcome State Fault Refusal :=
  .next (match s.core.cur with
    | none => s
    | some sid =>
      let t := stream s sid
      let others := (readyParts s).filter fun p => decide (p ≠ t.part)
      if s.core.suspending || t.stopping || others.isEmpty
          || !elapsed s t.sliceSince (cfg s 0x070300 31 16 * 1000) then s
      else
        let s1 := accrue sid s
        let all := (List.range 32).filter fun p => p = t.part || others.contains p
        if leastV s1 all = some t.part then s1 else s1.onCore fun c => { c with suspending := true })

/-- An operation boundary (R248): no MM or vector word of the running stream is started and not complete. -/
def atBoundary (s : State) : Bool :=
  match s.core.cur with
  | none => true
  | some sid => !((liveWords (stream s sid)).any fun w => w.started && (w.eng = .mm || w.eng = .vec))

/-- OPERATION_BOUNDARY (R248): the stream to be suspended is. -/
def execOperationBoundary (s : State) : Host.Outcome State Fault Refusal :=
  .next (match s.core.cur with
    | none => s
    | some sid =>
      if !s.core.suspending || !atBoundary s then s
      else
        let s1 := setStream sid (fun t => { t with st := .suspended }) (accrue sid s)
        bump (aCORE 9) (s1.onCore fun c => { c with cur := none, suspending := false }))

/-- MAX_MS_EXPIRY (R249): the running time has reached MAX_MS. -/
def execMaxMsExpiry (s : State) : Host.Outcome State Fault Refusal :=
  .next (match s.core.cur with
    | none => s
    | some sid =>
      let t := stream s sid
      if (if t.maxMs = 0 then 60000 else t.maxMs) * 1000000 ≤ t.runNs + (now s - t.since) then
        settle sid (stopStream sid sTIMEOUT 10 s)
      else s)

end Sys2Proof.Machine
end

