-- ==== Sys2Proof/Machine/Gov.lean ====
section
/-! DEFINITION. The Governor's commands (chapter 16) and the Fantail arbiter's (chapter 15): counting windows, suspects, steps, permanent units, the slow bay, parity and code errors, spare rows, injections under way, the charge token (R419-R421, R423-R445, R450-R452). -/

namespace Sys2Proof.Machine

/-! ### Judging (R436, R437, Tables 16.5 and 16.7) -/

/-- The unit kinds an event kind is counted against (Table 16.5). -/
def evPairs (k : EvKind) (kind : Nat) : Bool :=
  match k with
  | .leatReplay | .leatFailure => kind = kBay || kind = kDevice
  | .sramReread | .sramFailure => decide (kind ≤ kDevice)
  | .t1Corrected | .t1Uncorrectable => kind = kLane
  | .t2Corrected | .t2Uncorrectable => kind = kDdr
  | .nandRetry => kind = kNand
  | .fecSymbols | .fecCodewords => kind = kSerdes
  | .lockLoss => kind = kIsland
  | .slowBay => false

/-- The Permanent column of Table 16.5, by the count and the windows in a row in which the unit was suspect. -/
def columnPermanent (k : EvKind) (n runs marks : Nat) : Bool :=
  match k with
  | .leatFailure => decide (2 ≤ n)
  | .t1Uncorrectable | .t2Uncorrectable => decide (8 ≤ n) || decide (2 ≤ marks)
  | .t1Corrected | .t2Corrected => decide (2 ≤ marks)
  | .fecSymbols | .fecCodewords => decide (3 ≤ runs)
  | .lockLoss => decide (3 ≤ n)
  | _ => false

/-- What answers a suspect unit. -/
inductive Resp where
  | nothing | waits | vstep (q : Nat) | rate (i : Nat) | permanent
  deriving DecidableEq, Repr

/-- A step of the quarter is being measured (R437). -/
def measuring (s : State) (q : Nat) : Bool :=
  match (rail s q).measuringTo with
  | some t => decide (now s < t)
  | none => false

/-- The response of Table 16.7 to a suspect unit. -/
def response (s : State) (kind unit : Nat) : Resp :=
  match quarterOf kind unit with
  | some q => if measuring s q then .waits else if vstepLeft s q then .vstep q else .permanent
  | none => match islandOf kind unit with
    | some i => if (island s i).toStep.isSome then .waits else if rateLeft s i then .rate i else .permanent
    | none => .nothing

/-- Bays that may still be mapped out under MAPOUT_MAX (R445). -/
def mapOutRoom (s : State) : Bool :=
  decide (s.gov.mappedOut.length + s.core.mapOutDue.length < cfg s 0x0D0000 39 37)

/-- A permanent unit's fate (Table 16.7): a bay is mapped out where MAPOUT_MAX leaves room; a home slice, a rail and a device-level unit are never retired. -/
def permanentUnit (kind unit : Nat) (s : State) : State :=
  if kind = kBay || kind = kCols then (if mapOutRoom s then decideMapOut unit s else s)
  else if kind = kHome || kind = kRail || kind = kDevice then s
  else retireUnit kind unit s

/-- The unit's record of this boot in the history (R435). -/
def noteBoot (kind unit step : Nat) (s : State) : State :=
  setHist (unitKey kind unit) (fun h => { h with boots := match h.boots with
    | b :: r => (true, max b.2 step) :: r
    | [] => [(true, step)] }) s

/-- A unit becomes suspect, where it was not. -/
def markSuspect (kind unit : Nat) (s : State) : State :=
  let u := unitH s (unitKey kind unit)
  if u.health = .clean || u.health = .stepped then
    unitEvent 0 kind unit 0 (noteBoot kind unit 0 (setHealth kind unit .suspect s))
  else s

/-- A voltage step is taken for a unit and measured over a window (R40, R437). -/
def takeVstep (kind unit q window : Nat) (s : State) : State :=
  let n := (rail s q).vstep + 1
  let s1 := setRail q (fun r => { r with vstep := n, measuringTo := some (now s + window) }) s
  unitEvent 1 kind unit n (bump (aGOV 9) (noteBoot kind unit n (applyRails s1)))

/-- A rate step is taken for a unit: its island drains towards it (R46). -/
def takeRate (kind unit i : Nat) (s : State) : State :=
  let n := (island s i).step + 1
  unitEvent 2 kind unit n (bump (aGOV 9) (noteBoot kind unit n (setIsland i (fun x => { x with toStep := some n }) s)))

/-- A decision that injected events brought about and that is not applied (R452). -/
def dryDecision (code kind unit : Nat) (s : State) : State :=
  (hlogWrite { cls := 4, code := code, kind := kind, unit := unit, injected := true, decision := true, dry := true } s).2

/-- FI_ACT. -/
def fiAct (s : State) : Bool := cfg s 0x0D0000 36 36 = 1

/-- The Governor's decision on a unit measured suspect; `perm` where it meets the Permanent column. -/
def decideSuspect (kind unit window : Nat) (perm inj : Bool) (s : State) : State :=
  let r := if perm then .permanent else response s kind unit
  if inj && !fiAct s then
    dryDecision (match r with
      | .vstep _ => 1
      | .rate _ => 2
      | .permanent => if kind = kBay || kind = kCols then 5 else if kind = kDdr then 4 else 3
      | _ => 0) kind unit s
  else
    let s1 := markSuspect kind unit s
    match r with
    | .nothing => s1
    | .waits => s1
    | .vstep q => takeVstep kind unit q window s1
    | .rate i => takeRate kind unit i s1
    | .permanent => permanentUnit kind unit s1

/-- The step a unit's history of this boot shows. -/
def bootStep (s : State) (kind unit : Nat) : Nat :=
  match (hist s (unitKey kind unit)).boots with
  | b :: _ => b.2
  | [] => 0

/-- A unit measured below every threshold leaves suspect and keeps its steps (R436). -/
def leaveSuspect (kind unit : Nat) (s : State) : State :=
  let u := unitH s (unitKey kind unit)
  if u.health = .suspect && u.runs.isEmpty then
    let s1 := setHealth kind unit (if bootStep s kind unit = 0 then .clean else .stepped) s
    (hlogWrite { cls := 4, code := 0, kind := kind, unit := unit, force := true } s1).2
  else s

/-- Devices or byte lanes with at least 16 lines in error in the window are marked erased (R427). -/
def markErased (kind unit : Nat) (s : State) : State :=
  let due := ((unitH s (unitKey kind unit)).devLines.filter fun d => decide (16 ≤ d.2)).map (·.1)
  due.foldl (fun s d =>
    if (hist s (unitKey kind unit)).erased.contains d then s
    else unitEvent 9 kind unit d (setHist (unitKey kind unit) (fun h => { h with erased := h.erased ++ [d] }) s)) s

/-- The window closes: its counts start again (R436). -/
def resetWindow (k : EvKind) (key : Nat) (suspect : Bool) (s : State) : State :=
  setUnitH key (fun u => { u with
    counts := kput 0 u.counts (evIdx k) 0, injected := kput false u.injected (evIdx k) false,
    runs := kmod 0 u.runs (evIdx k) (fun r => if suspect then r + 1 else 0), logged := [],
    devLines := if k = .t1Corrected ∨ k = .t2Corrected then [] else u.devLines }) s

/-- Windows that wait for a half in charge to judge them (R443): the token is in transfer or with no half. -/
def nobodyDecides (s : State) : Bool := s.gov.state = 2 && (holderHalf s).isNone

/-- A window is counted and not judged: in start-up and Furl, while frozen, and for voltage-step units while THROTTLE is 9 or above (R421, R461, R467). -/
def notJudged (s : State) (kind unit : Nat) : Bool :=
  !canDecide s || unitLost s kind unit
  || (decide (9 ≤ s.pwr.throttle) && (quarterOf kind unit).isSome)

/-- What a lane's FEC showed over the window: symbols corrected, which count in FEC_SYMBOLS (Table 4.5), or codewords lost. Past the threshold of symbols an event is raised (Table 16.3). -/
def noteFec (k : EvKind) (unit reading : Nat) (s : State) : State :=
  let l := unit % 65536
  if !(k = .fecSymbols || k = .fecCodewords) || reading = 0 then s
  else
    let s1 := setUnitH unit (fun u => { u with
      counts := kmod 0 u.counts (evIdx k) (· + reading), total := min 65535 (u.total + reading), lastTs := now s }) s
    if k = .fecCodewords then s1
    else
      let s2 := bumpBy (0x030100 + l) reading s1
      if evSuspectAt k ≤ kget 0 (unitH s2 unit).counts (evIdx k) then event { cls := 0, code := 3, kind := kSerdes, unit := l } s2
      else s2

/-- GOV_WINDOW_CLOSE (R427, R436, R437, R452): a unit's window of one event kind. `reading` is what a lane's FEC showed, for its two kinds. -/
def execGovWindowClose (k : EvKind) (unit reading : Nat) (s0 : State) : Host.Outcome State Fault Refusal :=
  .next (
    let kind := unit / 65536
    let u := unit % 65536
    if s0.gov.state = 0 || !evPairs k kind || decide (unitCount kind ≤ u) || nobodyDecides s0 then s0
    else
      let s := noteFec k unit reading s0
      let h := unitH s unit
      let n := kget 0 h.counts (evIdx k)
      let inj := kget false h.injected (evIdx k)
      let suspect := decide (evSuspectAt k ≤ n)
      if notJudged s kind u then resetWindow k unit false s
      else
        let s1 := if k = .t1Corrected || k = .t2Corrected then markErased kind u s else s
        let s2 := resetWindow k unit suspect s1
        let perm := columnPermanent k n (kget 0 (unitH s2 unit).runs (evIdx k)) (hist s2 unit).erased.length
        if suspect || perm then decideSuspect kind u (evWindow k) perm inj s2 else leaveSuspect kind u s2)

/-! ### The slow bay (R444, R445) -/

/-- Exact means of the bays in service on a common scale: each sum times the common multiple of the window counts over its own. -/
def bayMeans (s : State) : List (Nat × Nat) :=
  let bs := baysIn s
  let n (b : Nat) : Nat := kget 0 s.pwr.slowWindows b
  let l := bs.foldl (fun a b => Nat.lcm a (n b)) 1
  bs.map fun b => (b, kget 0 s.pwr.slowSum b * (l / n b))

/-- Insert into a rising list. -/
def insertNat (x : Nat) : List Nat → List Nat
  | [] => [x]
  | y :: r => if x ≤ y then x :: y :: r else y :: insertNat x r

/-- Twice the median: the middle value, or the mean of the two middle values. -/
def median2 (xs : List Nat) : Nat :=
  let l := xs.foldr insertNat []
  let n := l.length
  if n % 2 = 1 then 2 * l.getD (n / 2) 0 else l.getD (n / 2 - 1) 0 + l.getD (n / 2) 0

/-- The answer to a slow bay: a step, a map-out, or neither. -/
def slowBayDecide (b : Nat) (s : State) : State :=
  let q := b / 4
  let s1 := markSuspect kBay b s
  if measuring s1 q then s1
  else if vstepLeft s1 q then
    let s2 := s1.onGov fun g => { g with
      mapOutVstep := if kget 0 g.mapOutVstep b = 0 then kput 0 g.mapOutVstep b ((rail s1 q).vstep + 1) else g.mapOutVstep }
    takeVstep kBay b q 100000000 s2
  else if mapOutRoom s1 then decideMapOut b s1 else s1

/-- One bay at the close of a slow-bay window. -/
def slowBayJudge (b : Nat) (slow inj : Bool) (s : State) : State :=
  let key := unitKey kBay b
  let s1 := if slow then countEvent .slowBay kBay b 0 inj s else s
  let s2 := resetWindow .slowBay key slow s1
  if !slow then leaveSuspect kBay b s2
  else if inj && !fiAct s2 then dryDecision (if vstepLeft s2 (b / 4) then 1 else 5) kBay b s2
  else slowBayDecide b s2

/-- The slow-bay injections of a window are used up (Table 16.11). -/
def useSlowInject (s : State) : State :=
  s.onGov fun g => { g with injects := g.injects.map fun x =>
    if x.2.live && x.2.fault = 0x40 && decide (0 < x.2.armed) then (x.1, { x.2 with armed := x.2.armed - 1 }) else x }

/-- SLOW_BAY_WINDOW (R444, R445, R467): the close of 100 ms, when every bay in service has its 100 values. -/
def execSlowBayWindow (s : State) : Host.Outcome State Fault Refusal :=
  .next (
    let bs := baysIn s
    if s.gov.state = 0 || nobodyDecides s || bs.any (fun b => decide (kget 0 s.pwr.slowWindows b < 100)) then s
    else
      let ms := bayMeans s
      let med := median2 (ms.map (·.2))
      let inj (b : Nat) : Bool := s.gov.injects.any fun x =>
        x.2.live && x.2.fault = 0x40 && x.2.unit = b && decide (0 < x.2.armed)
      let s1 := useSlowInject (s.onPwr fun p => { p with slowSum := [], slowWindows := [] })
      if !canDecide s || decide (9 ≤ s.pwr.throttle) then s1
      else ms.foldl (fun s m => slowBayJudge m.1 (decide (m.2 * 200 < 92 * med)) (inj m.1) s) s1)

/-- BAY_MAP_OUT (R199, R445): the oldest map-out decided takes effect at an operation boundary. -/
def execBayMapOut (s : State) : Host.Outcome State Fault Refusal :=
  .next (match s.core.mapOutDue with
    | b :: _ => if atBoundary s then mapOutBay b s else s
    | [] => s)

/-! ### Parity on the die (R423-R425) -/

/-- The unit exists and is not out of service. -/
def unitHere (s : State) (kind unit : Nat) : Bool := decide (unit < unitCount kind) && !unitLost s kind unit

/-- An item ends with INTERNAL_FAULT. -/
def itemFault (node tag : Nat) (s : State) : State :=
  match s.home.waitq.find? fun x => x.src = .agent node && x.tag = tag && x.answer.isNone with
  | some it => pump (endItem it sFAULT 0 [] (dropWork it.id s))
  | none => s

/-- A stream ends with cause FAULT (Table 8.13). -/
def streamFault (sid : Nat) (s : State) : State :=
  let t := stream s sid
  if t.st = .running || t.st = .suspended then settle sid (stopStream sid sFAULT 15 s) else s

/-- How often a word fails, with an armed injection of a transient or a persistent fault taken first. -/
def armedFailures (kind unit transient persistent failures : Nat) (s : State) : Nat × Bool × State :=
  match takeArmed kind unit [transient, persistent] s with
  | (some f, s1) => (if f = transient then 1 else 4, true, s1)
  | (none, s1) => (failures, false, s1)

/-- LEAT_PARITY_ERROR (R35, R423). -/
def execLeatParityError (e : LeatError) (s : State) : Host.Outcome State Fault Refusal :=
  .next (
    if !(e.kind = kBay || e.kind = kDevice) || !unitHere s e.kind e.unit then s
    else
      let (n, inj, s1) := armedFailures e.kind e.unit 1 2 e.failures s
      if n = 0 then s1
      else if n ≤ 3 then countEvent .leatReplay e.kind e.unit 0 inj s1
      else
        let s2 := countEvent .leatFailure e.kind e.unit 0 inj s1
        match e.line, e.stream, e.req with
        | some l, _, _ => poisonLine l (some (e.kind, e.unit)) inj s2
        | none, some sid, _ => streamFault sid s2
        | none, none, some (n, t) => itemFault n t s2
        | none, none, none => s2)

/-- A number for each array of Table 16.1. -/
def arrayIdx : SramArray → Nat
  | .scratchpad => 0 | .lineCache => 1 | .combining => 2 | .directory => 3 | .pageMapCache => 4
  | .ktRetransmit => 5 | .ktReceive => 6 | .hoistRow => 7 | .hoistMerge => 8 | .bolterState => 9
  | .rebuildBuffer => 10 | .novva => 11

/-- Novva is lost (R386). -/
def loseNovva (s : State) : State :=
  if s.sec.nvState = .ready then
    unitEvent 10 kDevice 0 0 (s.onSec fun x => { x with nvState := .lost })
  else s

/-- The outcome of an SRAM failure (Table 16.1). -/
def sramOutcome (e : SramError) (inj : Bool) (s : State) : State :=
  let u := some (e.kind, e.unit)
  match e.array with
  | .scratchpad => streamFault e.item s
  | .lineCache =>
    let c := kget {} s.store.lineCache e.item
    if !c.held then s else if c.modified then poisonLine e.item u inj s else lcDrop e.item s
  | .combining =>
    if !combOpen s e.item then s
    else if inj then poisonLine e.item u inj s
    else poisonLine e.item u inj (s.onHome fun h => { h with comb := kput {} h.comb e.item {} })
  | .directory => pump (startFlush e.unit s)
  | .pageMapCache =>
    let c := kget {} s.store.mapCache e.item
    if !c.held || inj then s
    else
      let s1 := s.onStore fun st => { st with mapCache := kput {} st.mapCache e.item {} }
      if c.modified then s1.onStore fun st => { st with mapLost := kput 0 st.mapLost e.item 1 } else s1
  | .ktRetransmit => if (ctx s e.item).live then closeNow e.item (emitClose e.item 3 s) else s
  | .ktReceive => s
  | .hoistRow => s.onEng fun x => { x with rowBuf := kput (0, 0) x.rowBuf e.item (0, 0) }
  | .hoistMerge =>
    let h := hstep s e.item
    if h.taken && h.rows.any fun r => r.1 = e.key then
      setHstep e.item (fun h => { h with rows := kmod {} h.rows e.key fun r => { r with poison := true } }) s
    else s
  | .bolterState => if s.home.waitq.any fun x => x.search.isSome && x.src = .agent e.item && x.tag = e.key
      then itemFault e.item e.key s else s
  | .rebuildBuffer => s
  | .novva => loseNovva s

/-- SRAM_PARITY_ERROR (R424, Table 16.1). A failed row waits for its spare, unless the failure was injected. -/
def execSramParityError (e : SramError) (s : State) : Host.Outcome State Fault Refusal :=
  .next (
    if !unitHere s e.kind e.unit then s
    else
      let (n, inj, s1) := armedFailures e.kind e.unit 3 4 e.failures s
      if n = 0 then s1
      else if n ≤ 3 then countEvent .sramReread e.kind e.unit 0 inj s1
      else
        let s2 := sramOutcome e inj (countEvent .sramFailure e.kind e.unit 0 inj s1)
        if inj then s2
        else setUnitH (unitKey e.kind e.unit) (fun u => { u with needSpare := kput false u.needSpare (arrayIdx e.array) true }) s2)

/-- The key of a bank among a unit's spare rows. -/
def bankKey (e : SramError) (bank : Nat) : Nat := arrayIdx e.array * 65536 + bank

/-- The failing row of a bank with no spare left is disabled (R425). -/
def disableRow (e : SramError) (s : State) : State :=
  let dir := e.array = .directory
  if dir || e.array = .lineCache then
    let k := if dir then dirSet e.item else 32768 + lcSet e.item
    unitEvent 8 e.kind e.unit k
      ((setHist (unitKey e.kind e.unit) (fun h => { h with waysOut := h.waysOut ++ [k] }) s).onHome fun h =>
        { h with waysOut := kmod 0 h.waysOut (e.unit * 65536 + k) (· + 1) })
  else if !canDecide s then s
  else if e.array = .scratchpad then decideMapOut e.unit s
  else permanentUnit e.kind e.unit s

/-- SPARE_ROW_REPLACE (R425): a spare row of the bank takes the failed row's place; the scratchpad word that failed becomes zero. -/
def execSpareRowReplace (e : SramError) (bank : Nat) (s : State) : Host.Outcome State Fault Refusal :=
  .next (
    let key := unitKey e.kind e.unit
    if !kget false (unitH s key).needSpare (arrayIdx e.array) then s
    else
      let s1 := setUnitH key (fun u => { u with needSpare := kput false u.needSpare (arrayIdx e.array) false }) s
      if kget 0 (hist s1 key).spares (bankKey e bank) < 2 then
        let s2 := setHist key (fun h => { h with spares := kmod 0 h.spares (bankKey e bank) (· + 1) }) s1
        let s3 := setUnitH key (fun u => { u with spares := min 255 (u.spares + 1) }) s2
        unitEvent 7 e.kind e.unit bank
          (if e.array = .scratchpad then spWrite e.unit (e.key / 8 * 8) (List.replicate 8 0) s3 else s3)
      else disableRow e s1)

/-! ### Patrol and events -/

/-- PATROL_READ (R426, R429): a line of T1 or T2 is read through its code and written back; HEAT does not count it. -/
def execPatrolRead (line : Nat) (syms : SymErr) (s : State) : Host.Outcome State Fault Refusal :=
  .next (
    if s.gov.state = 0 || (lineUnit s line).isNone || pageLost s (line / 1024) || !mediumReady s line then s
    else (tierRead line syms (bump (aGOV 13) s)).2)

/-- EVENT_FOLD_EXPIRY (R433): the 1 ms of a unit, class and partition is over; the next record carries what was folded. -/
def execEventFoldExpiry (key : Nat) (s : State) : Host.Outcome State Fault Refusal :=
  .next (
    let f := kget {} s.gov.folds key
    if f.open_ && elapsed s f.at_ 1000000 then
      s.onGov fun g => { g with folds := kput {} g.folds key { f with open_ := false } }
    else s)

/-! ### Injections (R450-R452) -/

/-- Faults that wait for the next opportunity in their unit. -/
def armsFault (f : Nat) : Bool := !([0x20, 0x21, 0x30].contains f)

/-- An injection ends: logged, and its place is free. -/
def endInject (i : Nat) (s : State) : State :=
  let j := kget {} s.gov.injects i
  event { cls := 12, code := 1, kind := j.kind, unit := j.unit, detail := j.fault, injected := true, force := true }
    (s.onGov fun g => { g with injects := kput {} g.injects i {} })

/-- A fault made at once: a codeword lost, a link down, a lock lost and found again. -/
def faultNow (j : Inject) (s : State) : State :=
  if j.fault = 0x20 then countEvent .fecCodewords kSerdes j.unit 0 true s
  else if j.fault = 0x21 then
    let l := 4 * j.unit
    if (link s l).st = .up then leavePlane (linkPlane l) (setLink l { st := .down } s) else s
  else
    let i := j.unit
    if islandUp s i then
      let s1 := setIsland i (fun x => { x with st := .held, tries := 0, toStep := none, lockLoss := min 65535 (x.lockLoss + 1) }) s
      let s2 := tokenAfterIsland (countEvent .lockLoss kIsland i 0 true s1)
      reopened i (setIsland i (fun x => { x with st := .running }) s2)
    else s

/-- FI_FAULT_TICK (R450, Table 16.11): an injection makes its next fault, or ends when all its faults have been met. -/
def execFiFaultTick (inj : Nat) (s : State) : Host.Outcome State Fault Refusal :=
  .next (
    let j := kget {} s.gov.injects inj
    if !j.live then s
    else if j.left = 0 then (if j.armed = 0 then endInject inj s else s)
    else if !elapsed s j.lastAt (j.periodUs * 1000) then s
    else
      let arm := armsFault j.fault
      let j1 := { j with left := j.left - 1, lastAt := now s, armed := if arm then j.armed + 1 else j.armed }
      let s1 := bump (aGOV 12) (s.onGov fun g => { g with injects := kput {} g.injects inj j1 })
      let s2 := if arm then s1 else faultNow j s1
      if j.left = 1 && !arm then endInject inj s2 else s2)

/-! ### The Fantail arbiter (R419-R421) -/

/-- TOKEN_HEARTBEAT_MISSED (R420): 100 µs without a signal; the holder itself does not know of it (R419). -/
def execTokenHeartbeatMissed (s : State) : Host.Outcome State Fault Refusal :=
  .next ((moveToken s).onMach fun m => { m with believesWest := s.mach.believesWest, believesEast := s.mach.believesEast })

/-- TOKEN_TRANSFER_DONE (R420): the other half takes the token under a new generation, announced to every unit; with that half gone no half takes it. -/
def execTokenTransferDone (s : State) : Host.Outcome State Fault Refusal :=
  .next (
    if s.mach.holder ≠ .transfer || s.mach.arbFault then s
    else
      let east := s.mach.toEast
      if !halfUp s (b2n east) then s.onMach fun m => { m with holder := .none }
      else s.onMach fun m => { m with
        holder := if east then .east else .west, lastHolder := if east then .east else .west,
        gen := (m.gen + 1) % 2 ^ 32, genCopy := (m.gen + 1) % 2 ^ 32, unitGen := (m.gen + 1) % 2 ^ 32,
        believesWest := m.believesWest || !east, believesEast := m.believesEast || east })

/-- ARBITER_FAULT (R421): configuration freezes until the next reset. -/
def execArbiterFault (s : State) : Host.Outcome State Fault Refusal :=
  .next (
    if s.mach.arbFault || decide (s.pwr.startStep < 2) then s
    else
      let s1 := (s.onMach fun m => { m with arbFault := true }).onGov fun g =>
        { g with state := if g.state = 2 then 3 else g.state }
      event { cls := 10, code := 0, nodes := some (enabledNotify s1), force := true } s1)

/-- STALE_CONFIG_WRITE (R419): a half that believes itself in charge writes under an old generation: every unit discards it, and the half becomes standby. -/
def execStaleConfigWrite (half gen : Nat) (s : State) : Host.Outcome State Fault Refusal :=
  .next (
    let believes := if half = 0 then s.mach.believesWest else s.mach.believesEast
    if decide (2 ≤ half) || !believes || holderHalf s = some half || decide (s.mach.unitGen ≤ gen) then s
    else
      event { cls := 10, code := 1, kind := kHalf, unit := half, detail := gen }
        (bump (aSET 8) (s.onMach fun m =>
          if half = 0 then { m with believesWest := false } else { m with believesEast := false })))

/-- WEIR_COPY_MISMATCH (R441): every entry is set to a full bucket and nothing outstanding; the class and code of the event are not given (free). -/
def execWeirCopyMismatch (s : State) : Host.Outcome State Fault Refusal :=
  .next (
    if s.pwr.startStep < 11 then s
    else
      let (v, s1) := freeVal s
      let s2 := s1.kt.ctxs.foldl (fun s p => setCtx p.1 (fun c => { c with bucket := none, outstanding := 0 }) s) s1
      event { cls := v.toNat % 13, code := v.toNat / 16 % 16, kind := kDevice } s2)

end Sys2Proof.Machine
end

