-- ==== Sys2Proof/Machine/Parts.lean ====
section
/-! DEFINITION. The commands of partitions, extents, grants and the scrub (R370-R383). -/

namespace Sys2Proof.Machine

/-! ### Runs of extents -/

/-- The extents of a run. -/
def runOf (first count : Nat) : List Nat := (List.range (min count 65536)).map fun i => first + i

/-- Consecutive numbers as runs. -/
def runsOf : List Nat → List (Nat × Nat)
  | [] => []
  | x :: xs => match runsOf xs with
    | [] => [(x, 1)]
    | (a, n) :: r => if a = x + 1 then (x, n + 1) :: r else (x, 1) :: (a, n) :: r

def Grant.has (g : Grant) (e : Nat) : Bool := decide (g.first ≤ e ∧ e < g.first + g.count)

/-- A grant entry as entries of some of its extents. -/
def Grant.part (g : Grant) (p : Nat → Bool) : List Grant :=
  (runsOf ((List.range g.count).map (fun i => g.first + i) |>.filter p)).map fun r => { g with first := r.1, count := r.2 }

/-- The entries of an extent. -/
def grantsAt (s : State) (e : Nat) : List Grant := s.sec.grants.filter fun g => g.has e

/-- The run rules of R376: every extent in the map, owned, and by one partition; an extent that failed its scrub has no owner and is quarantined. -/
def runOwned (s : State) (es : List Nat) : Bool :=
  let owners := (es.filterMap fun e => if (extent s e).failed then none else some (extent s e).part).dedup
  es.all (fun e => decide (e < mapExtents s) && decide ((extent s e).xstate ≠ 0)) && decide (owners.length ≤ 1)

/-! ### Enabling partitions (R373, R374) -/

/-- A key whose two halves differ (R389). -/
def drawKey (s : State) : List Byte × State :=
  let (k, s1) := drbgBytes 64 s
  if k.take 32 = k.drop 32 then drbgBytes 64 s1 else (k, s1)

/-- PART_ENABLE (R373). -/
def execPartEnable (c : FsCmd) (s : State) : Host.Outcome State Fault Refusal :=
  let n := prm c 0 1
  .next (runFelset
    { fop := 0x0200, plen := 8, audited := true, rights := isInstaller
      checks := fun _ s => [(0, decide (n < 32) && !(part s n).enabled), resZero c 1 7]
      body := fun _ s =>
        let e := ((part s n).keyEpoch + 1) % 2 ^ 32
        let (k, s1) := drawKey s
        fsOk (setPart n (fun p => { p with enabled := true, disabling := false, keyEpoch := e, key := k }) s1)
          (leBytes 4 e ++ leBytes 4 0) } c s)

/-- Extents are taken (R377): admission closes, groups and steps that use them are abandoned, sets that lie in them are Broken. -/
def takeExtents (es : List Nat) (s : State) : State :=
  let hit (off n : Nat) : Bool := (linesOf off n).any fun l => es.contains (extentOf (l * 64))
  let touches (x : Tables) (tab : Nat) : Bool :=
    (x.regions (globalOf s tab) false true).any fun r => es.any fun e =>
      decide (e * 2 ^ 28 < r.1 % 2 ^ 50 + r.2.1 ∧ r.1 % 2 ^ 50 < (e + 1) * 2 ^ 28)
  let s1 := es.foldl (fun s e => setExtent e (fun x => { x with xstate := 2, since := now s }) s) s
  let s2 := bumpBy (aSEC 2) es.length s1
  let s3 := abandonGroups (fun off g => hit off 64 || hit g.target (64 * g.lines)) 0 s2
  let s4 := (s3.eng.steps.filter fun h => h.2.taken && touches h.2.tables h.1).foldl (fun s h => abandonStep h.1 s) s3
  let s5 := (List.range 16).foldl (fun s i =>
    if (setSt s i).sstate ≠ 0 ∧ es.any (fun e => decide (slotFirst s i ≤ e ∧ e < slotFirst s i + slotCount s i)) then
      setSet i (fun r => { r with broken := true }) s
    else s) s4
  pump (refreshSets s5)

/-- Begin to disable a partition (R374): its streams end, its extents are taken. -/
def disablePart (n : Nat) (s : State) : State :=
  let s1 := endQueued (fun t => t.part = n) 11 s
  let s2 := (s1.core.streams.filter fun p => p.2.part = n && (p.2.st = .running || p.2.st = .suspended)).foldl
    (fun s p => settle p.1 (stopStream p.1 sABORTED 11 s)) s1
  let es := (s2.sec.extents.filter fun x => x.2.xstate = 1 && x.2.part = n).map (·.1)
  takeExtents es (setPart n (fun p => { p with disabling := true }) s2)

/-- PART_DISABLE (R374), steps 1 and 2; PART_DISABLE_FINISH does the rest. -/
def execPartDisable (c : FsCmd) (s : State) : Host.Outcome State Fault Refusal :=
  let n := prm c 0 1
  .next (runFelset
    { fop := 0x0201, plen := 8, audited := true, rights := isInstaller
      checks := fun _ s => [(0, decide (n < 32) && (part s n).enabled && !(part s n).disabling), resZero c 1 7]
      body := fun _ s => fsOk (disablePart n s) } c s)

/-- PART_DISABLE_FINISH (R374): every extent has become unowned, verified or failed. -/
def execPartDisableFinish (part : Nat) (s : State) : Host.Outcome State Fault Refusal :=
  .next (
    let p := Sys2Proof.Machine.part s part
    if !p.enabled || !p.disabling || (s.sec.extents.any fun x => x.2.part = part && x.2.xstate ≠ 0 && !x.2.failed) then s
    else
      let a := 0x070200 + part
      setPart part (fun p => { keyEpoch := p.keyEpoch })
        (cwSetField a 7 0 0 (windowMoved (cwRaw s a) 0 s)))

/-- EXT_ASSIGN (R375). -/
def execExtAssign (c : FsCmd) (s : State) : Host.Outcome State Fault Refusal :=
  let n := prm c 0 1
  let es := runOf (prm c 4 4) (prm c 8 4)
  .next (runFelset
    { fop := 0x0202, plen := 12, audited := true, rights := isInstaller
      checks := fun _ s => [(0, decide (n < 32) && (part s n).enabled && !(part s n).disabling), resZero c 1 3,
        (4, es.all fun e => decide (e < mapExtents s) && decide ((extent s e).xstate = 0)), (8, within (prm c 8 4) 1 65536)]
      body := fun _ s => fsOk (es.foldl (fun s e => setExtent e (fun _ => { xstate := 1, part := n }) s) s) } c s)

/-- EXT_RELEASE (R377): of extents in XSTATE 1. -/
def execExtRelease (c : FsCmd) (s : State) : Host.Outcome State Fault Refusal :=
  let es := runOf (prm c 0 4) (prm c 4 4)
  .next (runFelset
    { fop := 0x0203, plen := 8, audited := true, rights := isInstaller
      checks := fun _ s => [(0, es.all fun e => (extent s e).xstate = 1), (4, within (prm c 4 4) 1 65536)]
      body := fun _ s => fsOk (takeExtents es s) } c s)

/-! ### Grants (R376, R379) -/

/-- The right of a command on a run: an operator must hold the owner of every extent in its PMASK. -/
def runRight (es : List Nat) (se : FSession) (s : State) : Bool := starRight (fun s => es.map (extOwner s)) se s

/-- The grant table with a node's rights on a run replaced. -/
def grantsWith (n rights first count : Nat) (s : State) : List Grant :=
  (s.sec.grants.flatMap fun g => if g.node = n then g.part (fun e => decide (e < first ∨ first + count ≤ e)) else [g])
  ++ [{ node := n, rights := rights, first := first, count := count }]

/-- EXT_GRANT (R376). -/
def execExtGrant (c : FsCmd) (s : State) : Host.Outcome State Fault Refusal :=
  let n := prm c 0 2
  let es := runOf (prm c 4 4) (prm c 8 4)
  .next (runFelset
    { fop := 0x0204, plen := 12, audited := true, rights := runRight es
      checks := fun _ s => [(2, within (prm c 2 1) 1 3), resZero c 3 1, (4, runOwned s es), (8, within (prm c 8 4) 1 65536)]
      body := fun _ s =>
        let gs := grantsWith n (prm c 2 1) (prm c 4 4) (prm c 8 4) s
        if es.any fun e => decide (2 ≤ (extent s e).xstate) then fsFail s sREVOKED
        else if s.sec.grants.any (fun g => g.draining && g.node = n && es.any g.has) then fsFail s sRETRY
        else if 65536 < gs.length
            || es.any (fun e => decide (16 < ((gs.filter fun g => g.has e).map (·.node)).dedup.length)) then fsFail s sNORES
        else fsOk (s.onSec fun x => { x with grants := gs }) } c s)

/-- EXT_REVOKE (R379): the entries of the node, or of every grantee, on the run's extents in XSTATE 1 begin to drain. -/
def execExtRevoke (c : FsCmd) (s : State) : Host.Outcome State Fault Refusal :=
  let n := prm c 0 2
  let first := prm c 4 4
  let count := prm c 8 4
  let es := runOf first count
  .next (runFelset
    { fop := 0x0205, plen := 12, audited := true, rights := runRight es
      checks := fun _ s => [resZero c 2 2, (4, runOwned s es), (8, within count 1 65536)]
      body := fun _ s =>
        let closes (e : Nat) : Bool := decide (first ≤ e ∧ e < first + count) && (extent s e).xstate = 1
        let one (g : Grant) : List Grant :=
          if g.draining || !(g.node = n || n = 0xFFFF) then [g]
          else g.part (fun e => !closes e)
            ++ (g.part closes).map fun x => { x with draining := true, drain := s.nor.auditNext }
        fsOk (pump (s.onSec fun x => { x with grants := x.grants.flatMap one })) } c s)

/-- A grant's sweep still has entries to visit or responses to receive. -/
def sweepOpen (g : Grant) (s : State) : Bool :=
  s.home.dir.any fun p => inRun p.1 g.first g.count && (p.2.sweepDue || (p.2.revoking && p.2.acks.any fun a => a.1 = g.node))

/-- GRANT_DRAIN_DONE (R379): the sweep of a drained grant has ended, and its entry is freed. -/
def execGrantDrainDone (node ext : Nat) (s : State) : Host.Outcome State Fault Refusal :=
  .next (
    match s.sec.grants.find? fun g => g.node = node && g.draining && g.has ext with
    | none => s
    | some g =>
      if !g.swept || sweepOpen g s then s
      else bump (aSEC 3) (s.onSec fun x => { x with grants := x.grants.filter fun y => decide (y ≠ g) }))

/-- Grant entries without an extent (R379, Table 14.3). -/
def freeGrantsAt (e : Nat) (s : State) : State :=
  s.onSec fun x => { x with grants := x.grants.flatMap fun g => if g.has e then g.part (fun y => decide (y ≠ e)) else [g] }

/-! ### Taking and scrubbing an extent (R378, R381-R383) -/

/-- An extent that may leave Revoking (R378). -/
def drained (s : State) (e : Nat) : Bool :=
  let here (line : Nat) : Bool := extentOf (line * 64) = e
  !s.home.waitq.any (itemIn s e 1)
  && !(s.home.comb.any fun x => here x.1 && x.2.width ≠ 0)
  && !(s.store.pages.any fun p => p.1 / 4096 = e && p.2.mig)
  && !(s.home.dir.any fun x => here x.1 && x.2.st ≠ .i)
  && !(s.eng.rowBuf.any fun x => (linesOf x.1 x.2.2).any here)

/-- REVOKE_DRAIN_DONE (R378): the extent is quarantined. -/
def execRevokeDrainDone (ext : Nat) (s : State) : Host.Outcome State Fault Refusal :=
  .next (
    if (extent s ext).xstate = 2 && drained s ext then
      (setExtent ext (fun x => { x with xstate := 3, since := now s }) s).onSec fun x =>
        { x with quarantine := x.quarantine ++ [ext] }
    else s)

/-- SCRUB_START (R381): the extent that entered XSTATE 3 first, where one of 16 places is free. Novva lost starts none (R386), and in Furl quarantined extents wait (R401). -/
def execScrubStart (s : State) : Host.Outcome State Fault Refusal :=
  .next (
    match s.sec.quarantine with
    | [] => s
    | e :: r =>
      if 16 ≤ s.sec.scrubbing.length || s.sec.nvState ≠ .ready || !inService s then s
      else (setExtent e (fun x => { x with xstate := 4, scrubTries := 0, since := now s }) s).onSec fun x =>
        { x with quarantine := r, scrubbing := x.scrubbing ++ [e] })

/-- Pages of an extent whose entries are valid. -/
def extentPages (s : State) (e : Nat) : List Nat :=
  (s.store.pages.filter fun p => p.1 / 4096 = e && pageValid p.2).map (·.1)

/-- The pages of a verdict that a scrub overwrites and reads back: of the extent, in T1 or T2, not on a retired unit. -/
def mismatched (s : State) (e : Nat) (v : ScrubVerdict) : List Nat :=
  (extentPages s e).filter fun p =>
    v.badPages.contains p && ((page s p).tier = 1 || (page s p).tier = 2) && !pageLost s p

/-- SCRUB_DONE (R383): verified, scrubbed again at most three times, or failed; what the read-backs found is the verdict. -/
def execScrubDone (ext : Nat) (v : ScrubVerdict) (s : State) : Host.Outcome State Fault Refusal :=
  .next (
    let x := extent s ext
    let leave (s : State) : State :=
      s.onSec fun y => { y with scrubbing := y.scrubbing.filter fun e => decide (e ≠ ext) }
    if x.xstate ≠ 4 then s
    else match mismatched s ext v with
      | [] =>
        let s1 := (extentPages s ext).foldl (fun s p => dropPage p s) s
        let s2 := freeGrantsAt ext (leave (setExtent ext (fun _ => {}) s1))
        event { cls := 11, code := 0, part := some x.part, addr := globalOf s (ext * 2 ^ 28), force := true } (bump (aSEC 4) s2)
      | p :: _ =>
        if x.scrubTries < 3 then setExtent ext (fun x => { x with scrubTries := x.scrubTries + 1 }) s
        else
          let s1 := freeGrantsAt ext (leave (setExtent ext (fun x => { x with xstate := 3, failed := true }) s))
          let a := globalOf s (p * 65536)
          let s2 := if (page s p).tier = 1 then countEvent .t1Uncorrectable kLane (frameLane (page s p).frame) a false s1
            else countEvent .t2Uncorrectable kDdr v.channel a false s1
          event { cls := 11, code := 1, part := some x.part, addr := globalOf s (ext * 2 ^ 28), force := true } (bump (aSEC 5) s2))

/-! ### Queries -/

/-- EXT_QUERY: an extent without an owner shows a free PART (the table states none). -/
def execExtQuery (c : FsCmd) (s : State) : Host.Outcome State Fault Refusal :=
  let e := prm c 0 4
  .next (runFelset
    { fop := 0x0206, plen := 8, rights := starRight fun s => [extOwner s e]
      checks := fun _ s => [(0, decide (e < mapExtents s)), resZero c 4 4]
      body := fun _ s =>
        let (v, s1) := freeVal s
        let x := extent s e
        let p := if x.xstate = 0 || x.failed then v.toNat % 256 else x.part
        let gs := (grantsAt s e).take 16
        fsOk s1 (leBytes 1 p ++ leBytes 1 x.xstate ++ leBytes 2 gs.length ++ leBytes 4 0
          ++ gs.flatMap fun g => leBytes 2 g.node ++ leBytes 1 g.rights ++ leBytes 1 0) } c s)

/-- PART_QUERY. -/
def execPartQuery (c : FsCmd) (s : State) : Host.Outcome State Fault Refusal :=
  let n := prm c 0 1
  .next (runFelset
    { fop := 0x0207, plen := 8, rights := starRight fun _ => [some n]
      checks := fun _ _ => [(0, decide (n < 32)), resZero c 1 7]
      body := fun _ s => fsOk s (leBytes 1 (b2n (part s n).enabled) ++ leBytes 3 0 ++ leBytes 4 (part s n).keyEpoch
        ++ leBytes 4 (extentsOf s n) ++ leBytes 4 0) } c s)

end Sys2Proof.Machine
end

