-- ==== Sys2Proof/Machine/StreamCmds.lean ====
section
/-! DEFINITION. The stream commands of Felset: RUN_STREAM, ABORT_STREAM, QUERY_STREAM (R226-R229, R247, R252, R253). -/

namespace Sys2Proof.Machine

/-- The rules of a stream descriptor's fields (Table 8.1). -/
def streamDescOk (s : State) (d : List Byte) : Bool :=
  field d 0 8 % 32 = 0 && field d 0 8 / 2 ^ 50 = homeIndex s && within (field d 8 4) 1 16777216
  && decide (field d 12 2 ≤ 60000) && decide (field d 14 1 ≤ 2) && field d 15 1 = 0 && field d 60 4 = 0

/-- A partition's streams in some states. -/
def partHas (s : State) (n : Nat) (p : StState → Bool) : Bool := s.core.streams.any fun x => x.2.part = n && p x.2.st

/-- V_n where partition n becomes ready after having no stream ready or suspended (R247). -/
def readyV (n : Nat) (s : State) : State :=
  let s1 := match s.core.cur with | some id => accrue id s | none => s
  if partHas s1 n (fun x => x = .queued || x = .suspended) then s1
  else
    let vs := ((List.range 32).filter fun p => partHas s1 p (fun x => decide (x ≠ .ended))).map fun p => kget 0 s1.core.vtime p
    s1.onCore fun c => { c with vtime := kmod 0 c.vtime n fun v => max v (vs.min?.getD 0) }

/-- Admit a stream: its STREAM_ID and the state that queues it (R229). -/
def admitStream (n : Nat) (d : List Byte) (s : State) : Nat × State :=
  let serial := kget 0 s.core.serials n % (2 ^ 27 - 1) + 1
  let sid := n * 2 ^ 27 + serial
  let t : Stream :=
    { part := n, base := field d 0 8, count := field d 8 4, maxMs := field d 12 2, notifyMode := field d 14 1,
      user := field d 56 4, args := (List.range 5).map fun i => BitVec.ofNat 64 (field d (16 + 8 * i) 8) }
  (sid, (readyV n s).onCore fun c => { c with
    serials := kput 0 c.serials n serial, lastId := kput 0 c.lastId n sid,
    streams := kput {} c.streams sid t, queue := c.queue ++ [sid] })

/-- The descriptor of a stream, once its line can be read: its bytes, or the answer that ends the command. A line that cannot be read yet has what that takes started; one not readable within its deadline is TARGET_DEAD (DESIGN CHOICE, log entry 38). -/
def readDesc (n a : Nat) (s : State) : List Byte × FsRes :=
  let line := a % 2 ^ 50 / 64
  let t3 := decide ((page s (line / 1024)).tier = 3)
  let late := match s.sec.going with
    | some t => elapsed s t (if t3 then flashDeadline s else loadDeadline s)
    | none => false
  match engReady noWrite [line] [] s with
  | .wait o =>
    if late then ([], fsFail s sDEAD)
    else ([], { st := if t3 then beginT3 (line / 64) (o.getD s) else o.getD s, wait := some line })
  | .bad st s' => ([], fsFail s' st)
  | .ready =>
    let (bad, s1) := engAccess noWrite [line] s
    if bad.isEmpty then (readBytes s1 (64 * line) 64, fsOk s1)
    else ([], fsFail (poisonConsumed n a sPOISONED s1) sPOISONED)

/-- Checks 3 to 5 of R228 for a descriptor whose own line the partition may read, and admission. -/
def admitChecks (n : Nat) (d : List Byte) (s : State) : FsRes :=
  let words := runCheck s (.call 0 0) n (field d 0 8 % 2 ^ 50) (32 * field d 8 4) false
  if cfg s (0x070400 + n) 63 56 = 0 then fsFail s sDENIED
  else if words ≠ sOK then fsFail s words
  else if 16 ≤ (s.core.queue.filter fun i => (stream s i).part = n).length || 256 ≤ s.core.queue.length then
    fsFail s sRETRY
  else
    let (sid, s1) := admitStream n d s
    fsOk s1 (leBytes 4 sid ++ leBytes 4 0)

/-- The checks of R228 in their order, after those of the command's own fields, and admission. The descriptor is read once, where the partition may read it; its fields are looked at before SHARE is. -/
def runStreamBody (c : FsCmd) (s : State) : FsRes :=
  let n := prm c 0 1
  let a := prm c 8 8
  let mine := if a / 2 ^ 50 = homeIndex s then ownCheck s n (a % 2 ^ 50) else sDENIED
  if s.core.lostSeq || s.core.lostDma then fsFail s sNOSERV
  else if mine ≠ sOK then fsFail s (if cfg s (0x070400 + n) 63 56 = 0 then sDENIED else mine)
  else
    let (d, r) := readDesc n a s
    if r.wait.isSome || decide (r.status ≠ sOK) then r
    else if !streamDescOk r.st d then fsBad r.st 8
    else admitChecks n d r.st

/-- RUN_STREAM (R226, R228). -/
def execRunStream (c : FsCmd) (s : State) : Host.Outcome State Fault Refusal :=
  .next (runFelset
    { fop := 0x0400, plen := 16, rights := starRight fun _ => [some (prm c 0 1)]
      checks := fun _ _ => [(0, decide (prm c 0 1 < 32)), resZero c 1 7, (8, decide (prm c 8 8 % 64 = 0))]
      body := fun _ s => runStreamBody c s } c s)

/-- The device keeps a record of a stream. -/
def streamKept (s : State) (id : Nat) : Bool := s.core.streams.any fun x => x.1 = id

/-- ABORT_STREAM (R252). -/
def execAbortStream (c : FsCmd) (s : State) : Host.Outcome State Fault Refusal :=
  let id := prm c 0 4
  .next (runFelset
    { fop := 0x0401, plen := 8, rights := starRight fun _ => [some (id / 2 ^ 27)]
      checks := fun _ s => [(0, streamKept s id), resZero c 4 4]
      body := fun _ s => fsOk (match (stream s id).st with
        | .queued => endStream id (setStream id (fun t => { t with status := sABORTED, cause := 11 }) s)
        | .ended => s
        | _ => settle id (stopStream id sABORTED 11 s)) } c s)

/-- STATE of Table 8.2. -/
def StState.code : StState → Nat
  | .queued => 0 | .running => 1 | .suspended => 2 | .ended => 3

/-- QUERY_STREAM (R227, R253). -/
def execQueryStream (c : FsCmd) (s : State) : Host.Outcome State Fault Refusal :=
  let id := prm c 0 4
  .next (runFelset
    { fop := 0x0402, plen := 8, rights := starRight fun _ => [some (id / 2 ^ 27)]
      checks := fun _ s => [(0, streamKept s id), resZero c 4 4]
      body := fun _ s =>
        let t := stream s id
        let run := if s.core.cur = some id then t.runNs + (now s - t.since) else t.runNs
        fsOk s (leBytes 1 t.st.code ++ leBytes 1 t.status ++ leBytes 1 t.cause ++ leBytes 1 t.flags ++ leBytes 4 t.failPc
          ++ leBytes 8 (min t.done statMax) ++ leBytes 8 run) } c s)

end Sys2Proof.Machine
end

