-- ==== Sys2Proof/Machine/Queries.lean ====
section
/-! DEFINITION. The Felset commands of pages and quotas, of the Querns, the Hoist and the Bolter (R63, R87, R285, R311, R318, R342, R364). -/

namespace Sys2Proof.Machine

/-- An address of this YM9's populated range, aligned. -/
def hereAligned (s : State) (a n : Nat) : Bool :=
  a / 2 ^ 50 = homeIndex s && decide (extentOf (a % 2 ^ 50) < mapExtents s) && a % n = 0

/-! ### Pages and quotas -/

/-- Address of a TIER_QUOTA word. -/
def tierWord (n t : Nat) : Nat := 0x021000 + 4 * n + t

/-- QUOTA_SET (R87). -/
def execQuotaSet (c : FsCmd) (s : State) : Host.Outcome State Fault Refusal :=
  let a := tierWord (prm c 0 1) (prm c 1 1)
  .next (runFelset
    { fop := 0x0300, plen := 16, audited := true, rights := isInstaller
      checks := fun _ _ => [(0, decide (prm c 0 1 < 32)), (1, within (prm c 1 1) 1 3), resZero c 2 6,
        (8, decide (prm c 8 8 < 2 ^ 30))]
      body := fun _ s =>
        let s1 := cwSetField a 63 34 (prm c 8 8) s
        fsOk s1 (leBytes 8 (cwWord s1 a)) } c s)

/-- PAGE_PIN: of the pages written so far, those whose PIN differs are changed. -/
def execPagePin (c : FsCmd) (s : State) : Host.Outcome State Fault Refusal :=
  let a := prm c 0 8
  let p := a % 2 ^ 50 / 65536
  let n := prm c 8 2
  let pin := decide (prm c 10 1 = 1)
  .next (runFelset
    { fop := 0x0301, plen := 16, audited := true, rights := starRight fun s => [addrOwner s a]
      checks := fun _ s => [(0, hereAligned s a 65536),
        (8, within n 1 4096 && decide ((p + n - 1) / 4096 = p / 4096)), (10, decide (prm c 10 1 ≤ 1)), resZero c 11 5]
      body := fun _ s =>
        let ps := ((List.range n).map fun i => p + i).filter fun p =>
          pageValid (page s p) && !pageUnusable s p && decide ((page s p).pin ≠ pin)
        fsOk (ps.foldl (fun s p => editPage p (fun e => { e with pin := pin }) s) s) (leBytes 4 ps.length ++ leBytes 4 0) } c s)

/-- PAGE_QUERY: the entry as Table 3.4 lays it out, read through its bay's cache with HEAT brought up to date (R64, R71); one that cannot be read shows a free value. -/
def execPageQuery (c : FsCmd) (s : State) : Host.Outcome State Fault Refusal :=
  let a := prm c 0 8
  let p := a % 2 ^ 50 / 65536
  .next (runFelset
    { fop := 0x0302, plen := 8, rights := starRight fun s => [addrOwner s a]
      checks := fun _ s => [(0, hereAligned s a 65536)]
      body := fun _ s =>
        let (v, s1) := freeVal s
        let fresh (e : PageEnt) : PageEnt :=
          if pageValid e then { e with heat := heatNow s.store.epoch e, epoch := s.store.epoch } else e
        if pageUnusable s p then fsOk s1 (leBytes 8 v.toNat)
        else
          let s2 := if pageValid (page s p) then editPage p fresh s else mapTouch (p / 8) false s
          fsOk s2 (leBytes 8 (entryWord (page s2 p))) } c s)

/-- TIER_USAGE. -/
def execTierUsage (c : FsCmd) (s : State) : Host.Outcome State Fault Refusal :=
  let n := prm c 0 1
  .next (runFelset
    { fop := 0x0303, plen := 8, rights := starRight fun _ => [some n]
      checks := fun _ _ => [(0, decide (n < 32)), resZero c 1 7]
      body := fun _ s => fsOk s ([1, 2, 3].flatMap fun t => leBytes 8 (cwWord s (tierWord n t))) } c s)

/-! ### Querns -/

/-- `n` free bytes (log entry 12). -/
def freeBytes (n : Nat) (s : State) : List Byte × State :=
  (((List.range ((n + 7) / 8)).flatMap fun i => leBytes 8 (Config.freeWord (s.free + i)).toNat).take n,
    { s with free := s.free + (n + 7) / 8 })

/-- QN_GROUP_QUERY: a group that is not open is not held on die, and its fields are free (log entry 12). -/
def execQnGroupQuery (c : FsCmd) (s : State) : Host.Outcome State Fault Refusal :=
  let a := prm c 0 8
  .next (runFelset
    { fop := 0x0500, plen := 8, rights := starRight fun s => [addrOwner s a]
      checks := fun _ s => [(0, hereAligned s a 64)]
      body := fun _ s =>
        let g := group s (a % 2 ^ 50)
        let (f, s1) := freeBytes 38 s
        if g.opened then fsOk s (leBytes 1 1 ++ leBytes 1 g.flags ++ leBytes 2 g.n ++ leBytes 2 g.done ++ leBytes 2 0
          ++ leBytes 8 g.initD ++ leBytes 8 g.recvD ++ leBytes 8 g.claimD ++ leBytes 8 g.errD)
        else fsOk s1 (f.take 6 ++ leBytes 2 0 ++ f.drop 6) } c s)

/-- QN_ABANDON_ALL (R285). -/
def execQnAbandonAll (c : FsCmd) (s : State) : Host.Outcome State Fault Refusal :=
  let n := prm c 0 1
  let mine (g : QGroup) : Bool := g.opened && !g.abandoned && g.part = n
  .next (runFelset
    { fop := 0x0501, plen := 8, audited := true, rights := starRight fun _ => [some n]
      checks := fun _ _ => [(0, decide (n < 32)), resZero c 1 7]
      body := fun _ s => fsOk (pump (abandonGroups (fun _ g => mine g) 0 s))
        (leBytes 4 (s.eng.groups.filter fun g => mine g.2).length ++ leBytes 4 0) } c s)

/-! ### Hoist -/

/-- HS_STEP_QUERY: of a table with no step slot the fields are free (log entry 12). -/
def execHsStepQuery (c : FsCmd) (s : State) : Host.Outcome State Fault Refusal :=
  let a := prm c 0 8
  .next (runFelset
    { fop := 0x0600, plen := 8, rights := starRight fun s => [addrOwner s a]
      checks := fun _ s => [(0, hereAligned s a 64)]
      body := fun _ s =>
        let h := hstep s (a % 2 ^ 50)
        let (f, s1) := freeBytes 17 s
        let pend := ((h.rows.filter fun r => !r.2.sums.isEmpty).map fun r => entriesOf h.tables r.1).sum
        let spilt := (h.rows.map fun r => r.2.spilt.length * entriesOf h.tables r.1).sum
        if h.taken then fsOk s (leBytes 4 h.step ++ leBytes 2 h.n ++ leBytes 2 h.done ++ leBytes 4 pend ++ leBytes 4 spilt
          ++ leBytes 1 (b2n h.overflow) ++ leBytes 7 0)
        else fsOk s1 (f ++ leBytes 7 0) } c s)

/-- HS_STEP_RELEASE: the effect of HS_STEP END (R318), with its answers for a table with no slot and for a close under way. -/
def execHsStepRelease (c : FsCmd) (s : State) : Host.Outcome State Fault Refusal :=
  let a := prm c 0 8
  let tab := a % 2 ^ 50
  .next (runFelset
    { fop := 0x0601, plen := 8, audited := true, rights := starRight fun s => [addrOwner s a]
      checks := fun _ s => [(0, hereAligned s a 64)]
      body := fun _ s =>
        if !(hstep s tab).taken then fsFail s sABORTED
        else if (hstep s tab).closing.isSome then fsFail s sRETRY
        else fsOk (pump (releaseStep tab s)) } c s)

/-- HS_HOT_REFRESH (R311). -/
def execHsHotRefresh (c : FsCmd) (s : State) : Host.Outcome State Fault Refusal :=
  .next (runFelset
    { fop := 0x0602, plen := 8, audited := true, rights := isInstaller
      checks := fun _ _ => [(0, decide (prm c 0 1 < 16)), resZero c 1 7]
      body := fun _ s => fsOk (pump (refreshHot (prm c 0 1) s)) } c s)

/-! ### Bolter -/

/-- BL_INDEX_QUERY: the mutable fields of the descriptor's second line as the range holds them, and what is in progress. -/
def execBlIndexQuery (c : FsCmd) (s : State) : Host.Outcome State Fault Refusal :=
  let a := prm c 0 8
  let off := a % 2 ^ 50
  .next (runFelset
    { fop := 0x0700, plen := 8, rights := starRight fun s => [addrOwner s a]
      checks := fun _ s => [(0, hereAligned s a 64)]
      body := fun _ s => fsOk s (readBytes s (off + 64) 20 ++ leBytes 4 (indexItems s off (· = 0x68)).length
        ++ leBytes 1 (b2n !(indexItems s off (· = 0x6B)).isEmpty) ++ leBytes 7 0) } c s)

/-- BL_MERGE_STOP (R342): the merge in progress ends after its current entry; without one nothing stops and the count is 0. -/
def execBlMergeStop (c : FsCmd) (s : State) : Host.Outcome State Fault Refusal :=
  let a := prm c 0 8
  .next (runFelset
    { fop := 0x0701, plen := 8, audited := true, rights := starRight fun s => [addrOwner s a]
      checks := fun _ s => [(0, hereAligned s a 64)]
      body := fun _ s => match indexItems s (a % 2 ^ 50) (· = 0x6B) with
        | it :: _ =>
          let s1 := updateItem it.id (fun x => { x with search := x.search.map fun t => { t with stop := true } }) s
          fsOk (pump s1) (leBytes 4 it.value ++ leBytes 4 0)
        | [] => fsOk s (leBytes 8 0) } c s)

end Sys2Proof.Machine
end

