-- ==== Sys2Proof/Machine/SetCmds.lean ====
section
/-! DEFINITION. The Felset commands of sets and of liveness, and the batches of a rebuild (R405, R408-R417). -/

namespace Sys2Proof.Machine

/-! ### SET_DEFINE (R409) -/

/-- MEMBERS of a SET_DEFINE: 16 node IDs. -/
def defMembers (c : FsCmd) : List Nat := (List.range 16).map fun i => prm c (16 + 2 * i) 2

/-- MODE and K satisfy Table 15.2. -/
def modeOk (mode k : Nat) : Bool := decide (mode ≤ 3) && within k 2 (if mode = 3 then 14 else 16)

/-- Members are distinct nodes at positions 0 upward, 0xFFFF beyond, with this YM9 among them. -/
def membersOk (s : State) (n : Nat) (ms : List Nat) : Bool :=
  let l := ms.take n
  l.all (fun x => decide (x ≠ 0xFFFF)) && decide l.Nodup && (ms.drop n).all (fun x => x = 0xFFFF) && l.contains (nodeId s)

/-- Every extent of a slot's window is owned by the slot's partition in XSTATE 1. -/
def windowOwned (s : State) (i : Nat) : Bool :=
  (runOf (slotFirst s i) (slotCount s i)).all fun e => (extent s e).xstate = 1 && (extent s e).part = slotPart s i

/-- A node holds a read and write grant on a slot's whole window. -/
def windowGranted (s : State) (i n : Nat) : Bool :=
  (runOf (slotFirst s i) (slotCount s i)).all fun e => match grantOf s n e with
    | some g => decide (g.rights % 4 = 3) && !g.draining
    | none => false

/-- The record that a SET_DEFINE commits in a slot: VALID_TO by R417; what the master knows of a member that the earlier record did not list is that it holds no valid unit. -/
def definedSet (c : FsCmd) (i : Nat) (s : State) : SetSt :=
  let old := setSt s i
  let k := prm c 3 1
  let epoch := prm c 8 8
  let ms := (defMembers c).take (memberCount (prm c 2 1) k)
  let fresh := ((List.range ms.length).filter fun p =>
    decide (old.epoch ≠ 0) && !old.members.contains (ms.getD p 0xFFFF)).map fun p => (p, 1)
  { sstate := 1, mode := prm c 2 1, k := k, master := prm c 4 2, epoch := epoch, members := ms,
    pos := ms.findIdx (fun n => n = nodeId s),
    validTo := if old.epoch ≠ 0 then old.validTo else if 2 ≤ epoch then 0 else setUnits s i,
    valids := fresh.foldl (fun m (x : Nat × Nat) => kput 0 m x.1 x.2) (if old.members = ms then old.valids else []) }

/-- SET_DEFINE (R409). The lines of the control page after its first read as zero from then on (R416), every write to them being denied. -/
def execSetDefine (c : FsCmd) (s : State) : Host.Outcome State Fault Refusal :=
  let ms := (defMembers c).take (memberCount (prm c 2 1) (prm c 3 1))
  let at_ (s : State) : Nat := (slotOfSet s (prm c 0 2)).getD 16
  .next (runFelset
    { fop := 0x0800, plen := 48, audited := true, rights := isInstaller
      checks := fun _ s => [(0, (slotOfSet s (prm c 0 2)).isSome && windowOwned s (at_ s)), (2, decide (prm c 2 1 ≤ 3)),
        (3, modeOk (prm c 2 1) (prm c 3 1)), (4, ms.contains (prm c 4 2)), resZero c 6 2,
        (8, decide ((setSt s (at_ s)).epoch < prm c 8 8)),
        (16, membersOk s (memberCount (prm c 2 1) (prm c 3 1)) (defMembers c)
          && ms.all fun n => n = nodeId s || windowGranted s (at_ s) n)]
      body := fun _ s =>
        let i := at_ s
        fsOk (pump (refreshSets (setSet i (fun _ => definedSet c i s)
          (eraseRange (slotFirst s i * 2 ^ 28 + 64) (65536 - 64) s)))) } c s)

/-! ### SET_QUERY and LIVENESS_QUERY -/

/-- Table 15.7. -/
def setRecord (s : State) (i : Nat) : List Byte :=
  let r := setSt s i
  leBytes 2 (slotSetId s i) ++ leBytes 1 r.mode ++ leBytes 1 r.k ++ leBytes 2 r.master ++ leBytes 1 r.pos ++ leBytes 1 r.sstate
  ++ leBytes 8 r.epoch ++ ((List.range 16).flatMap fun p => leBytes 2 (memberAt r p)) ++ leBytes 1 (slotPart s i)
  ++ leBytes 3 0 ++ leBytes 4 (slotFirst s i) ++ leBytes 4 (slotCount s i) ++ leBytes 8 r.validTo ++ leBytes 1 r.rbPos
  ++ leBytes 11 0

/-- SET_QUERY. -/
def execSetQuery (c : FsCmd) (s : State) : Host.Outcome State Fault Refusal :=
  .next (runFelset
    { fop := 0x0801, plen := 8, rights := anyRole
      checks := fun _ s => [(0, (slotOfSet s (prm c 0 2)).isSome), resZero c 2 6]
      body := fun _ s => fsOk s (setRecord s ((slotOfSet s (prm c 0 2)).getD 0)) } c s)

/-- LIVENESS_QUERY (R405): of a node with no context, unless it is fenced, the detector keeps no state, and what it keeps of a fenced one is in the fence table alone; the rest of the reply is free (log entry 12). -/
def execLivenessQuery (c : FsCmd) (s : State) : Host.Outcome State Fault Refusal :=
  let n := prm c 0 2
  .next (runFelset
    { fop := 0x0803, plen := 8, rights := anyRole
      checks := fun _ _ => [resZero c 2 6]
      body := fun _ s =>
        let x := ctx s n
        let (v, s1) := freeVal s
        let st := if fenced s n then 2 else if !x.live then v.toNat % 2 else if x.lstate = .silent then 1 else 0
        if x.live then fsOk s (leBytes 1 st ++ leBytes 7 0 ++ leBytes 8 x.lastHeard)
        else fsOk s1 (leBytes 1 st ++ leBytes 7 0 ++ leBytes 8 v.toNat) } c s)

/-! ### Rebuild (R417) -/

/-- Positions of a record that are fenced. -/
def fencedPositions (s : State) (r : SetSt) : List Nat :=
  (List.range r.members.length).filter fun p => fenced s (memberAt r p)

/-- The position's VALID_TO as the master knows it, short of the unit count; none where it holds every unit. `valids` keeps 1 + VALID_TO. -/
def shortAt (s : State) (i p : Nat) : Option Nat :=
  let r := setSt s i
  let v := if memberAt r p = nodeId s then r.validTo else if kget 0 r.valids p = 0 then setUnits s i else kget 0 r.valids p - 1
  if v < setUnits s i then some v else none

/-- The positions that a rebuild of `p` writes: it, and every other position short of its count. -/
def rebuildPositions (s : State) (i p : Nat) : List Nat :=
  let r := setSt s i
  (List.range r.members.length).filter fun x => (x = p || (shortAt s i x).isSome) && !fenced s (memberAt r x)

/-- A batch's requests are over: nothing of it is kept. -/
def batchClear (phase : Nat) (r : SetSt) : SetSt :=
  { r with rbPhase := phase, rbOut := [], rbAsk := [], rbBad := false }

/-- SET_REBUILD (R417): from the least VALID_TO of the positions it rebuilds; a position named without being short is rebuilt from unit 0. -/
def execSetRebuild (c : FsCmd) (s : State) : Host.Outcome State Fault Refusal :=
  let p := prm c 2 1
  let at_ (s : State) : Nat := (slotOfSet s (prm c 0 2)).getD 16
  let master (s : State) : Bool := (setSt s (at_ s)).sstate ≠ 0 && (setSt s (at_ s)).master = nodeId s
  let listed (s : State) : Bool :=
    let r := setSt s (at_ s)
    decide (p < r.members.length) && !fenced s (memberAt r p)
      && decide ((rebuildPositions s (at_ s) p ++ fencedPositions s r).length ≤ mayLose r)
  .next (runFelset
    { fop := 0x0802, plen := 8, audited := true, rights := isInstaller
      checks := fun _ s => [(0, (slotOfSet s (prm c 0 2)).isSome && master s), (2, listed s), resZero c 3 5]
      body := fun _ s =>
        let i := at_ s
        let ps := rebuildPositions s i p
        let from_ := ((ps.map fun x => (shortAt s i x).getD 0).min?).getD 0
        fsOk (refreshSets (setSet i (fun r =>
          { batchClear 0 r with rbAll := ps, rbPos := (ps.min?).getD 31, rbAt := from_, rbGot := [] }) s)) } c s)

/-- Coefficient of position `j` in the shard of position `x` (Table 10.9): the lost positions, K, whether the set is erasure-coded. A lost data shard is formed first, so that P and Q are formed of all data shards. -/
def rebuildCoef (k : Nat) (lost : List Nat) (x j : Nat) : Nat :=
  let a (n : Nat) : Nat := gfPow (n % 255)
  if k ≤ x then (if k ≤ j then 0 else if x = k then 1 else a j)
  else match lost.find? fun y => decide (y < k ∧ y ≠ x) with
    | some y =>
      let d := gfInv (a x ^^^ a y)
      if j = k then gfMul (a y) d else if j = k + 1 then d else gfMul (a y ^^^ a j) d
    | none =>
      if lost.contains k then (if j = k then 0 else if j = k + 1 then a (255 - x) else a (j + 255 - x))
      else if j = k + 1 then 0 else 1

/-- The sum of scaled units. -/
def unitSum (xs : List (Nat × List Byte)) : List Byte :=
  xs.foldl (fun r x => xorBytes r (gfScale x.1 x.2)) (List.replicate 4096 0)

/-- Unit `u` of position `x`, from what `unit` gives of the survivors. -/
def rebuiltUnit (r : SetSt) (lost : List Nat) (unit : Nat → List Byte) (x : Nat) : List Byte :=
  if r.mode = 2 then unit r.pos
  else
    let live := (List.range r.members.length).filter fun j => !lost.contains j
    let data (y : Nat) : List Byte := unitSum (live.map fun j => (rebuildCoef r.k lost y j, unit j))
    if x < r.k then data x
    else unitSum ((List.range r.k).map fun j => (rebuildCoef r.k lost x j, if lost.contains j then data j else unit j))

/-- A request of the rebuild to a member at a window offset (R147, R417): awaited with those of its phase, and its TAG. -/
def askMember (i n op param w : Nat) (payload : List Byte) (s : State) : Nat × State :=
  match homeOf s n with
  | none => (0, setSet i (fun r => { r with rbBad := true }) s)
  | some h =>
    let (tag, s1) := ownRequestFor (some i) n op param (h * 2 ^ 50 + slotFirst s i * 2 ^ 28 + w) true (slotPart s i) payload s
    (tag, setSet i (fun r => { r with rbOut := r.rbOut ++ [(n, tag)] }) s1)

/-- A control line (Table 15.3). -/
def controlLine (lo hi valid epoch : Nat) : List Byte :=
  leBytes 8 lo ++ leBytes 8 hi ++ leBytes 8 valid ++ leBytes 8 epoch ++ List.replicate 32 0

/-- STORE a hold or its release to the control line of every other live member. -/
def holdAll (i lo hi : Nat) (valid : Nat → Nat) (s : State) : State :=
  let r := setSt s i
  (List.range r.members.length).foldl (fun s p =>
    let n := memberAt r p
    if n = nodeId s || fenced s n then s
    else (askMember i n 0x10 63 0 (controlLine lo hi (valid p) r.epoch) s).2) s

/-- The same STORE to the master's own control line: whether it is performed. -/
def holdOwn (i lo hi v : Nat) (s : State) : Bool × State :=
  let line := controlLine lo hi v (setSt s i).epoch
  let off := slotFirst s i * 2 ^ 28
  let w : SetWrite := { op := 0x10, strict := true, node := some (nodeId s), size := 64, data := line }
  match engReady w [] [off / 64] s with
  | .wait o => (false, o.getD s)
  | .bad _ s' => (false, s')
  | .ready =>
    let (a, _, s1) := engPut (slotPart s i) w [(off, line)] s
    if a ≠ 0 then (false, s) else (true, applyControl off line s1)

/-- Write one rebuilt unit of a remote position, 16 lines to a STORE_LINES. -/
def putUnit (i n u : Nat) (bs : List Byte) (s : State) : State :=
  (List.range 4).foldl (fun s q =>
    (askMember i n 0x12 15 (65536 + 4096 * u + 1024 * q) (slice bs (1024 * q) 1024) s).2) s

/-- Read one unit of a survivor, 16 lines to a LOAD_LINES: group `4 k + q` of the batch. -/
def getUnit (i p k u : Nat) (s : State) : State :=
  let n := memberAt (setSt s i) p
  (List.range 4).foldl (fun s q =>
    let (tag, s1) := askMember i n 0x01 15 (65536 + 4096 * u + 1024 * q) [] s
    setSet i (fun r => { r with rbAsk := r.rbAsk ++ [(n, tag, p, 4 * k + q)] }) s1) s

/-- Every other live member can be reached. -/
def membersReached (s : State) (r : SetSt) : Bool :=
  (liveOthers s r).all fun n => sendable s n && (homeOf s n).isSome

/-- Writes admitted to units of a window and not yet performed (R416). -/
def unitsBusy (s : State) (i lo hi : Nat) : Bool :=
  s.home.waitq.any fun x => isWriteOp x.op && windowOf s x.off = some i
    && (match unitOf s i x.off with
        | some u => decide (lo ≤ u ∧ u < hi)
        | none => false)

/-- Finish a batch: the rebuilt members' VALID_TO, the count, and the end of the rebuild after the last batch. -/
def batchDone (i b e : Nat) (s : State) : State :=
  let t := setSt s i
  let s1 := bumpBy (aSET 6) ((e - b) * t.rbAll.length) s
  let fin := decide (setUnits s i ≤ e)
  refreshSets (setSet i (fun t => { batchClear 0 t with
    valids := t.rbAll.foldl (fun m p => kput 0 m p (1 + e)) t.valids, rbAt := e, rbGot := [],
    validTo := if t.rbAll.contains t.pos then e else t.validTo,
    rbAll := if fin then [] else t.rbAll, rbPos := if fin then 31 else t.rbPos }) s1)

/-- The time of the batch before is over: the data it rebuilt, all rebuilt positions together, at REBUILD_RATE (R417). -/
def batchDue (s : State) (r : SetSt) : Bool :=
  match r.rbSince with
  | none => true
  | some u => decide (262144 * r.rbAll.length ≤ rebuildRate s * (now s - u))

/-- Read the YM9's own lines of a batch, the first with the symbols in error that the command gives: those that failed. -/
def readOwn (syms : SymErr) (ls : List Nat) (s : State) : List Nat × State :=
  match ls with
  | [] => ([], s)
  | l :: ls =>
    let (b, s1) := accessLine l syms s
    let (r, s2) := engAccess noWrite ls s1
    (if b || pageUnusable s (l / 1024) then l :: r else r, s2)

/-- The rebuilt units of a batch are formed and written, once this YM9's own lines are ready: those it reads, or those it rebuilds. -/
def batchWrite (i b e : Nat) (lost : List Nat) (syms : SymErr) (s : State) : State :=
  let t := setSt s i
  let w0 := slotFirst s i * 2 ^ 28 + 65536
  let own := (List.range (64 * (e - b))).map fun k => (w0 + 4096 * b) / 64 + k
  let mine := t.rbAll.contains t.pos
  let w : SetWrite := { op := 0x12, strict := true, node := some (nodeId s) }
  match engReady w (if mine then [] else own) (if mine then own else []) s with
  | .wait o => o.getD s
  | .bad _ s' => setSet i (batchClear 0) s'
  | .ready =>
    let (bad, s1) := if mine then (([] : List Nat), s) else readOwn syms own s
    let unit (s : State) (u p : Nat) : List Byte :=
      if p = t.pos then readBytes s (w0 + 4096 * u) 4096
      else (List.range 4).flatMap fun q => kget [] t.rbGot (p * 1024 + 4 * (u - b) + q)
    if !bad.isEmpty then setSet i (batchClear 0) s1
    else
      ((List.range (e - b)).map fun k => b + k).foldl (fun s u => t.rbAll.foldl (fun s x =>
        let bs := rebuiltUnit t lost (unit s u) x
        if x = t.pos then (engPut (slotPart s i) w [(w0 + 4096 * u, bs)] s).2.2
        else putUnit i (memberAt t x) u bs s) s) (setSet i (batchClear 3) s1)

/-- REBUILD_BATCH (R417): the batch of 64 units, or those left, goes on to its next phase once every request of the last is answered; a batch begins no sooner than the time of the one before it. Where an answer is other than OK the batch is not rebuilt and is due again (DESIGN CHOICE, log entry 52). -/
def execRebuildBatch (slot : Nat) (syms : SymErr) (s : State) : Host.Outcome State Fault Refusal :=
  .next (
    let t := setSt s slot
    let b := t.rbAt
    let e := min (b + 64) (setUnits s slot)
    let lost := ((t.rbAll ++ fencedPositions s t).dedup)
    let valid (v p : Nat) : Nat := if t.rbAll.contains p then v else setUnits s slot
    if t.rbAll.isEmpty || t.master ≠ nodeId s || !inService s || !t.rbOut.isEmpty then s
    else if t.rbBad then setSet slot (fun t => { batchClear 0 t with rbGot := [] }) s
    else match t.rbPhase with
    | 0 =>
      if !membersReached s t || unitsBusy s slot b e || !batchDue s t then s
      else
        let (ok, s1) := holdOwn slot b e (valid b t.pos) s
        pump (if ok then holdAll slot b e (valid b) (setSet slot (fun t => { batchClear 1 t with rbSince := some (now s) }) s1) else s1)
    | 1 =>
      let far := (List.range t.members.length).filter fun p => !lost.contains p && decide (p ≠ t.pos)
      let s1 := setSet slot (batchClear 2) s
      if t.mode = 2 then s1
      else (List.range (e - b)).foldl (fun s k => far.foldl (fun s p => getUnit slot p k (b + k) s) s) s1
    | 2 => pump (batchWrite slot b e lost syms s)
    | 3 =>
      let (ok, s1) := holdOwn slot 0 0 (valid e t.pos) s
      pump (if ok then holdAll slot 0 0 (valid e) (setSet slot (batchClear 4) s1) else s1)
    | _ => pump (batchDone slot b e s))

end Sys2Proof.Machine
end

