-- ==== Sys2Proof/Machine/Health.lean ====
section
/-! DEFINITION. The Felset commands of health: HEALTH_QUERY, HEALTH_LOG_READ, RETIRE, FI_INJECT, FI_STOP (R434, R439, R440, R450). -/

namespace Sys2Proof.Machine

/-! ### Queries -/

/-- UNIT_KIND and UNIT name a unit (R364). -/
def unitNamed (kind unit : Nat) : Bool := decide (kind ≤ 16) && decide (unit < unitCount kind)

/-- A unit that is Off: by its own state, or by the island it runs on. -/
def unitOff (s : State) (kind unit : Nat) : Bool :=
  let isl (i : Nat) : Bool := (island s i).st = .off
  if kind = kBay || kind = kCols then decide (s.pwr.startStep < 6)
  else if kind = kLane then isl (16 + unit / 8)
  else if kind = kQuern then kget .off s.eng.querns unit = .off
  else if kind = kHome then sliceSt s unit = .off
  else if kind = kHoist then kget .off s.eng.hoists unit = .off
  else if kind = kBolter then kget .off s.eng.bolters unit = .off
  else if kind = kDdr then isl (48 + unit)
  else if kind = kNand then isl (56 + unit / 4)
  else if kind = kMillpond then (millpond s unit).st = .off
  else if kind = kPort then isl (2 * unit) && isl (2 * unit + 1)
  else if kind = kSerdes then lane s unit = .off
  else if kind = kIsland then isl unit
  else if kind = kHalf then isl (60 + unit)
  else false

/-- HSTATE of Table 16.6; a unit whose bay is mapped out is mapped out with it (R34). -/
def hstateCode (s : State) (kind unit : Nat) : Nat :=
  let h := (unitH s (unitKey kind unit)).health
  if h ≠ .retired ∧ (goesWithBay kind && bayMapped s unit) = true then Health.mappedOut.code
  else if (h = .clean || h = .suspect || h = .stepped) && unitOff s kind unit then 6 else h.code

/-- Bytes 0-15 of a health record (Table 16.6). -/
def healthHead (s : State) (kind unit : Nat) : List Byte :=
  let u := unitH s (unitKey kind unit)
  let h := hist s (unitKey kind unit)
  let sat (m n : Nat) : Nat := min m n
  leBytes 1 kind ++ leBytes 1 (hstateCode s kind unit) ++ leBytes 2 unit
  ++ leBytes 2 (sat 65535 (u.counts.map (·.2)).sum) ++ leBytes 2 (sat 65535 u.total)
  ++ leBytes 1 (match quarterOf kind unit with | some q => (rail s q).vstep | none => 0)
  ++ leBytes 1 (match islandOf kind unit with | some i => (island s i).step | none => 0)
  ++ leBytes 1 (sat 255 (h.spares.map (·.2)).sum) ++ leBytes 1 (sat 255 h.erased.length)
  ++ leBytes 2 (sat 65535 (h.boots.filter (·.1)).length) ++ leBytes 2 0

/-- HEALTH_QUERY (R439): of a unit with no event and no entry yet, LAST_TS and LAST_HIDX are free (log entry 12). -/
def execHealthQuery (c : FsCmd) (s : State) : Host.Outcome State Fault Refusal :=
  let k := prm c 0 1
  let n := prm c 2 2
  .next (runFelset
    { fop := 0x0900, plen := 8, kind := .read, rights := anyRole
      checks := fun _ _ => [(0, decide (k ≤ 16)), resZero c 1 1, (2, unitNamed k n), resZero c 4 4]
      body := fun _ s =>
        let u := unitH s (unitKey k n)
        let (f, s1) := freeBytes 16 s
        if u.lastTs = 0 ∧ u.lastHidx = 0 then fsOk s1 (healthHead s k n ++ f)
        else fsOk s (healthHead s k n ++ leBytes 8 u.lastTs ++ leBytes 8 u.lastHidx) } c s)

/-- A health-log entry (Table 16.4). -/
def hlogBytes (e : HlogEnt) : List Byte :=
  leBytes 8 e.idx ++ leBytes 8 e.ts ++ leBytes 4 e.boot ++ leBytes 1 e.cls ++ leBytes 1 e.code ++ leBytes 1 e.kind
  ++ leBytes 1 e.flags ++ leBytes 2 e.unit ++ leBytes 1 e.part ++ leBytes 1 e.hstate ++ leBytes 2 e.count
  ++ leBytes 1 e.status ++ leBytes 1 0 ++ leBytes 8 e.detail ++ leBytes 8 e.addr ++ leBytes 16 0

/-- HEALTH_LOG_READ (R434). -/
def execHealthLogRead (c : FsCmd) (s : State) : Host.Outcome State Fault Refusal :=
  let a := prm c 0 8
  let n := prm c 8 2
  .next (runFelset
    { fop := 0x0901, plen := 16, kind := .read, rights := anyRole
      checks := fun _ s => [(0, decide (s.nor.hlogBase ≤ a ∧ a < s.nor.hlogNext)),
        (8, within n 1 31 && decide (a + n ≤ s.nor.hlogNext)), resZero c 10 6]
      body := fun _ s => fsOk s ((s.nor.hlog.filter fun e => decide (a ≤ e.idx ∧ e.idx < a + n)).flatMap hlogBytes) } c s)

/-! ### RETIRE (R440) -/

/-- RETIRE accepts a kind, and a unit of it (Table 16.7). -/
def retireAccepts (s : State) (kind unit : Nat) : Bool :=
  [kBay, kLane, kHoist, kBolter, kDdr, kNand, kSluice, kMillpond, kPort, kSerdes].contains kind
  || (kind = kIsland && decide (unit ≠ 62))
  || (kind = kHalf && (isRetired s kHalf unit || !isRetired s kHalf (1 - unit)))

/-- RETIRE (R440). -/
def execRetire (c : FsCmd) (s : State) : Host.Outcome State Fault Refusal :=
  let k := prm c 0 1
  let n := prm c 2 2
  .next (runFelset
    { fop := 0x0902, plen := 8, audited := true, rights := isInstaller
      checks := fun _ s => [(0, retireAccepts s k n), resZero c 1 1, (2, unitNamed k n), resZero c 4 4]
      body := fun _ s => fsOk (if unitLost s k n then s else retireUnit k n s) } c s)

/-! ### Fault injection (R450) -/

/-- Unit kinds that accept a fault (Table 16.11). -/
def faultKinds (f : Nat) : List Nat :=
  match f with
  | 0x01 | 0x02 => [kBay, kDevice]
  | 0x03 | 0x04 => [kBay, kHome]
  | 0x10 | 0x11 | 0x12 => [kLane, kDdr]
  | 0x13 => [kNand]
  | 0x20 => [kSerdes]
  | 0x21 => [kPort]
  | 0x30 => [kIsland]
  | 0x40 => [kBay]
  | 0x50 => [kQuern]
  | 0x60 => [kQuern, kHoist, kBolter]
  | _ => []

/-- Active injections. -/
def activeInjects (s : State) : List (Nat × Inject) := s.gov.injects.filter fun p => p.2.live

/-- FI_INJECT (R450): the first fault falls PERIOD_US after the start. -/
def execFiInject (c : FsCmd) (s : State) : Host.Outcome State Fault Refusal :=
  let k := prm c 0 1
  let n := prm c 2 2
  let f := prm c 4 2
  .next (runFelset
    { fop := 0x0903, plen := 16, audited := true, rights := instOrMaker
      checks := fun _ _ => [(0, decide (k ≤ 16)), resZero c 1 1, (2, unitNamed k n), (4, (faultKinds f).contains k),
        (6, decide (1 ≤ prm c 6 2)), (8, decide (prm c 8 4 ≤ 1000000)), resZero c 12 4]
      body := fun _ s =>
        let i := s.gov.nextInject
        let j : Inject := { live := true, kind := k, unit := n, fault := f, left := prm c 6 2, periodUs := prm c 8 4, lastAt := now s }
        if unitLost s k n then fsFail s sNOSERV
        else if 16 ≤ (activeInjects s).length then fsFail s sNORES
        else
          let s1 := s.onGov fun g => { g with injects := kput {} g.injects i j, nextInject := (i + 1) % (2 ^ 32 - 1) }
          fsOk (event { cls := 12, code := 0, kind := k, unit := n, detail := f, injected := true, force := true } s1)
            (leBytes 4 i ++ leBytes 4 0) } c s)

/-- FI_STOP (R450). -/
def execFiStop (c : FsCmd) (s : State) : Host.Outcome State Fault Refusal :=
  let i := prm c 0 4
  .next (runFelset
    { fop := 0x0904, plen := 8, audited := true, rights := instOrMaker
      checks := fun _ s => [(0, decide (i = 2 ^ 32 - 1) || (activeInjects s).any fun p => p.1 = i), resZero c 4 4]
      body := fun _ s => fsOk (((activeInjects s).filter fun p => p.1 = i || i = 2 ^ 32 - 1).foldl
        (fun s p => endInject p.1 s) s) } c s)

end Sys2Proof.Machine
end

