-- ==== Sys2Proof/Machine/Furl.lean ====
section
/-! DEFINITION. Furl and restart: FURL, its entry step by step, WAKE and the opening of admission, the two kinds of RESTART (R190, R401, R455, R460-R465). -/

namespace Sys2Proof.Machine

/-! ### Entry (Table 17.3) -/

/-- Step 1 of Furl entry begins: streams end with cause FURL, groups and steps are abandoned, merges stop after their entry, rebuilds stop. -/
def furlBegin (s : State) : State :=
  let s1 := s.onPwr fun p => { p with pstate := .furlEntry, furlStep := 0 }
  let s2 := stopBegun sABORTED 13 (endQueued (fun _ => true) 13 s1)
  let s3 := abandonGroups (fun _ g => g.opened && !g.abandoned) 0 s2
  let s4 := (s3.eng.steps.filter fun h => h.2.taken).foldl (fun s h => abandonStep h.1 s) s3
  let stop (x : Item) : Item :=
    if x.op = 0x6B then { x with search := x.search.map fun t => { t with stop := true } } else x
  let s5 := s4.onHome fun h => { h with waitq := h.waitq.map stop }
  pump (refreshSets ((List.range 16).foldl (fun s i =>
    if (setSt s i).rbAll.isEmpty then s else stopRebuild i s) s5))

/-- FURL (R460, R462). -/
def execFurl (c : FsCmd) (s : State) : Host.Outcome State Fault Refusal :=
  .next (runFelset
    { fop := 0x0A00, plen := 0, audited := true, kind := .sleep, rights := opOrInst
      body := fun _ s => fsOk (if inService s then furlBegin s else s) } c s)

/-- The port that listens on a plane in Furl (R461). -/
def listenPort (s : State) (plane : Nat) : Option Nat :=
  let p := if plane = 0 then cfg s 0x0E0002 5 3 else cfg s 0x0E0002 2 0
  if isRetired s kPort p then ((List.range 4).map (4 * plane + ·)).find? fun q => !isRetired s kPort q else some p

/-- The ports that do not listen in Furl. -/
def quietPorts (s : State) : List Nat :=
  (List.range 8).filter fun p => decide (listenPort s (p / 4) ≠ some p) && !isRetired s kPort p

/-- A port goes Off: its links and the lanes that are not retired. -/
def portOff (s : State) (p : Nat) : State :=
  let s1 := (List.range 4).foldl (fun s i =>
    if (link s (4 * p + i)).st = .retired then s else setLink (4 * p + i) {} s) s
  lanesOff p s1

/-- Nothing admitted, no move and no combining entry is left. -/
def quiet (s : State) : Bool :=
  s.home.waitq.isEmpty && !(s.store.pages.any fun p => p.2.mig) && !(s.home.comb.any fun x => x.2.width ≠ 0)

/-- A step of Furl entry whose work is done is left, and the next begins (Table 17.3). -/
def furlAdvance (s : State) : State :=
  let at_ (n : Nat) (s : State) : State := s.onPwr fun p => { p with furlStep := n }
  match s.pwr.furlStep with
  | 0 => if (s.core.streams.all fun x => x.2.st = .ended) && !(s.eng.groups.any fun g => g.2.opened)
      && !(s.home.waitq.any fun x => x.op = 0x6B) then at_ 1 s else s
  | 1 => if s.home.waitq.any fun x => x.op = 0x68 && x.search.isSome then s else at_ 2 s
  | 2 => if s.sec.extents.any fun x => x.2.xstate = 2 || x.2.xstate = 4 then s else at_ 3 s
  | 3 =>
    let s1 := pump ((s.home.comb.filter fun x => x.2.width ≠ 0).foldl (fun s x => drainComb x.1 s) s)
    if quiet s1 then (List.range 16).foldl (fun s b => startFlush b s) (at_ 4 s1) else s1
  | 4 => if s.home.slices.any fun x => x.2 = .flushing then s
    else at_ 5 (s.onEng fun e => { e with rowBuf := [], hotSets := [] })
  | _ =>
    let s1 := (quietPorts s).foldl portOff s
    applyRails (at_ 6 ((leavePlane 1 (leavePlane 0 s1)).onPwr fun p => { p with pstate := .furl }))

/-- FURL_ENTRY_STEP (R460). -/
def execFurlEntryStep (s : State) : Host.Outcome State Fault Refusal :=
  .next (if s.pwr.pstate = .furlEntry then furlAdvance s else s)

/-! ### Wake (Table 17.5) -/

/-- WAKE (R462, R464): `arrivedNs` is the timestamp at which its record arrived at the port. In Furl, and while waking, its reply waits for the opening of admission. -/
def execWake (c : FsCmd) (arrivedNs : Nat) (s : State) : Host.Outcome State Fault Refusal :=
  .next (runFelset
    { fop := 0x0A01, plen := 0, audited := true, kind := .sleep, rights := opOrInst
      body := fun _ s => match s.pwr.pstate with
        | .furlEntry => fsFail s sRETRY
        | .furl =>
          let s1 := applyRails (s.onPwr fun p => { p with pstate := .waking, wakeAt := some (arrivedNs + 180000) })
          { st := s1, held := true }
        | .waking => { st := s, held := true }
        | _ => fsOk s } c s)

/-- Admission opens: the Weir starts its windows at load level 0, the decay epoch goes on, the other ports train, hot slots refresh, and the replies that waited are sent. -/
def wakeOpen (s : State) : State :=
  let held := s.pwr.wakeReplies
  let s1 := s.onPwr fun p => { p with pstate := .inService, wakeAt := none, wakeReplies := [], furlStep := 0 }
  let s2 := s1.onKt fun k => { k with weirAt := now s, windowed := false, lvlPlaneA := 0, lvlPlaneB := 0, lvlSlice := [] }
  let s3 := s2.onStore fun st => { st with epochAt := now s }
  let s4 := (quietPorts s3).foldl portOn s3
  let s5 := held.foldl (fun s x => fsReply x.1 x.2.1 x.2.2 s) s4
  pump (((List.range 16).filter fun h => cfg s5 (0x090202 + 4 * h) 63 63 = 1).foldl (fun s h => refreshHot h s) s5)

/-- WAKE_ADMISSION_OPEN (R464). -/
def execWakeAdmissionOpen (s : State) : Host.Outcome State Fault Refusal :=
  .next (match s.pwr.wakeAt with
    | some t => if s.pwr.pstate = .waking && decide (t ≤ now s) then wakeOpen s else s
    | none => s)

/-! ### RESTART (R454, R455) -/

/-- What comes between the reply and the reset: every slice begins to flush, and every context closes with reason 3. -/
def beforeReset (s : State) : State :=
  let s1 := (List.range 16).foldl (fun s b => startFlush b s) s
  (s1.kt.ctxs.filter fun p => p.2.live).foldl (fun s p => emitClose p.1 3 s) s1

/-- RESTART of a kind; a KIND that neither row names is refused. -/
def restartOp (c : FsCmd) (kind : Nat) (reset : State → State) : FsOp :=
  { fop := 0x0B06, plen := 8, audited := true, kind := .restart, rights := isInstaller
    checks := fun _ _ => [(0, prm c 0 1 = kind), resZero c 1 7]
    body := fun _ s => { st := s, after := fun s => reset (beforeReset s) } }

/-- RESTART with KIND 0: a power-up reset. A command of KIND 1 is the other row's. -/
def execRestartPowerUp (c : FsCmd) (b : Board) (s : State) : Host.Outcome State Fault Refusal :=
  .next (if prm c 0 1 = 1 then s else runFelset (restartOp c 0 fun s => runStart (powerUpReset 1 b s)) c s)

/-- RESTART with KIND 1: a device reset. A command of KIND 0 is the other row's. -/
def execRestartDevice (c : FsCmd) (b : Board) (s : State) : Host.Outcome State Fault Refusal :=
  .next (if prm c 0 1 = 0 then s else runFelset (restartOp c 1 fun s => runStart (deviceReset 2 b s)) c s)

end Sys2Proof.Machine
end

