-- ==== Sys2Proof/Machine/Images.lean ====
section
/-! DEFINITION. The Felset commands of images, straps, key slots and the maker (R11, R353, R365, R369, R392, R397-R400). -/

namespace Sys2Proof.Machine

def setImg (k : Nat) (f : ImgSlot → ImgSlot) (s : State) : State :=
  s.onNor fun n => { n with images := kmod {} n.images k f }

/-- A slot that an image may be put into: one of the two, not that of the running image. -/
def imgFree (s : State) (k : Nat) : Bool := decide (k ≤ 1) && decide (s.nor.runSlot ≠ some k)

/-! ### IMG_STAGE, IMG_WRITE and verification -/

/-- A region of this YM9 that lies in extents of enabled partitions. -/
def stagable (s : State) (a len : Nat) : Bool :=
  hereAligned s a 64 && (List.range ((a % 2 ^ 50 + max 1 len - 1) / 2 ^ 28 + 1 - a % 2 ^ 50 / 2 ^ 28)).all fun i =>
    let x := extent s (a % 2 ^ 50 / 2 ^ 28 + i)
    decide (extentOf (a % 2 ^ 50) + i < mapExtents s) && x.xstate = 1 && (part s x.part).enabled

/-- IMG_STAGE (R397): the copy and the verification follow. -/
def execImgStage (c : FsCmd) (s : State) : Host.Outcome State Fault Refusal :=
  let k := prm c 0 1
  let a := prm c 8 8
  let n := prm c 16 4
  .next (runFelset
    { fop := 0x0B00, plen := 24, audited := true, kind := .install, rights := isInstaller
      checks := fun _ s => [(0, imgFree s k), resZero c 1 7, (8, stagable s a n), (16, within n 1 8388608), resZero c 20 4]
      body := fun _ s => fsOk (setImg k (fun _ => { istate := 1, src := some (a % 2 ^ 50, n) }) s) } c s)

/-- IMG_WRITE (R399). -/
def execImgWrite (c : FsCmd) (s : State) : Host.Outcome State Fault Refusal :=
  let k := prm c 0 1
  let last := decide (prm c 1 1 = 1)
  let off := prm c 4 4
  let n := prm c 8 2
  .next (runFelset
    { fop := 0x0B07, plen := 16 + n, audited := true, kind := .install, rights := isInstaller
      checks := fun _ s => [(0, imgFree s k), (1, decide (prm c 1 1 ≤ 1)), resZero c 2 2,
        (4, (off = 0 || ((imgSlot s k).istate = 5 && off = (imgSlot s k).bytes.length)) && decide (off + n ≤ 8388608)),
        (8, within n 1 1984 && (last || n % 8 = 0)), resZero c 10 6]
      body := fun _ s =>
        let bs := (if off = 0 then [] else (imgSlot s k).bytes) ++ prmBytes c 16 n
        if !last then fsOk (setImg k (fun _ => { istate := 5, bytes := bs }) s)
        else if bs.length = 448 + field bs 4 4 then fsOk (setImg k (fun _ => { istate := 1, bytes := bs }) s)
        else fsBad (setImg k (fun _ => { istate := 3, bytes := bs }) s) 8 } c s)

/-- Verification of a slot's bytes ends. -/
def verified (k : Nat) (bs : List Byte) (s : State) : State :=
  let i : ImgSlot := { istate := 1, bytes := bs }
  setImg k (fun _ => { i with istate := if imageOk s i then 2 else 3 }) s

/-- IMG_VERIFY_DONE (R397, R398): the copy of a stage, where one is under way, then ISTATE 2 or 3. A source that can no longer be read leaves no valid image. -/
def execImgVerifyDone (slot : Nat) (s : State) : Host.Outcome State Fault Refusal :=
  .next (
    let i := imgSlot s slot
    if i.istate ≠ 1 then s
    else match i.src with
      | none => verified slot i.bytes s
      | some (off, n) =>
        let ls := linesOf off n
        let t3 (l : List Nat) (s : State) : State := s.onStore fun x => { x with t3Ready := l }
        if !stagable s (globalOf s off) n then verified slot [] s
        else match engReady noWrite ls [] (t3 ((ls.map (· / 64)).dedup) s) with
          | .wait o => pump (t3 [] (o.getD s))
          | .bad _ s' => verified slot [] (t3 [] s')
          | .ready =>
            let (bad, s1) := engAccess noWrite ls (t3 ((ls.map (· / 64)).dedup) s)
            verified slot (if bad.isEmpty then readBytes s1 off n else []) (t3 [] s1))

/-- IMG_QUERY: VERSION and DIGEST of a slot that holds no whole header are free (log entry 12). -/
def execImgQuery (c : FsCmd) (s : State) : Host.Outcome State Fault Refusal :=
  let k := prm c 0 1
  .next (runFelset
    { fop := 0x0B01, plen := 8, kind := .read, rights := anyRole
      checks := fun _ _ => [(0, decide (k ≤ 1)), resZero c 1 7]
      body := fun _ s =>
        let i := imgSlot s k
        let (f, s1) := freeBytes 40 s
        if i.istate = 0 ∨ (imgHeader i).length < 448 then fsOk s1 (leBytes 1 i.istate ++ leBytes 7 0 ++ f)
        else fsOk s (leBytes 1 i.istate ++ leBytes 7 0 ++ leBytes 8 (imgVersion i) ++ slice (imgDigest i) 0 32) } c s)

/-- IMG_ACTIVATE (R398): the slot is marked active for the next power-up reset; a slot that was is valid still. -/
def execImgActivate (c : FsCmd) (s : State) : Host.Outcome State Fault Refusal :=
  let k := prm c 0 1
  .next (runFelset
    { fop := 0x0B02, plen := 8, audited := true, kind := .install, rights := isInstaller
      checks := fun _ s => [(0, decide (k ≤ 1) && (imgSlot s k).istate = 2), resZero c 1 7]
      body := fun _ s => fsOk ((setImg k (fun i => { i with istate := 4 })
        (setImg (1 - k) (fun i => if i.istate = 4 then { i with istate := 2 } else i) s)).onNor fun n => { n with actSlot := k }) } c s)

/-- FW_FLOOR_BLOW (R400). -/
def execFwFloorBlow (s : State) : Host.Outcome State Fault Refusal :=
  .next (match s.nor.runSlot with
    | some k =>
      let f := min 64 (imgFloor (imgSlot s k) / 2 ^ 56)
      if inService s && s.sec.nvState = .ready && decide (s.nor.floorSteps < f) then
        s.onNor fun n => { n with floorSteps := f }
      else s
    | none => s)

/-! ### Straps (R11, R392) -/

/-- The strap fields of a word that are written by command. -/
def strapMask (a : Nat) : Nat := match regAt a with | some r => r.mask (fun f => f.strap && f.acc = .rwl) | none => 0

/-- Every strap field's current value, stored; an address that is not stored holds the factory's. -/
def strapsNow (s : State) : KMap Word :=
  let as := ((s.cw.map (·.1)) ++ s.nor.straps.map (·.1)).dedup.filter fun a => decide (strapMask a ≠ 0)
  as.foldl (fun m a =>
    kput (BitVec.ofNat 64 ((cwReset a).toNat &&& strapMask a)) m a (BitVec.ofNat 64 (cwRaw s a &&& strapMask a))) []

/-- Close a bootstrap session; the spec gives its reason no value (log entry 12). -/
def closeBootstrap (n : Nat) (s : State) : State :=
  let (v, s1) := freeVal s
  let r := v.toNat % 4
  if r < 2 then beginClose n r s1 else closeNow n (emitClose n r s1)

/-- STRAP_COMMIT (R11, R392): with NODE_CERT committed, bootstrap sessions close. -/
def execStrapCommit (c : FsCmd) (s : State) : Host.Outcome State Fault Refusal :=
  .next (runFelset
    { fop := 0x0B03, plen := 0, audited := true, kind := .install, rights := isInstaller
      body := fun _ s =>
        let m := strapsNow s
        let cert := m.any fun p => decide (0x0B0400 ≤ p.1 ∧ p.1 < 0x0B0462)
        { st := s.onNor fun n => { n with straps := m, certCommitted := cert },
          after := fun s => if cert then
              (s.kt.ctxs.filter fun p => p.2.live && p.2.bootstrap).foldl (fun s p => closeBootstrap p.1 s) s
            else s } } c s)

/-! ### Key slots (R353, R365) -/

/-- Close the Felset sessions of a key slot (R357). -/
def closeSlot (k : Nat) (s : State) : State :=
  ((openSessions s).filter fun p => p.2.slot = k).foldl (fun s p => closeFsession p.1 s) s

/-- The first-install form of KEY_ENROLL: no installer slot is enrolled, ROLE is 2, and MSIG is the maker's. -/
def firstInstall (c : FsCmd) (s : State) : Bool :=
  c.fsid = 0 && (installerSlots s).isEmpty && prm c 1 1 = 2
  && Config.rsaVerify Config.makerModulus
    (slice Config.deviceId 0 16 ++ leBytes 1 (prm c 0 1) ++ leBytes 1 (prm c 1 1) ++ prmBytes c 8 384) (prmBytes c 392 384)

/-- KEY_ENROLL (R365). -/
def execKeyEnroll (c : FsCmd) (s : State) : Host.Outcome State Fault Refusal :=
  let k := prm c 0 1
  .next (runFelset
    { fop := 0x0B04, plen := 776, audited := true, kind := .install, free := true
      rights := fun se s => se.role = 2 || firstInstall c s
      checks := fun _ _ => [(0, decide (k < 64)), (1, within (prm c 1 1) 1 2), resZero c 2 2,
        (392, c.fsid = 0 || (prmBytes c 392 384).all (· = 0))]
      body := fun _ s =>
        let new : KeySlot := { role := prm c 1 1, pmask := BitVec.ofNat 32 (prm c 4 4), modulus := prmBytes c 8 384 }
        fsOk (closeSlot k (s.onNor fun n => { n with keySlots := kput {} n.keySlots k new })) } c s)

/-- KEY_REVOKE. -/
def execKeyRevoke (c : FsCmd) (s : State) : Host.Outcome State Fault Refusal :=
  let k := prm c 0 1
  .next (runFelset
    { fop := 0x0B05, plen := 8, audited := true, kind := .install, rights := isInstaller
      checks := fun _ s => [(0, decide (k < 64)
        && !((kget {} s.nor.keySlots k).role = 2 && (installerSlots s).length = 1)), resZero c 1 7]
      body := fun _ s => fsOk (closeSlot k (s.onNor fun n => { n with keySlots := kput {} n.keySlots k {} })) } c s)

/-! ### The maker's commands -/

/-- MK_SCREEN: the result of a test is the maker's (log entry 12). -/
def execMkScreen (c : FsCmd) (s : State) : Host.Outcome State Fault Refusal :=
  .next (runFelset
    { fop := 0x0F00, plen := 8, audited := true, rights := isMaker
      checks := fun _ _ => [resZero c 2 6]
      body := fun _ s =>
        if (List.range 32).any fun n => (part s n).enabled then fsFail s sDENIED
        else fsOk { s with free := s.free + 1 } (slice (Config.screenResult (prm c 0 2) s.free) 0 32) } c s)

/-- MK_FUSE_READ: the contents of the fuse record are the maker's (log entry 12). -/
def execMkFuseRead (c : FsCmd) (s : State) : Host.Outcome State Fault Refusal :=
  .next (runFelset
    { fop := 0x0F01, plen := 0, rights := isMaker
      body := fun _ s => fsOk { s with free := s.free + 1 } (slice (Config.fuseRecord s.free) 0 64) } c s)

/-- MK_RETURN (R369, R392, R434, R443): partitions are disabled and scrubbed; key slots, the logs and the health history are cleared; the factory straps load at the next reset. Its own audit entry is the first of the cleared log. -/
def execMkReturn (c : FsCmd) (s : State) : Host.Outcome State Fault Refusal :=
  .next (runFelset
    { fop := 0x0F02, plen := 0, audited := true, rights := isMaker
      body := fun _ s =>
        let s1 := ((List.range 32).filter fun n => (part s n).enabled && !(part s n).disabling).foldl
          (fun s n => disablePart n s) s
        let s2 := (List.range 64).foldl (fun s k => closeSlot k s) s1
        fsOk (s2.onNor fun n => { n with
          keySlots := [], straps := [], certCommitted := false, hist := [], hlog := [], hlogBase := n.hlogNext,
          audit := [], auditBase := n.auditNext, auditAcked := n.auditNext, auditWarned := false, auditErasing := false }) } c s)

end Sys2Proof.Machine
end

