-- ==== Sys2Proof/Machine/Kt.lean ====
section
/-! DEFINITION. The commands of Krathar transport (chapter 4): frames received, acknowledgements, probes, timers, links and sessions; and the liveness bound and forwards' responses that arrive over it (R405, R411). -/

namespace Sys2Proof.Machine

/-! ### Frames received (R113, R115, R118, R487) -/

/-- Opcodes in 0x00-0x7F that name a request or message a YM9 receives (Tables 5.3, 5.4, 6.2, 10.2, 11.4, 12.4). The snoops 0x58-0x5A, which a YM9 only sends, are answered as unassigned ones are (DESIGN CHOICE, log entry 24). -/
def opKnown (op : Nat) : Bool :=
  [0x00, 0x01, 0x40, 0x70, 0x71, 0x72, 0x73, 0x7F].contains op
  || within op 0x10 0x13 || within op 0x20 0x2A || within op 0x50 0x55 || within op 0x60 0x6B

/-- Insert a sequence number among those received above a gap, in serial order. -/
def insertSeq (x : Nat) : List Nat → List Nat
  | [] => [x]
  | y :: r => if x = y then y :: r else if precedes x y then x :: y :: r else y :: insertSeq x r

/-- The cumulative number and what is left above it, after a number has been received. -/
def advanceRx : Nat → List Nat → Nat × List Nat
  | n, [] => (n, [])
  | n, x :: r => if x = n then advanceRx ((n + 1) % 2 ^ 32) r else (n, x :: r)

/-- The plane a frame came on. -/
def rxPlane (f : RxFrame) : Nat := linkPlane f.link

/-- A frame came routed. -/
def rxRouted (f : RxFrame) : Bool := f.route.isSome

/-- The secure channel a frame came on. -/
def rxChan (f : RxFrame) : Nat := chanOf (rxPlane f) (rxRouted f)

/-- The node that a frame's source MAC or IPv6 address names (R105, R123); 65,536 where it is no node's address on the plane. -/
def srcOf (f : RxFrame) (s : State) : Nat :=
  match f.route with
  | none => if f.srcMac = macOf s (rxPlane f) (f.srcMac % 65536) then f.srcMac % 65536 else 65536
  | some r => if r.srcIp = ipOf s (rxPlane f) (r.srcIp % 65536) then r.srcIp % 65536 else 65536

/-- The context of a frame: by its source node at layer 2, by the envelope's SESSION when routed (step 4 of R487). -/
def frameCtx (f : RxFrame) (s : State) : Option Nat :=
  if rxRouted f then (s.kt.ctxs.find? fun p => p.2.live && p.2.session = f.session.toNat).map (·.1)
  else if (ctx s (srcOf f s)).live then some (srcOf f s) else none

/-- MGMT_VID and DATA_VID of a plane. -/
def mgmtVid (s : State) (plane : Nat) : Nat := cfg s (0x040010 + 4 * plane) 11 0
def dataVid (s : State) (plane : Nat) : Nat := cfg s (0x040010 + 4 * plane) 23 12

/-- The frame contradicts PEER_REACH (R106). -/
def reachBad (f : RxFrame) (s : State) : Bool :=
  decide (65536 ≤ srcOf f s) || decide (reach s (srcOf f s) (rxPlane f) ≠ if rxRouted f then 2 else 1)

/-- The VID of a frame's C-tag. -/
def rxVid (f : RxFrame) : Option Nat := match f.tag with
  | some t => if t.tpid = 0x8100 then some t.vid else none
  | none => none

/-- The record lengths add up to LENGTH, and the records number REC_COUNT (R115). -/
def recordsAdd (f : RxFrame) : Bool :=
  f.recCount = f.recs.length && f.length = 24 + (f.recs.map fun r => lenUnit r.opcode * r.len).sum

/-- Step 8 of R487. -/
def mgmtBad (f : RxFrame) (s : State) : Bool :=
  decide (rxVid f ≠ some (if f.mgmt then mgmtVid s (rxPlane f) else dataVid s (rxPlane f)))
  || (f.mgmt && f.recs.any fun r => decide (r.opcode ≠ 0x7F ∧ r.opcode < 0xF0))

/-- A SESSION 0 frame holds only SESSION_OPEN or SESSION_ACCEPT (R112). -/
def openFrame (f : RxFrame) : Bool := f.session = 0 && f.recs.all fun r => r.opcode = 0xF4 || r.opcode = 0xF5

/-- How far the SA of a frame lies after the one in use for receiving on its channel: 0 the one in use, 1 the next. -/
def saAhead (c : Ctx) (f : RxFrame) : Nat := (f.an + 4 - (kget {} c.rx (rxChan f)).sa % 4) % 4

/-- The receiver holds the SA of a frame: the one in use, the next, or the previous one for 1 ms (Table 4.7). A frame of another SA is discarded as one that fails its integrity check (DESIGN CHOICE, log entry 25). -/
def saHeld (c : Ctx) (f : RxFrame) (s : State) : Bool :=
  saAhead c f < 2 || (saAhead c f = 3 && (match (kget {} c.rx (rxChan f)).prevUntil with | some t => decide (now s < t) | none => false))

/-- The highest packet number received in a frame's SA. -/
def pnTop (c : Ctx) (f : RxFrame) : Nat := kget 0 (kget {} c.rx (rxChan f)).top (f.an % 4)

/-- A routed packet that is a fragment, carries an extension header or fails its UDP checksum (R125). -/
def routeBad (f : RxFrame) : Bool := match f.route with
  | some r => r.fragment || r.next ≠ 17 || !r.sumOk
  | none => false

/-- Steps 1 to 3 of R487. MAC control frames have EtherType 0x8808 and S-tags TPID 0x88A8 (Table 4.2). -/
def rxEarly (f : RxFrame) (s : State) : Option Nat :=
  let boot := match frameCtx f s with
    | some n => (ctx s n).bootstrap
    | none => f.session = 0 && !s.nor.certCommitted
  if f.etype = 0x8808 || (match f.tag with | some t => decide (t.tpid = 0x88A8) | none => false) || routeBad f then some 12
  else if !(rxVid f = some (mgmtVid s (rxPlane f)) || rxVid f = some (dataVid s (rxPlane f))) then some 7
  else if !boot && reachBad f s then some 11
  else none

/-- Bytes that wait in the receive buffer (R110). -/
def rxHeld (s : State) : Nat :=
  let b (l : List Deliv) : Nat := (l.map (·.bytes)).sum
  (s.kt.ctxs.map fun p => b p.2.inbox + (p.2.parked.map fun x => b x.2).sum).sum

/-- The receive buffer of 16 MiB has no room for a frame (R110). -/
def rxFull (f : RxFrame) (s : State) : Bool := decide (16777216 < rxHeld s + f.length)

/-- Steps 4 to 9 of R487. A frame that passes its integrity check and names another SESSION than its node's has none (R112). -/
def rxLate (f : RxFrame) (s : State) : Option Nat :=
  if f.session = 0 then
    (if !openFrame f || fenced s (srcOf f s) then some 9
     else if f.srcNode ≠ srcOf f s ∨ f.dstNode ≠ nodeId s then some 8
     else if mgmtBad f s then some 7 else none)
  else match frameCtx f s with
    | none => some 9
    | some n =>
      let c := ctx s n
      if !(f.icvOk && saHeld c f s) then some 5
      else if f.pn + 65536 ≤ pnTop c f then some 6
      else if c.session ≠ f.session.toNat then some 9
      else if f.srcNode ≠ n ∨ f.dstNode ≠ nodeId s then some 8
      else if mgmtBad f s then some 7
      else if f.seqd && (rxFull f s || decide (rxWindow s ≤ serialDist c.rcvNext f.seq.toNat
          ∧ serialDist c.rcvNext f.seq.toNat < 2 ^ 31)) then some 10
      else none

/-- The statistic of the first check that a frame fails, in the order of R487, up to step 9; none where it passes. -/
def rxDrop (f : RxFrame) (s : State) : Option Nat := rxEarly f s <|> rxLate f s

/-- A sequenced frame already received. -/
def rxDup (c : Ctx) (seq : Nat) : Bool := decide (2 ^ 31 ≤ serialDist c.rcvNext seq) || c.rcvAbove.contains seq

/-- The records of a frame as the transaction layer takes them: responses come as commands of their own. -/
def delivs (f : RxFrame) : List Deliv :=
  (f.recs.filter fun r => !r.resp).map fun r =>
    { op := r.opcode, tag := r.tag, ord := f.ord, bytes := lenUnit r.opcode * r.len, flags := r.flags, addr := r.addr, fs := r.fs }

/-- The answer to a record that is not executed: of its own opcode, with its TAG (R12, R115, R137). -/
def answerRec (n st : Nat) (r : Deliv) (s : State) : State :=
  sendRec n (.resp r.op r.tag st (loadLevel s n (homeBay (r.addr % 2 ^ 50)) (r.flags % 32) st) false 0 []) false false s

/-- The transaction layer takes a delivered record (R12, R115). Requests wait in the context's inbox for their own commands. -/
def takeRec (n : Nat) (r : Deliv) (s : State) : State :=
  if 0xF7 ≤ r.op then bump (aKT 12) s
  else if 0xF0 ≤ r.op then s
  else if !opKnown r.op then answerRec n sBAD r s
  else if r.op = 0x7F then (match r.fs with | some (fop, c) => unknownFop fop c s | none => s)
  else if within r.op 0x72 0x7F then s
  else setCtx n (fun c => { c with inbox := c.inbox ++ [r] }) s

/-- Deliver the parked ORD 1 frames that every lower number now precedes, in order (R118). -/
def releaseParked (n : Nat) (s : State) : State :=
  let c := ctx s n
  let ready := c.parked.filter fun p => precedes p.1 c.rcvNext
  (ready.flatMap (·.2)).foldl (fun s r => takeRec n r s)
    (setCtx n (fun c => { c with parked := c.parked.filter fun p => !precedes p.1 c.rcvNext }) s)

/-- Records of an ORD 1 frame wait, in sequence order, for the numbers below it. -/
def park (seq : Nat) (ds : List Deliv) : List (Nat × List Deliv) → List (Nat × List Deliv)
  | [] => [(seq, ds)]
  | p :: r => if precedes seq p.1 then (seq, ds) :: p :: r else p :: park seq ds r

/-- A sequenced frame is noted as received: its number, and the acknowledgement due (R118, R119). -/
def noteRx (n seq : Nat) (s : State) : State :=
  let c := ctx s n
  let (nx, ab) := advanceRx c.rcvNext (insertSeq seq c.rcvAbove)
  setCtx n (fun c => { c with
    rcvNext := nx, rcvAbove := ab, newest := now s, owed := c.owed ++ [(seq, now s)] }) s

/-- The frame's records reach the transaction layer, at once or, with ORD 1 above a gap, when the gap is filled. -/
def deliverRx (n : Nat) (f : RxFrame) (s : State) : State :=
  let seq := f.seq.toNat
  if !recordsAdd f then bump (aKT 12) s
  else if f.ord && !precedes seq (ctx s n).rcvNext then
    setCtx n (fun c => { c with parked := park seq (delivs f) c.parked }) s
  else (delivs f).foldl (fun s r => takeRec n r s) s

/-- Acknowledge after 16 further frames, and ask for a gap to be filled (R119). -/
def ackRx (n : Nat) (gap : Bool) (s : State) : State :=
  let c := ctx s n
  let s1 := match gap, c.rcvAbove with
    | true, x :: _ => sendPlain n c.plane [] (.nack x) s
    | _, _ => s
  if 16 < (ctx s1 n).owed.length then sendAck n s1 else s1

/-- A frame that is not sequenced holds only ACK, NACK, PROBE and PROBE_REPLY (R115; log entry 18). -/
def plainOk (f : RxFrame) : Bool := recordsAdd f && f.recs.all fun r => within r.opcode 0xF0 0xF3 || decide (0xF7 ≤ r.opcode)

/-- A frame of a session that passes every check (R117-R119, R405). The ACK of a frame that holds an ACK record takes effect with that record, which gives its delay. -/
def acceptRx (n : Nat) (f : RxFrame) (s : State) : State :=
  let s1 := if f.recs.any fun r => r.opcode = 0xF0 then s
    else closeAcked n (applyAck n f.ack.toNat (min f.rwnd 4095) 0 [] s)
  if !(ctx s1 n).live then s1
  else if !f.seqd then (if plainOk f then (delivs f).foldl (fun s r => takeRec n r s) s1 else bump (aKT 12) s1)
  else
    let s2 := noteRx n f.seq.toNat s1
    let gap := (ctx s2 n).rcvAbove.contains f.seq.toNat
    ackRx n gap (releaseParked n (deliverRx n f s2))

/-- A frame that passed the integrity and replay checks: its packet number counts, and the first one in the next SA moves the receiver on to it, the previous one kept for 1 ms and the one after derived (Table 4.7). -/
def notePn (n : Nat) (f : RxFrame) (s : State) : State :=
  setCtx n (fun c =>
    let x := kget {} c.rx (rxChan f)
    let top := kput 0 x.top (f.an % 4) (max (pnTop c f) f.pn)
    if saAhead c f = 1 then
      { c with
        rx := kput {} c.rx (rxChan f)
          { sa := x.sa + 1, prevUntil := some (now s + 1000000), top := kput 0 top ((f.an + 1) % 4) 0 }
        sas := if s.sec.nvState = .lost then c.sas else kput {} c.sas (x.sa + 2) (saOf c.skey (x.sa + 2)) }
    else { c with rx := kput {} c.rx (rxChan f) { x with top := top } }) s

/-- A frame of a live session came in: LAST_HEARD rises and a silent node is alive again (R405). -/
def heardFrom (n : Nat) (s : State) : State :=
  setCtx n (fun c => { c with lastHeard := now s, lstate := if c.lstate = .silent then .alive else c.lstate }) s

/-- The context whose packet numbers a frame's checks reach: none for a frame discarded before step 7 of R487. -/
def pnCtx (f : RxFrame) (s : State) : Option Nat :=
  match frameCtx f s with
  | some n => if (rxEarly f s).isNone && f.session ≠ 0 && f.icvOk && saHeld (ctx s n) f s
      && decide (pnTop (ctx s n) f < f.pn + 65536) then some n else none
  | none => none

/-- A frame that the ports take for KT: on a link in service, of a length the link takes, with the EtherType of KT, or routed to its UDP port; and a MAC control frame (R101, R114, R123). -/
def ktFrame (f : RxFrame) (s : State) : Bool :=
  linkServes s f.link && within f.octets 64 (maxFrame s f.link)
  && (f.etype = 0x8808 || (match f.route with
      | none => f.etype = cfg s 0x040000 63 48
      | some r => r.next ≠ 17 || r.fragment || r.port = cfg s 0x040000 47 32))

/-- A KT frame received: the checks in order, each discarded frame counted once (R487). -/
def frameRx (f : RxFrame) (s : State) : State :=
  let s0 := match pnCtx f s with | some n => notePn n f s | none => s
  match rxDrop f s with
  | some 8 => event { cls := 5, code := 0, kind := kNode, unit := f.srcNode } (bump (aKT 8) s0)
  | some 10 => (match frameCtx f s with
    | some n => bump (aKT 10) (heardFrom n s0)
    | none => bump (aKT 10) s0)
  | some k => bump (aKT k) s0
  | none =>
    if f.session = 0 then bump (aKT (if recordsAdd f then 1 else 12)) s
    else match frameCtx f s with
      | none => s
      | some n =>
        let s1 := heardFrom n s0
        if f.seqd && rxDup (ctx s n) f.seq.toNat then
          setCtx n (fun c => { c with owed := c.owed ++ [(f.seq.toNat, now s)] }) (bump (aKT 4) s1)
        else acceptRx n f (if if f.seqd then recordsAdd f else plainOk f then bump (aKT 1) s1 else s1)

/-- KT_FRAME_RX (R487). -/
def execKtFrameRx (f : RxFrame) (s : State) : Host.Outcome State Fault Refusal :=
  .next (if ktFrame f s then frameRx f s else s)

/-! ### Acknowledgement and timers (R117-R121) -/

/-- ACK (R117, R120): the frames it covers are released. -/
def execAck (a : AckRec) (s : State) : Host.Outcome State Fault Refusal :=
  .next (if (ctx s a.node).live then
      closeAcked a.node (applyAck a.node a.ack.toNat (min a.rwnd 4095) a.delayNs
        (a.sacks.map fun r => (r.1.toNat, r.2.toNat)) s)
    else s)

/-- PROBE (R121): answered on the plane it came on, with TOKEN and TX_TS echoed. -/
def execProbe (node plane : Nat) (token : BitVec 32) (txTs : Word) (s : State) : Host.Outcome State Fault Refusal :=
  .next (if (ctx s node).live then sendPlain node plane [] (.probeReply token.toNat txTs.toNat) s else s)

/-- PROBE_REPLY (R121): after three in a row new frames go on the home plane again. The return starts the retries afresh, as a move off a plane does (DESIGN CHOICE, log entry 26). -/
def execProbeReply (node plane : Nat) (token : BitVec 32) (txTs : Word) (s : State) : Host.Outcome State Fault Refusal :=
  .next (
    let c := ctx s node
    if c.live && c.probeOut && plane = homePlane s node && c.probeTok = token.toNat && decide (txTs.toNat = c.lastProbe) then
      setCtx node (fun c =>
        if 3 ≤ c.probeReplies + 1 then
          { c with plane := homePlane s node, srtt := none, tries := 0, probeReplies := 0, probeOut := false }
        else { c with probeReplies := c.probeReplies + 1, probeOut := false }) s
    else s)

/-- ACK_TIMER (R119): 1 µs has passed since a sequenced frame that is not acknowledged yet. -/
def execAckTimer (node : Nat) (s : State) : Host.Outcome State Fault Refusal :=
  .next (match (ctx s node).owed with
    | x :: _ => if (ctx s node).live && elapsed s x.2 1000 then sendAck node s else s
    | [] => s)

/-- The last branch of R120's timeout: the silence is reported once, and the oldest frame goes on the planes in turn. A context that is closing is freed instead (R488). -/
def silentTimeout (n : Nat) (s : State) : State :=
  let c := ctx s n
  if !c.silentRep && c.closing.isSome then closeNow n s
  else
    let s1 := if c.silentRep then s else reportSilent n s
    match oldestHeld (ctx s1 n) with
    | some h => if (ctx s1 n).live then sendHeld n h (1 - h.plane) s1 else s1
    | none => s1

/-- The timeout of the oldest held frame (R120). -/
def timeout (node : Nat) (h : Held) (s : State) : State :=
  let c := ctx s node
  let s1 := setCtx node (fun c => { c with tries := c.tries + 1 }) s
  if c.tries + 1 < retxLimit s then sendHeld node h c.plane s1
  else if !c.switched && usable s node (1 - c.plane) then planeSwitch node (1 - c.plane) true s1
  else silentTimeout node s1

/-- The oldest held frame, where its timer has run out (R120). -/
def timedOut (node : Nat) (s : State) : Option Held :=
  let c := ctx s node
  let due := if retxLimit s ≤ c.tries then rtoMax s else rto s c
  (oldestHeld c).filter fun h => c.live && elapsed s h.sentAt due

/-- RTO_EXPIRY (R120). -/
def execRtoExpiry (node : Nat) (s : State) : Host.Outcome State Fault Refusal :=
  .next (match timedOut node s with
    | some h => timeout node h s
    | none => s)

/-- NACK (R120): the frames asked for are resent on the active plane, each at most once per SRTT, or per RTO_MIN without a sample. A frame whose timeout falls due as well is sent once, as the timeout's retry (R122). -/
def execNack (node ack nextHeld : Nat) (s : State) : Host.Outcome State Fault Refusal :=
  .next (if (ctx s node).live then
      let s0 := closeAcked node (applyAck node ack (ctx s node).rwnd 0 [] s)
      let asked (h : Held) : Bool := decide (0 < h.sends) && !precedes h.seq ack && precedes h.seq nextHeld
      let s1 := match timedOut node s0 with
        | some h => if asked h then timeout node h s0 else s0
        | none => s0
      let c := ctx s1 node
      let gap := c.srtt.getD (rtoMin s)
      let due := c.held.filter fun h => asked h
        && (match h.nackAt with | some t => elapsed s1 t gap | none => true)
        && !(decide (1 < h.sends) && h.sentAt = now s1)
      due.foldl (fun s h => setCtx node (fun c => { c with
        held := c.held.map fun x => if x.seq = h.seq then { x with nackAt := some (now s) } else x })
          (sendHeld node h c.plane s)) s1
    else s)

/-- PROBE_TIMER (R121): a context away from its home plane probes it every 1 ms. -/
def execProbeTimer (node : Nat) (s : State) : Host.Outcome State Fault Refusal :=
  .next (
    let c := ctx s node
    let h := homePlane s node
    if c.live && decide (c.plane ≠ h) && !(linksUp s h).isEmpty && decide (reach s node h ≠ 0)
        && elapsed s c.lastProbe 1000000 then
      let (v, s1) := freeVal s
      let tok := v.toNat % 2 ^ 32
      let s2 := setCtx node (fun c => { c with
        probeReplies := if c.probeOut then 0 else c.probeReplies, probeTok := tok, probeOut := true,
        lastProbe := now s }) s1
      sendPlain node h [] (.probe tok (now s)) s2
    else s)

/-! ### Links (R100, R103, R104) -/

/-- LINK_DOWN (R104): the link leaves its plane's group; a plane without a link moves its contexts. -/
def execLinkDown (link : Nat) (s : State) : Host.Outcome State Fault Refusal :=
  .next (let l := Sys2Proof.Machine.link s link
    if l.st = .up then leavePlane (linkPlane link) (setLink link { st := .down } s) else s)

/-- LINK_REFORM_DONE (R103): auto-negotiation and training have ended; a link that failed to train is down. -/
def execLinkReformDone (link : Nat) (ok : Bool) (s : State) : Host.Outcome State Fault Refusal :=
  .next (let l := Sys2Proof.Machine.link s link
    if l.st = .training || l.st = .down then
      (if ok then linkUp link s else setLink link { st := .down } s)
    else s)

/-! ### Sessions (R112, R187, R391-R394, R488) -/

/-- An answer to a session record that is turned away for now (R112; log entry 21). -/
def answerOpen (r : SessRec) (status : Nat) (s : State) : State :=
  emitOpenFrame r.node r.plane 0 (.resp 0xF4 0 status 0 false 0 []) s

/-- SESSION_OPEN (R112, R488): a repeated one is answered again; of two opens at once the one begun by the lower node ID stays; others wait for Novva. -/
def execSessionOpen (r : SessRec) (s : State) : Host.Outcome State Fault Refusal :=
  .next (
    let c := ctx s r.node
    let o := kget {} s.kt.ownOpens r.node
    if fenced s r.node then s
    else if s.sec.nvState = .lost then
      emit r.node r.plane { ord := true, opening := true, seq := 0, rcd := .sessionClose 3 } s
    else if c.live && c.openNonce = r.nonce && !elapsed s c.openedAt 100000000 then
      (match c.acceptRec with
       | some (.sessionAccept q k n t e g) => emitOpenFrame r.node r.plane q (.sessionAccept q k n t e g) s
       | _ => s)
    else if o.live && decide (nodeId s < r.node) then s
    else if 64 ≤ s.kt.opens.length then answerOpen r sRETRY s
    else
      let s1 := if o.live then s.onKt fun k =>
          { k with ownOpens := kput {} k.ownOpens r.node { o with nonce := [] } } else s
      s1.onKt fun k => { k with opens := k.opens ++ [r] })

/-- SESSION_OPEN_DONE (R112, R394): Novva has checked the oldest open of a node. An open that passes waits while the node's old session, or the idle one that has to make room, closes. -/
def execSessionOpenDone (node : Nat) (s : State) : Host.Outcome State Fault Refusal :=
  .next (match s.kt.opens.find? fun r => r.node = node with
    | none => s
    | some r =>
      let done := s.onKt fun k => { k with opens := k.opens.erase r }
      let cert := certBody r ++ padTo 384 r.certSig
      if !sessionOk s r (openBody r.seq0.toNat r.nonce cert r.ehalf) then
        let o := kget {} s.kt.ownOpens node
        sessionFail node (if o.live && o.nonce.isEmpty then
          done.onKt fun k => { k with ownOpens := kput {} k.ownOpens node {} } else done)
      else if (ctx s node).live then (if (ctx s node).closing.isSome then s else beginClose node 1 s)
      else match ctxRoom s with
        | .free => acceptOpen r done
        | .closing => s
        | .close v => closeIdle v s
        | .full => answerOpen r sNORES done)

/-- SESSION_ACCEPT (R394): the YM9's own open completes. -/
def execSessionAccept (r : SessRec) (s : State) : Host.Outcome State Fault Refusal :=
  .next (
    let o := kget {} s.kt.ownOpens r.node
    if !o.live || o.nonce.isEmpty || o.waiting || decide (16384 ≤ ctxCount s) then s
    else
      let cert := certBody r ++ padTo 384 r.certSig
      let body := acceptBody r.seq0.toNat r.session.toNat r.nonce cert r.ehalf
      if !sessionOk s r (body ++ (ownOpenRec o s).octets) then sessionFail r.node s
      else match Config.rsaDecrypt r.ehalf with
        | none => sessionFail r.node s
        | some hAccept =>
          let k := sessionKey o.half hAccept (nodeId s) r.node r.session.toNat o.nonce r.nonce
          newCtx r.node (freshCtx s r.session.toNat o.plane o.seq0 r.seq0.toNat (min r.rwnd 4095) k) s)

/-- SESSION_OPEN_RESEND (R488): 10 ms without an answer; at most three times, then the open is abandoned. An open that waited for a context goes out when there is one; where no context can be closed for it, it is abandoned (R112). -/
def execSessionOpenResend (node : Nat) (s : State) : Host.Outcome State Fault Refusal :=
  .next (
    let o := kget {} s.kt.ownOpens node
    let keep (o : OwnOpen) : State := s.onKt fun k => { k with ownOpens := kput {} k.ownOpens node o }
    let send (o : OwnOpen) : State := emitOpenFrame node o.plane o.seq0 (ownOpenRec o s) (keep o)
    if !o.live || o.nonce.isEmpty then s
    else if o.waiting then
      (if (ctx s node).live then s
       else match ctxRoom s with
        | .free => send { o with waiting := false, sentAt := now s }
        | .closing => s
        | .close v => closeIdle v s
        | .full => keep {})
    else if !elapsed s o.sentAt 10000000 then s
    else if 3 ≤ o.resends then keep {}
    else send { o with resends := o.resends + 1, sentAt := now s })

/-- SESSION_CLOSE received (R488): acknowledged at once, then the context closes. The reason changes nothing here. -/
def execSessionClose (node _reason : Nat) (s : State) : Host.Outcome State Fault Refusal :=
  .next (if (ctx s node).live then closeNow node (sendAck node s) else s)

/-- SESSION_IDLE_CLOSE (R112, R187): a context idle for 100 ms in both directions; an agent with copies flushes first. -/
def execSessionIdleClose (node : Nat) (s : State) : Host.Outcome State Fault Refusal :=
  .next (
    let c := ctx s node
    if c.live && c.held.isEmpty && c.own.isEmpty && c.closing.isNone && c.flushSent.isNone
        && elapsed s c.lastHeard 100000000 && elapsed s c.lastSent 100000000 then
      closeIdle node s
    else s)

/-- CACHER_FLUSH_TIMEOUT (R187): 1 ms without the flush's response; the copies are lost as under a fence, and the context closes. -/
def execCacherFlushTimeout (node : Nat) (s : State) : Host.Outcome State Fault Refusal :=
  .next (match (ctx s node).flushSent with
    | some t => if (ctx s node).live && elapsed s t 1000000 then beginClose node 0 s else s
    | none => s)

/-- SNP_FLUSH_BAY response (R187, R189): an agent has written back and dropped what it held. -/
def execSnpFlushBayResponse (node tag : Nat) (s : State) : Host.Outcome State Fault Refusal :=
  .next (match s.home.flushDue.find? fun p => p.2.contains (node, tag) with
    | none => s
    | some (b, l) =>
      let left := l.filter fun a => decide (a ≠ (node, tag))
      let s1 := s.onHome fun h => { h with flushDue := kput [] h.flushDue b left }
      if 16 ≤ b then pump (beginClose node 0 (forgetCopies node s1))
      else if left.isEmpty then pump (finishFlush b s1) else s1)

/-- SA_REKEY (Table 4.7), on one secure channel: as sender after 2^48 frames in the SA; as receiver the previous SA is dropped 1 ms after the first use of the next. With Novva lost only an SA already derived can be taken, and a session without one closes (R386). -/
def execSaRekey (node : Nat) (sc : SaEnd) (s : State) : Host.Outcome State Fault Refusal :=
  .next (
    let c := ctx s node
    let t := kget {} c.tx sc.chan
    let x := kget {} c.rx sc.chan
    if !c.live then s
    else if sc.receiver then
      (match x.prevUntil with
       | some u => if u ≤ now s then setCtx node (fun c => { c with rx := kput {} c.rx sc.chan { x with prevUntil := none } }) s else s
       | none => s)
    else if t.pn < 2 ^ 48 then s
    else if s.sec.nvState = .lost && decide (kget {} c.sas (t.sa + 1) = {}) then beginClose node 0 s
    else setCtx node (fun c => { c with
      tx := kput {} c.tx sc.chan { sa := t.sa + 1 }
      sas := kput {} c.sas (t.sa + 1) (saOf c.skey (t.sa + 1)) }) s)

/-! ### Liveness and forwards (R405, R406, R411, R412) -/

/-- LIVE_BOUND_EXPIRY (R405): LIVE_BOUND has passed since a silent node was last heard. -/
def execLiveBoundExpiry (node : Nat) (s : State) : Host.Outcome State Fault Refusal :=
  .next (
    let c := ctx s node
    if c.live && c.lstate = .silent && elapsed s c.lastHeard (liveBound s) then fenceNode node s else s)

/-- A RETRY received for an own request (R138): it waits, each time up to twice as long until the tenth, and is sent again. -/
def ownRetry (node tag : Nat) (s : State) : State :=
  let s1 := setCtx node (fun c => { c with own := c.own.map fun o =>
    if o.tag = tag then { o with backoff := true, retries := min (o.retries + 1) 10 } else o }) s
  ownPump node (ctx s1 node).own.length s1

/-- SET_FORWARD_RESPONSE (R128, R159, R411, R412, R414): a member answers a request of the YM9's own, matched by TAG and OPCODE; an interim response gives it FLASH_DEADLINE. -/
def execSetForwardResponse (node tag status : Nat) (a : OwnAnswer) (s : State) : Host.Outcome State Fault Refusal :=
  .next (match (ctx s node).own.find? fun o => o.tag = tag with
    | none => s
    | some o =>
      if o.queued || o.backoff || o.rcd.op ≠ a.op then s
      else if a.interim then setCtx node (fun c => { c with own := c.own.map fun x => if x.tag = tag then { x with flash := true } else x }) s
      else if status = sRETRY then ownRetry node tag s
      else ownAnswered node tag status a.data (pace node (match o.rcd with | .req _ _ _ p _ _ _ => p | _ => 0) a.level s))

end Sys2Proof.Machine
end

