-- ==== Sys2Proof/Machine/Txn.lean ====
section
/-! DEFINITION. Loads, stores, atomics, publishing and messages as an agent's records bring them (chapter 5): each passes Table 5.5, then is performed at its line. Deadlines, backoff and the Weir's windows. -/

namespace Sys2Proof.Machine

/-- LOAD (R140). `syms` are the symbols in error that the memory code meets when the line is read from T1 or T2 (R426). -/
def execLoad (c : TxnReq) (syms : SymErr) (s : State) : Host.Outcome State Fault Refusal := .next (request 0x00 c syms s)

/-- LOAD_LINES (R140). -/
def execLoadLines (c : TxnReq) (s : State) : Host.Outcome State Fault Refusal := .next (request 0x01 c {} s)

/-- STORE (R140). -/
def execStore (c : TxnReq) (s : State) : Host.Outcome State Fault Refusal := .next (request 0x10 c {} s)

/-- STORE_MASKED (R140). -/
def execStoreMasked (c : TxnReq) (s : State) : Host.Outcome State Fault Refusal := .next (request 0x11 c {} s)

/-- STORE_LINES (R140). -/
def execStoreLines (c : TxnReq) (s : State) : Host.Outcome State Fault Refusal := .next (request 0x12 c {} s)

/-- STORE_FLAG (R143). -/
def execStoreFlag (c : TxnReq) (s : State) : Host.Outcome State Fault Refusal := .next (request 0x13 c {} s)

/-- ATOMIC ADD (R130, R150). -/
def execAtomicAdd (c : TxnReq) (s : State) : Host.Outcome State Fault Refusal := .next (request 0x20 c {} s)

/-- ATOMIC FADD (R130, R131). -/
def execAtomicFadd (c : TxnReq) (s : State) : Host.Outcome State Fault Refusal := .next (request 0x21 c {} s)

/-- ATOMIC AND (R130, R150). -/
def execAtomicAnd (c : TxnReq) (s : State) : Host.Outcome State Fault Refusal := .next (request 0x22 c {} s)

/-- ATOMIC OR (R130, R150). -/
def execAtomicOr (c : TxnReq) (s : State) : Host.Outcome State Fault Refusal := .next (request 0x23 c {} s)

/-- ATOMIC XOR (R130, R150). -/
def execAtomicXor (c : TxnReq) (s : State) : Host.Outcome State Fault Refusal := .next (request 0x24 c {} s)

/-- ATOMIC SMIN (R130, R150). -/
def execAtomicSmin (c : TxnReq) (s : State) : Host.Outcome State Fault Refusal := .next (request 0x25 c {} s)

/-- ATOMIC SMAX (R130, R150). -/
def execAtomicSmax (c : TxnReq) (s : State) : Host.Outcome State Fault Refusal := .next (request 0x26 c {} s)

/-- ATOMIC UMIN (R130, R150). -/
def execAtomicUmin (c : TxnReq) (s : State) : Host.Outcome State Fault Refusal := .next (request 0x27 c {} s)

/-- ATOMIC UMAX (R130, R150). -/
def execAtomicUmax (c : TxnReq) (s : State) : Host.Outcome State Fault Refusal := .next (request 0x28 c {} s)

/-- ATOMIC SWAP (R130, R152). -/
def execAtomicSwap (c : TxnReq) (s : State) : Host.Outcome State Fault Refusal := .next (request 0x29 c {} s)

/-- ATOMIC CAS (R130, R131). -/
def execAtomicCas (c : TxnReq) (s : State) : Host.Outcome State Fault Refusal := .next (request 0x2A c {} s)

/-- PUBLISH (R154, R155). -/
def execPublish (c : TxnReq) (s : State) : Host.Outcome State Fault Refusal := .next (request 0x40 c {} s)

/-- MSG_APPEND (R156, R157). -/
def execMsgAppend (c : TxnReq) (s : State) : Host.Outcome State Fault Refusal := .next (request 0x70 c {} s)

/-- MSG_TAKE (R156, R157). -/
def execMsgTake (c : TxnReq) (s : State) : Host.Outcome State Fault Refusal := .next (request 0x71 c {} s)

/-- COMBINE_DRAIN_TIMER (R151): 256 beats have passed since the entry opened. -/
def execCombineDrainTimer (line : Nat) (s : State) : Host.Outcome State Fault Refusal :=
  .next (if combOpen s line && elapsed s (comb s line).at_ (beatsNs s (lineBay line) 256) then pump (drainComb line s) else s)

/-- HOME_DEADLINE (R161): an admitted request of a node, not yet performed, whose deadline has passed. A write that still waits for its forwards or deltas is not performed (R411, R412). -/
def execHomeDeadline (node tag : Nat) (s : State) : Host.Outcome State Fault Refusal :=
  .next (match s.home.waitq.find? fun x => x.src = .agent node && x.tag = tag with
    | some it => if elapsed s it.admitted (itemDeadline s it) then itemDead it s else s
    | none => s)

/-- REQUEST_DEADLINE (R160): a request of the YM9's own whose deadline has passed. -/
def execRequestDeadline (node tag : Nat) (s : State) : Host.Outcome State Fault Refusal :=
  .next (match (ctx s node).own.find? fun o => o.tag = tag with
    | some o => if !o.backoff && !o.queued && elapsed s o.sentAt (ownDeadline s o) then ownDead node tag s else s
    | none => s)

/-- RETRY_BACKOFF (R138): the wait after a RETRY is over and the request is sent again with its TAG. -/
def execRetryBackoff (node tag : Nat) (s : State) : Host.Outcome State Fault Refusal :=
  .next (match (ctx s node).own.find? fun o => o.tag = tag && o.backoff with
    | some o =>
      sendRec node o.rcd (match o.rcd with | .req _ _ st _ _ _ _ => st | _ => false) false
        (setCtx node (fun c => { c with own := c.own.map fun x =>
          if x.tag = tag then { x with backoff := false, sentAt := now s } else x }) s)
    | none => s)

/-- A load level: fifteen times a fraction, rounded down, at most 14 (R137). -/
def levelOf (num den : Nat) : Nat := if den = 0 then 0 else min 14 (15 * num / den)

/-- WEIR_WINDOW (R133, R137): a window closes; the operands are the in-service link capacity of each plane and how much of it was used for sending. -/
def execWeirWindow (busyA capA busyB capB : Nat) (s : State) : Host.Outcome State Fault Refusal :=
  .next (
    let len := now s - s.kt.weirAt
    if (s.pwr.pstate = .inService || s.pwr.pstate = .furlEntry) && elapsed s s.kt.weirAt (cfg s 0x050000 7 0 * 1000) then
      let s1 := s.onKt fun k => { k with
        lvlPlaneA := levelOf busyA capA, lvlPlaneB := levelOf busyB capB,
        lvlSlice := (List.range 16).foldl (fun m b => kput 0 m b (levelOf (kget 0 k.waitInt b) (len * 4096))) [],
        windowed := true, weirAt := now s, waitInt := [] }
      s1.kt.ctxs.foldl (fun s p => setCtx p.1 (fun c => { c with secSent := false }) s) s1
    else s)

end Sys2Proof.Machine
end

