-- ==== Sys2Proof/Machine/Dispatch.lean ====
section
/-! DEFINITION. One arm for each command: its meaning. -/

namespace Sys2Proof.Machine

def exec (i : Instr) (s : State) : Host.Outcome State Fault Refusal :=
  match i with
  | .powerGoodRise b => Sys2Proof.Machine.execPowerGoodRise b s
  | .powerGoodFall => Sys2Proof.Machine.execPowerGoodFall s
  | .resetNRise lowNs b => Sys2Proof.Machine.execResetNRise lowNs b s
  | .resetNFall => Sys2Proof.Machine.execResetNFall s
  | .enterService => Sys2Proof.Machine.execEnterService s
  | .startHalt => Sys2Proof.Machine.execStartHalt s
  | .thermalTrip => Sys2Proof.Machine.execThermalTrip s
  | .pllLockLoss idx => Sys2Proof.Machine.execPllLockLoss idx s
  | .islandRelock idx ok => Sys2Proof.Machine.execIslandRelock idx ok s
  | .islandLockTimeout idx => Sys2Proof.Machine.execIslandLockTimeout idx s
  | .rateStepPauseEnd idx => Sys2Proof.Machine.execRateStepPauseEnd idx s
  | .bayBeatWindow b rate beats => Sys2Proof.Machine.execBayBeatWindow b rate beats s
  | .timestampCompare drift => Sys2Proof.Machine.execTimestampCompare drift s
  | .railSetWrite c => Sys2Proof.Machine.execRailSetWrite c s
  | .powerSample r => Sys2Proof.Machine.execPowerSample r s
  | .avsReadTimeout rail sinceNs => Sys2Proof.Machine.execAvsReadTimeout rail sinceNs s
  | .decayEpoch => Sys2Proof.Machine.execDecayEpoch s
  | .heatSweep => Sys2Proof.Machine.execHeatSweep s
  | .sluiceMoveStart q => Sys2Proof.Machine.execSluiceMoveStart q s
  | .sluiceDemoteTrigger t => Sys2Proof.Machine.execSluiceDemoteTrigger t s
  | .moveSwitch page => Sys2Proof.Machine.execMoveSwitch page s
  | .pageMapLineFill group uncorrectable => Sys2Proof.Machine.execPageMapLineFill group uncorrectable s
  | .t3ReadDone r => Sys2Proof.Machine.execT3ReadDone r s
  | .millpondGcStart q => Sys2Proof.Machine.execMillpondGcStart q s
  | .millpondBlockErase q blk => Sys2Proof.Machine.execMillpondBlockErase q blk s
  | .millpondProgramDone q blk ok => Sys2Proof.Machine.execMillpondProgramDone q blk ok s
  | .millpondScanDone q => Sys2Proof.Machine.execMillpondScanDone q s
  | .ktFrameRx f => Sys2Proof.Machine.execKtFrameRx f s
  | .ack a => Sys2Proof.Machine.execAck a s
  | .nack node ack nextHeld => Sys2Proof.Machine.execNack node ack nextHeld s
  | .probe node plane token txTs => Sys2Proof.Machine.execProbe node plane token txTs s
  | .probeReply node plane token txTs => Sys2Proof.Machine.execProbeReply node plane token txTs s
  | .ackTimer node => Sys2Proof.Machine.execAckTimer node s
  | .rtoExpiry node => Sys2Proof.Machine.execRtoExpiry node s
  | .probeTimer node => Sys2Proof.Machine.execProbeTimer node s
  | .linkDown link => Sys2Proof.Machine.execLinkDown link s
  | .linkReformDone link ok => Sys2Proof.Machine.execLinkReformDone link ok s
  | .portModeWrite c => Sys2Proof.Machine.execPortModeWrite c s
  | .sessionOpen r => Sys2Proof.Machine.execSessionOpen r s
  | .sessionOpenDone node => Sys2Proof.Machine.execSessionOpenDone node s
  | .sessionAccept r => Sys2Proof.Machine.execSessionAccept r s
  | .sessionOpenResend node => Sys2Proof.Machine.execSessionOpenResend node s
  | .sessionClose node reason => Sys2Proof.Machine.execSessionClose node reason s
  | .sessionIdleClose node => Sys2Proof.Machine.execSessionIdleClose node s
  | .cacherFlushTimeout node => Sys2Proof.Machine.execCacherFlushTimeout node s
  | .saRekey node sc => Sys2Proof.Machine.execSaRekey node sc s
  | .load c syms => Sys2Proof.Machine.execLoad c syms s
  | .loadLines c => Sys2Proof.Machine.execLoadLines c s
  | .store c => Sys2Proof.Machine.execStore c s
  | .storeMasked c => Sys2Proof.Machine.execStoreMasked c s
  | .storeLines c => Sys2Proof.Machine.execStoreLines c s
  | .storeFlag c => Sys2Proof.Machine.execStoreFlag c s
  | .atomicAdd c => Sys2Proof.Machine.execAtomicAdd c s
  | .atomicFadd c => Sys2Proof.Machine.execAtomicFadd c s
  | .atomicAnd c => Sys2Proof.Machine.execAtomicAnd c s
  | .atomicOr c => Sys2Proof.Machine.execAtomicOr c s
  | .atomicXor c => Sys2Proof.Machine.execAtomicXor c s
  | .atomicSmin c => Sys2Proof.Machine.execAtomicSmin c s
  | .atomicSmax c => Sys2Proof.Machine.execAtomicSmax c s
  | .atomicUmin c => Sys2Proof.Machine.execAtomicUmin c s
  | .atomicUmax c => Sys2Proof.Machine.execAtomicUmax c s
  | .atomicSwap c => Sys2Proof.Machine.execAtomicSwap c s
  | .atomicCas c => Sys2Proof.Machine.execAtomicCas c s
  | .publish c => Sys2Proof.Machine.execPublish c s
  | .msgAppend c => Sys2Proof.Machine.execMsgAppend c s
  | .msgTake c => Sys2Proof.Machine.execMsgTake c s
  | .combineDrainTimer line => Sys2Proof.Machine.execCombineDrainTimer line s
  | .homeDeadline node tag => Sys2Proof.Machine.execHomeDeadline node tag s
  | .requestDeadline node tag => Sys2Proof.Machine.execRequestDeadline node tag s
  | .retryBackoff node tag => Sys2Proof.Machine.execRetryBackoff node tag s
  | .weirWindow busyA capA busyB capB => Sys2Proof.Machine.execWeirWindow busyA capA busyB capB s
  | .rdShared c => Sys2Proof.Machine.execRdShared c s
  | .rdOwn c => Sys2Proof.Machine.execRdOwn c s
  | .upgrade c => Sys2Proof.Machine.execUpgrade c s
  | .wbDirty c => Sys2Proof.Machine.execWbDirty c s
  | .evictClean c => Sys2Proof.Machine.execEvictClean c s
  | .grantAck c => Sys2Proof.Machine.execGrantAck c s
  | .snpInvResponse r => Sys2Proof.Machine.execSnpInvResponse r s
  | .snpDownResponse r => Sys2Proof.Machine.execSnpDownResponse r s
  | .snpFlushBayResponse node tag => Sys2Proof.Machine.execSnpFlushBayResponse node tag s
  | .raceInvReturn line => Sys2Proof.Machine.execRaceInvReturn line s
  | .snoopLimitExpiry line => Sys2Proof.Machine.execSnoopLimitExpiry line s
  | .sliceFlushTimeout bay => Sys2Proof.Machine.execSliceFlushTimeout bay s
  | .runStream c => Sys2Proof.Machine.execRunStream c s
  | .abortStream c => Sys2Proof.Machine.execAbortStream c s
  | .queryStream c => Sys2Proof.Machine.execQueryStream c s
  | .streamSchedule => Sys2Proof.Machine.execStreamSchedule s
  | .sliceUsExpiry => Sys2Proof.Machine.execSliceUsExpiry s
  | .operationBoundary => Sys2Proof.Machine.execOperationBoundary s
  | .maxMsExpiry => Sys2Proof.Machine.execMaxMsExpiry s
  | .streamWordFetch idx => Sys2Proof.Machine.execStreamWordFetch idx s
  | .nop => Sys2Proof.Machine.execNop s
  | .halt => Sys2Proof.Machine.execHalt s
  | .li => Sys2Proof.Machine.execLi s
  | .alu => Sys2Proof.Machine.execAlu s
  | .br => Sys2Proof.Machine.execBr s
  | .loop => Sys2Proof.Machine.execLoop s
  | .ld => Sys2Proof.Machine.execLd s
  | .st => Sys2Proof.Machine.execSt s
  | .waitAll => Sys2Proof.Machine.execWaitAll s
  | .waitMulti => Sys2Proof.Machine.execWaitMulti s
  | .tokenSet => Sys2Proof.Machine.execTokenSet s
  | .notifyWord => Sys2Proof.Machine.execNotifyWord s
  | .call => Sys2Proof.Machine.execCall s
  | .mm => Sys2Proof.Machine.execMm s
  | .vecAdd => Sys2Proof.Machine.execVecAdd s
  | .vecSub => Sys2Proof.Machine.execVecSub s
  | .vecMul => Sys2Proof.Machine.execVecMul s
  | .vecFma => Sys2Proof.Machine.execVecFma s
  | .vecMin => Sys2Proof.Machine.execVecMin s
  | .vecMax => Sys2Proof.Machine.execVecMax s
  | .vecCmp => Sys2Proof.Machine.execVecCmp s
  | .vecSel => Sys2Proof.Machine.execVecSel s
  | .vecDiv => Sys2Proof.Machine.execVecDiv s
  | .vecSqrt => Sys2Proof.Machine.execVecSqrt s
  | .vecFunc1 => Sys2Proof.Machine.execVecFunc1 s
  | .vecCvt => Sys2Proof.Machine.execVecCvt s
  | .vecCvtBs => Sys2Proof.Machine.execVecCvtBs s
  | .vecRedRow => Sys2Proof.Machine.execVecRedRow s
  | .vecRedAll => Sys2Proof.Machine.execVecRedAll s
  | .copyIn => Sys2Proof.Machine.execCopyIn s
  | .copyOut => Sys2Proof.Machine.execCopyOut s
  | .copyBay => Sys2Proof.Machine.execCopyBay s
  | .mmComplete => Sys2Proof.Machine.execMmComplete s
  | .vectorComplete => Sys2Proof.Machine.execVectorComplete s
  | .dmaCopyComplete sid num => Sys2Proof.Machine.execDmaCopyComplete sid num s
  | .ldComplete sid num => Sys2Proof.Machine.execLdComplete sid num s
  | .stComplete sid num => Sys2Proof.Machine.execStComplete sid num s
  | .callComplete sid num => Sys2Proof.Machine.execCallComplete sid num s
  | .fill c => Sys2Proof.Machine.execFill c s
  | .copy c => Sys2Proof.Machine.execCopy c s
  | .compare c => Sys2Proof.Machine.execCompare c s
  | .reduce c => Sys2Proof.Machine.execReduce c s
  | .digest c => Sys2Proof.Machine.execDigest c s
  | .ecEncode c => Sys2Proof.Machine.execEcEncode c s
  | .ecCombine c => Sys2Proof.Machine.execEcCombine c s
  | .qnPortionDone inv portion => Sys2Proof.Machine.execQnPortionDone inv portion s
  | .qnContrib c => Sys2Proof.Machine.execQnContrib c s
  | .qnGroupOpen c => Sys2Proof.Machine.execQnGroupOpen c s
  | .qnGroupDone c => Sys2Proof.Machine.execQnGroupDone c s
  | .qnGroupAbandon c => Sys2Proof.Machine.execQnGroupAbandon c s
  | .qnEcdelta c => Sys2Proof.Machine.execQnEcdelta c s
  | .hsLookup c => Sys2Proof.Machine.execHsLookup c s
  | .hsGrad c => Sys2Proof.Machine.execHsGrad c s
  | .hsRowgrad c => Sys2Proof.Machine.execHsRowgrad c s
  | .hsStepOpen c => Sys2Proof.Machine.execHsStepOpen c s
  | .hsStepDone c => Sys2Proof.Machine.execHsStepDone c s
  | .hsStepCloseDone table => Sys2Proof.Machine.execHsStepCloseDone table s
  | .hsStepAbandon c => Sys2Proof.Machine.execHsStepAbandon c s
  | .hsStepEnd c => Sys2Proof.Machine.execHsStepEnd c s
  | .hotRefresh slot => Sys2Proof.Machine.execHotRefresh slot s
  | .blSearch c => Sys2Proof.Machine.execBlSearch c s
  | .blTimeCut node tag => Sys2Proof.Machine.execBlTimeCut node tag s
  | .blInsert c => Sys2Proof.Machine.execBlInsert c s
  | .blDelete c => Sys2Proof.Machine.execBlDelete c s
  | .blMerge c => Sys2Proof.Machine.execBlMerge c s
  | .fsHello c => Sys2Proof.Machine.execFsHello c s
  | .fsOpen c => Sys2Proof.Machine.execFsOpen c s
  | .fsClose c => Sys2Proof.Machine.execFsClose c s
  | .fsIdleExpiry fsid => Sys2Proof.Machine.execFsIdleExpiry fsid s
  | .identity c => Sys2Proof.Machine.execIdentity c s
  | .attest c => Sys2Proof.Machine.execAttest c s
  | .auditRead c => Sys2Proof.Machine.execAuditRead c s
  | .auditHead c => Sys2Proof.Machine.execAuditHead c s
  | .auditAck c => Sys2Proof.Machine.execAuditAck c s
  | .auditEraseDone => Sys2Proof.Machine.execAuditEraseDone s
  | .cwRead c => Sys2Proof.Machine.execCwRead c s
  | .cwWrite c => Sys2Proof.Machine.execCwWrite c s
  | .cwWriteMulti c => Sys2Proof.Machine.execCwWriteMulti c s
  | .scratchWinWrite c => Sys2Proof.Machine.execScratchWinWrite c s
  | .shareWrite c => Sys2Proof.Machine.execShareWrite c s
  | .orderModeWrite c => Sys2Proof.Machine.execOrderModeWrite c s
  | .peerReachWrite c => Sys2Proof.Machine.execPeerReachWrite c s
  | .setSlotWrite c => Sys2Proof.Machine.execSetSlotWrite c s
  | .handover c => Sys2Proof.Machine.execHandover c s
  | .partEnable c => Sys2Proof.Machine.execPartEnable c s
  | .partDisable c => Sys2Proof.Machine.execPartDisable c s
  | .partDisableFinish part => Sys2Proof.Machine.execPartDisableFinish part s
  | .extAssign c => Sys2Proof.Machine.execExtAssign c s
  | .extRelease c => Sys2Proof.Machine.execExtRelease c s
  | .extGrant c => Sys2Proof.Machine.execExtGrant c s
  | .extRevoke c => Sys2Proof.Machine.execExtRevoke c s
  | .grantDrainDone node ext => Sys2Proof.Machine.execGrantDrainDone node ext s
  | .revokeDrainDone ext => Sys2Proof.Machine.execRevokeDrainDone ext s
  | .scrubStart => Sys2Proof.Machine.execScrubStart s
  | .scrubDone ext v => Sys2Proof.Machine.execScrubDone ext v s
  | .extQuery c => Sys2Proof.Machine.execExtQuery c s
  | .partQuery c => Sys2Proof.Machine.execPartQuery c s
  | .quotaSet c => Sys2Proof.Machine.execQuotaSet c s
  | .pagePin c => Sys2Proof.Machine.execPagePin c s
  | .pageQuery c => Sys2Proof.Machine.execPageQuery c s
  | .tierUsage c => Sys2Proof.Machine.execTierUsage c s
  | .qnGroupQuery c => Sys2Proof.Machine.execQnGroupQuery c s
  | .qnAbandonAll c => Sys2Proof.Machine.execQnAbandonAll c s
  | .hsStepQuery c => Sys2Proof.Machine.execHsStepQuery c s
  | .hsStepRelease c => Sys2Proof.Machine.execHsStepRelease c s
  | .hsHotRefresh c => Sys2Proof.Machine.execHsHotRefresh c s
  | .blIndexQuery c => Sys2Proof.Machine.execBlIndexQuery c s
  | .blMergeStop c => Sys2Proof.Machine.execBlMergeStop c s
  | .setDefine c => Sys2Proof.Machine.execSetDefine c s
  | .setQuery c => Sys2Proof.Machine.execSetQuery c s
  | .setRebuild c => Sys2Proof.Machine.execSetRebuild c s
  | .rebuildBatch slot syms => Sys2Proof.Machine.execRebuildBatch slot syms s
  | .setForwardResponse node tag status a => Sys2Proof.Machine.execSetForwardResponse node tag status a s
  | .livenessQuery c => Sys2Proof.Machine.execLivenessQuery c s
  | .liveBoundExpiry node => Sys2Proof.Machine.execLiveBoundExpiry node s
  | .healthQuery c => Sys2Proof.Machine.execHealthQuery c s
  | .healthLogRead c => Sys2Proof.Machine.execHealthLogRead c s
  | .retire c => Sys2Proof.Machine.execRetire c s
  | .fiInject c => Sys2Proof.Machine.execFiInject c s
  | .fiFaultTick inj => Sys2Proof.Machine.execFiFaultTick inj s
  | .fiStop c => Sys2Proof.Machine.execFiStop c s
  | .furl c => Sys2Proof.Machine.execFurl c s
  | .furlEntryStep => Sys2Proof.Machine.execFurlEntryStep s
  | .wake c arrivedNs => Sys2Proof.Machine.execWake c arrivedNs s
  | .wakeAdmissionOpen => Sys2Proof.Machine.execWakeAdmissionOpen s
  | .imgStage c => Sys2Proof.Machine.execImgStage c s
  | .imgWrite c => Sys2Proof.Machine.execImgWrite c s
  | .imgVerifyDone slot => Sys2Proof.Machine.execImgVerifyDone slot s
  | .imgQuery c => Sys2Proof.Machine.execImgQuery c s
  | .imgActivate c => Sys2Proof.Machine.execImgActivate c s
  | .fwFloorBlow => Sys2Proof.Machine.execFwFloorBlow s
  | .strapCommit c => Sys2Proof.Machine.execStrapCommit c s
  | .keyEnroll c => Sys2Proof.Machine.execKeyEnroll c s
  | .keyRevoke c => Sys2Proof.Machine.execKeyRevoke c s
  | .restartPowerUp c b => Sys2Proof.Machine.execRestartPowerUp c b s
  | .restartDevice c b => Sys2Proof.Machine.execRestartDevice c b s
  | .mkScreen c => Sys2Proof.Machine.execMkScreen c s
  | .mkFuseRead c => Sys2Proof.Machine.execMkFuseRead c s
  | .mkReturn c => Sys2Proof.Machine.execMkReturn c s
  | .govWindowClose k unit reading => Sys2Proof.Machine.execGovWindowClose k unit reading s
  | .slowBayWindow => Sys2Proof.Machine.execSlowBayWindow s
  | .bayMapOut => Sys2Proof.Machine.execBayMapOut s
  | .leatParityError e => Sys2Proof.Machine.execLeatParityError e s
  | .sramParityError e => Sys2Proof.Machine.execSramParityError e s
  | .spareRowReplace e bank => Sys2Proof.Machine.execSpareRowReplace e bank s
  | .patrolRead line syms => Sys2Proof.Machine.execPatrolRead line syms s
  | .eventFoldExpiry key => Sys2Proof.Machine.execEventFoldExpiry key s
  | .tokenHeartbeatMissed => Sys2Proof.Machine.execTokenHeartbeatMissed s
  | .tokenTransferDone => Sys2Proof.Machine.execTokenTransferDone s
  | .arbiterFault => Sys2Proof.Machine.execArbiterFault s
  | .staleConfigWrite half gen => Sys2Proof.Machine.execStaleConfigWrite half gen s
  | .weirCopyMismatch => Sys2Proof.Machine.execWeirCopyMismatch s
  | .tapInstructionUpdate t => Sys2Proof.Machine.execTapInstructionUpdate t s
  | .blMergeTimeLimit index => Sys2Proof.Machine.execBlMergeTimeLimit index s

end Sys2Proof.Machine
end

