-- ==== Sys2Proof/Machine/Tick.lean ====
section
/-! DEFINITION. What passes when no command waits: a tick of the 100 MHz management reference (R50; log entry 1), and the Felset records that wait at the command engine (R24). -/

namespace Sys2Proof.Machine

/-- Both timestamp counters advance by 10 ns while their half's management island runs (R50), and each home slice's waiting requests are integrated over the time for the Weir's window (R137). -/
def tick (s : State) : State :=
  let w := islandUp s 60
  let e := islandUp s 61
  if !w && !e then s
  else
    let s1 := s.onPwr fun p => { p with tsWest := if w then p.tsWest + 10 else p.tsWest, tsEast := if e then p.tsEast + 10 else p.tsEast }
    if s.home.waitq.isEmpty then s1
    else s1.onKt fun k => { k with waitInt := (List.range 16).foldl (fun m b => kmod 0 m b (· + 10 * sliceWaiting s b)) k.waitInt }

/-- The row of a Felset record of groups 0x00 to 0x03, by its FOP (Table 13.5). -/
def fsRowLow (fop : Nat) (c : FsCmd) : Option Instr :=
  match fop with
  | 0x0000 => some (.fsHello c)
  | 0x0001 => some (.fsOpen c)
  | 0x0002 => some (.fsClose c)
  | 0x0003 => some (.identity c)
  | 0x0004 => some (.attest c)
  | 0x0005 => some (.auditRead c)
  | 0x0006 => some (.auditHead c)
  | 0x0007 => some (.auditAck c)
  | 0x0100 => some (.cwRead c)
  | 0x0101 => some (.cwWrite c)
  | 0x0102 => some (.cwWriteMulti c)
  | 0x0200 => some (.partEnable c)
  | 0x0201 => some (.partDisable c)
  | 0x0202 => some (.extAssign c)
  | 0x0203 => some (.extRelease c)
  | 0x0204 => some (.extGrant c)
  | 0x0205 => some (.extRevoke c)
  | 0x0206 => some (.extQuery c)
  | 0x0207 => some (.partQuery c)
  | 0x0300 => some (.quotaSet c)
  | 0x0301 => some (.pagePin c)
  | 0x0302 => some (.pageQuery c)
  | 0x0303 => some (.tierUsage c)
  | _ => none

/-- The row of a record of groups 0x04 to 0x09. -/
def fsRowMid (fop : Nat) (c : FsCmd) : Option Instr :=
  match fop with
  | 0x0400 => some (.runStream c)
  | 0x0401 => some (.abortStream c)
  | 0x0402 => some (.queryStream c)
  | 0x0500 => some (.qnGroupQuery c)
  | 0x0501 => some (.qnAbandonAll c)
  | 0x0600 => some (.hsStepQuery c)
  | 0x0601 => some (.hsStepRelease c)
  | 0x0602 => some (.hsHotRefresh c)
  | 0x0700 => some (.blIndexQuery c)
  | 0x0701 => some (.blMergeStop c)
  | 0x0800 => some (.setDefine c)
  | 0x0801 => some (.setQuery c)
  | 0x0802 => some (.setRebuild c)
  | 0x0803 => some (.livenessQuery c)
  | 0x0900 => some (.healthQuery c)
  | 0x0901 => some (.healthLogRead c)
  | 0x0902 => some (.retire c)
  | 0x0903 => some (.fiInject c)
  | 0x0904 => some (.fiStop c)
  | _ => none

/-- The row of a record of the other groups; a WAKE that waited has opened no later wake, and a RESTART meets the board as it was. -/
def fsRowHigh (fop : Nat) (c : FsCmd) (s : State) : Option Instr :=
  match fop with
  | 0x0A00 => some (.furl c)
  | 0x0A01 => some (.wake c (now s))
  | 0x0B00 => some (.imgStage c)
  | 0x0B01 => some (.imgQuery c)
  | 0x0B02 => some (.imgActivate c)
  | 0x0B03 => some (.strapCommit c)
  | 0x0B04 => some (.keyEnroll c)
  | 0x0B05 => some (.keyRevoke c)
  | 0x0B06 => some (if prm c 0 1 = 0 then .restartPowerUp c s.pwr.board else .restartDevice c s.pwr.board)
  | 0x0B07 => some (.imgWrite c)
  | 0x0F00 => some (.mkScreen c)
  | 0x0F01 => some (.mkFuseRead c)
  | 0x0F02 => some (.mkReturn c)
  | _ => none

/-- The row of a Felset record by its FOP; none where the FOP is not assigned. -/
def fsRow (fop : Nat) (c : FsCmd) (s : State) : Option Instr :=
  (fsRowLow fop c).or ((fsRowMid fop c).or (fsRowHigh fop c s))

/-- The record that the command engine takes up when no command waits: the one in execution that waits for a line, else the first of those behind it (R24). -/
def nextRecord (s : State) : Option (Nat × FsCmd × State) :=
  match s.sec.hold with
  | some h => some (h.fop, h.cmd, s.onSec fun x => { x with hold := none, going := some h.since })
  | none => match s.sec.waiting with
    | (fop, c) :: r => some (fop, c, s.onSec fun x => { x with waiting := r, going := some (now s) })
    | [] => none

end Sys2Proof.Machine
end

