-- ==== Sys2Proof/Machine/Step.lean ====
section
/-! DEFINITION. One step of the block: the command at the front of the queue, or a tick of the management reference when none waits. -/

namespace Sys2Proof.Machine

/-- What passes when no command waits: one tick, and the next record at the command engine (R24; log entry 1). -/
def idle (s : State) : Host.Outcome State Fault Refusal :=
  match nextRecord s with
  | none => .next s
  | some (fop, c, s1) => match fsRow fop c s1 with
    | some i => exec i s1
    | none => .next (unknownFop fop c s1)

/-- With no command waiting the block idles (log entry 1). -/
def step (s : State) : Host.Outcome State Fault Refusal :=
  match s.pending with
  | [] => idle (tick s)
  | c :: cs => exec c { s with pending := cs }

/-- The state with the command that a table word spells put in front; the table gives no row any bits, so no word spells one. -/
def State.withFetchWord (s : State) (nbits w : Nat) : State :=
  match decodeTableWord nbits w with
  | some c => { s with pending := c :: s.pending }
  | none => s

end Sys2Proof.Machine
end

