-- ==== Sys2Proof/WellFormed.lean ====
section
/-! DEFINITION. Well-formed commands: every operand within the width of the field, or the number of units, that the spec gives it (Tables 1.7, 4.1, 5.1 and 13.1). Meanings do not assume it: a record that breaks a rule of its opcode is answered as the spec says. -/

namespace Sys2Proof

/-- Below `2 ^ n`. -/
def fits (n x : Nat) : Bool := decide (x < 2 ^ n)

/-- A node ID (R105). -/
def nodeOk (n : Nat) : Bool := fits 16 n

/-- A request record (Table 5.1): its fields fit, and its bytes are those LEN can count. -/
def TxnReq.wf (c : TxnReq) : Bool :=
  nodeOk c.node && fits 8 c.len && fits 32 c.tag && decide (c.payload.length + 16 ≤ 64 * 255)

/-- A Felset command record (Table 13.1). -/
def FsCmd.wf (c : FsCmd) : Bool :=
  nodeOk c.node && fits 8 c.len && fits 16 c.plen && decide (c.tag.length = 16) && decide (c.params.length ≤ 2008)

/-- Eight DDR5 channels, 16 NAND channels, 64 islands. -/
def Board.wf (b : Board) : Bool :=
  decide (b.dimms.length ≤ 8) && decide (b.nand.length ≤ 16) && b.failedIslands.all fun i => decide (i < 64)

/-- Thirteen rails, four core rails, four quarters (Tables 2.3 and 18.4). -/
def RailReadings.wf (r : RailReadings) : Bool :=
  decide (r.currents.length = 13) && decide (r.senseMv.length = 4) && decide (r.temps.length = 4)

def DemoteCause.wf : DemoteCause → Bool
  | .t1 b => decide (b < 16)
  | .t2 => true
  | .quota p t => decide (p < 32) && decide (1 ≤ t) && decide (t ≤ 3)

/-- A page, a line and an extent of a 50-bit local offset (R54). -/
def pageOk (p : Nat) : Bool := fits 34 p
def lineOk (l : Nat) : Bool := fits 44 l
def extOk (e : Nat) : Bool := fits 22 e

/-- A NAND read (R93): a 4 KiB codec block of a page, and at most 5 retry levels. -/
def NandRead.wf (r : NandRead) : Bool := pageOk r.page && decide (r.block < 16) && decide (r.retries ≤ 5)

/-- A record of a received frame: opcode, length byte, TAG, flags and address (Table 5.1). -/
def RxRec.wf (r : RxRec) : Bool :=
  fits 8 r.opcode && fits 8 r.len && fits 32 r.tag && fits 8 r.flags && fits 64 r.addr
  && (match r.fs with | some (fop, c) => fits 16 fop && c.wf | none => true)

/-- A C-tag or S-tag. -/
def VlanTag.wf (t : VlanTag) : Bool := fits 16 t.tpid && decide (t.pcp < 8) && fits 12 t.vid

/-- The IPv6 and UDP fields of a routed packet (Table 4.11). -/
def RxRoute.wf (r : RxRoute) : Bool := fits 128 r.srcIp && fits 8 r.next && fits 16 r.port

/-- A frame (R114, R123): its fields fit Tables 4.8 and 4.11. -/
def RxFrame.wf (f : RxFrame) : Bool :=
  decide (f.link < 32) && fits 48 f.srcMac && f.tag.all VlanTag.wf && fits 16 f.etype && f.route.all RxRoute.wf
  && decide (f.an < 4) && fits 64 f.pn && fits 16 f.length && nodeOk f.srcNode && nodeOk f.dstNode
  && fits 8 f.recCount && fits 16 f.rwnd && f.recs.all RxRec.wf

def AckRec.wf (a : AckRec) : Bool := nodeOk a.node && fits 16 a.rwnd && decide (a.sacks.length ≤ 4)

def SessRec.wf (r : SessRec) : Bool :=
  nodeOk r.node && decide (r.plane < 2) && decide (r.nonce.length = 32) && decide (r.ehalf.length = 384)

def SnpResp.wf (r : SnpResp) : Bool := nodeOk r.node && fits 32 r.tag && decide (r.data.length ≤ 64)

def ScrubVerdict.wf (v : ScrubVerdict) : Bool := v.badPages.all fun p => pageOk p

def LeatError.wf (e : LeatError) : Bool := decide (1 ≤ e.failures) && decide (e.failures ≤ 4)
def SramError.wf (e : SramError) : Bool := decide (1 ≤ e.failures) && decide (e.failures ≤ 4)

def TapUpdate.wf : TapUpdate → Bool
  | .other code => fits 8 code
  | _ => true

/-- Every operand of a command lies within what the spec numbers. -/
def Instr.wf : Instr → Bool
  | .powerGoodRise b => b.wf
  | .powerGoodFall => true
  | .resetNRise _ b => b.wf
  | .resetNFall | .enterService | .startHalt | .thermalTrip => true
  | .pllLockLoss i | .islandRelock i _ | .islandLockTimeout i | .rateStepPauseEnd i => decide (i < 64)
  | .bayBeatWindow b _ _ => decide (b < 16)
  | .timestampCompare _ => true
  | .railSetWrite c => c.wf
  | .powerSample r => r.wf
  | .avsReadTimeout r _ => decide (r < 13)
  | .decayEpoch | .heatSweep => true
  | .sluiceMoveStart q => decide (q < 4)
  | .sluiceDemoteTrigger t => t.wf
  | .moveSwitch p => pageOk p
  | .pageMapLineFill g _ => fits 31 g
  | .t3ReadDone r => r.wf
  | .millpondGcStart q | .millpondScanDone q => decide (q < 4)
  | .millpondBlockErase q _ | .millpondProgramDone q _ _ => decide (q < 4)
  | .ktFrameRx f => f.wf
  | .ack a => a.wf
  | .nack n a b => nodeOk n && fits 32 a && fits 32 b
  | .probe n p _ _ | .probeReply n p _ _ => nodeOk n && decide (p < 2)
  | .ackTimer n | .rtoExpiry n | .probeTimer n => nodeOk n
  | .linkDown l | .linkReformDone l _ => decide (l < 32)
  | .portModeWrite c => c.wf
  | .sessionOpen r | .sessionAccept r => r.wf
  | .sessionOpenDone n | .sessionOpenResend n | .sessionIdleClose n | .cacherFlushTimeout n => nodeOk n
  | .sessionClose n r => nodeOk n && fits 8 r
  | .saRekey n sc => nodeOk n && decide (sc.chan < 4)
  | .load c _ | .loadLines c | .store c | .storeMasked c | .storeLines c | .storeFlag c | .atomicAdd c | .atomicFadd c
  | .atomicAnd c | .atomicOr c | .atomicXor c | .atomicSmin c | .atomicSmax c | .atomicUmin c | .atomicUmax c
  | .atomicSwap c | .atomicCas c | .publish c | .msgAppend c | .msgTake c => c.wf
  | .combineDrainTimer l => lineOk l
  | .homeDeadline n t | .requestDeadline n t | .retryBackoff n t => nodeOk n && fits 32 t
  | .weirWindow a b c d => decide (a ≤ b) && decide (c ≤ d)
  | .rdShared c | .rdOwn c | .upgrade c | .wbDirty c | .evictClean c | .grantAck c => c.wf
  | .snpInvResponse r | .snpDownResponse r => r.wf
  | .snpFlushBayResponse n t => nodeOk n && fits 32 t
  | .raceInvReturn l | .snoopLimitExpiry l => lineOk l
  | .sliceFlushTimeout b => decide (b < 16)
  | .runStream c | .abortStream c | .queryStream c => c.wf
  | .streamSchedule | .sliceUsExpiry | .operationBoundary | .maxMsExpiry => true
  | .streamWordFetch i => fits 24 i
  | .nop | .halt | .li | .alu | .br | .loop | .ld | .st | .waitAll | .waitMulti | .tokenSet | .notifyWord | .call | .mm
  | .vecAdd | .vecSub | .vecMul | .vecFma | .vecMin | .vecMax | .vecCmp | .vecSel | .vecDiv | .vecSqrt | .vecFunc1
  | .vecCvt | .vecCvtBs | .vecRedRow | .vecRedAll | .copyIn | .copyOut | .copyBay | .mmComplete | .vectorComplete => true
  | .dmaCopyComplete i _ | .ldComplete i _ | .stComplete i _ | .callComplete i _ => fits 32 i
  | .fill c | .copy c | .compare c | .reduce c | .digest c | .ecEncode c | .ecCombine c => c.wf
  | .qnPortionDone _ _ => true
  | .qnContrib c | .qnGroupOpen c | .qnGroupDone c | .qnGroupAbandon c | .qnEcdelta c | .hsLookup c | .hsGrad c
  | .hsRowgrad c | .hsStepOpen c | .hsStepDone c | .hsStepAbandon c | .hsStepEnd c => c.wf
  | .hsStepCloseDone t => fits 50 t
  | .hotRefresh s => decide (s < 16)
  | .blSearch c | .blInsert c | .blDelete c | .blMerge c => c.wf
  | .blTimeCut n t => nodeOk n && fits 32 t
  | .fsHello c | .fsOpen c | .fsClose c | .identity c | .attest c | .auditRead c | .auditHead c | .auditAck c
  | .cwRead c | .cwWrite c | .cwWriteMulti c | .scratchWinWrite c | .shareWrite c | .orderModeWrite c
  | .peerReachWrite c | .setSlotWrite c | .handover c | .partEnable c | .partDisable c | .extAssign c | .extRelease c
  | .extGrant c | .extRevoke c | .extQuery c | .partQuery c | .quotaSet c | .pagePin c | .pageQuery c | .tierUsage c
  | .qnGroupQuery c | .qnAbandonAll c | .hsStepQuery c | .hsStepRelease c | .hsHotRefresh c | .blIndexQuery c
  | .blMergeStop c | .setDefine c | .setQuery c | .setRebuild c | .livenessQuery c | .healthQuery c | .healthLogRead c
  | .retire c | .fiInject c | .fiStop c | .furl c | .imgStage c | .imgWrite c | .imgQuery c | .imgActivate c
  | .strapCommit c | .keyEnroll c | .keyRevoke c | .mkScreen c | .mkFuseRead c | .mkReturn c => c.wf
  | .wake c _ => c.wf
  | .restartPowerUp c b | .restartDevice c b => c.wf && b.wf
  | .fsIdleExpiry f => fits 32 f
  | .auditEraseDone => true
  | .partDisableFinish p => decide (p < 32)
  | .grantDrainDone n e => nodeOk n && extOk e
  | .revokeDrainDone e => extOk e
  | .scrubStart => true
  | .scrubDone e v => extOk e && v.wf
  | .rebuildBatch s _ => decide (s < 16)
  | .setForwardResponse n t code a => nodeOk n && fits 8 a.op && fits 32 t && fits 8 code && fits 4 a.level
  | .liveBoundExpiry n => nodeOk n
  | .fiFaultTick i => fits 32 i
  | .furlEntryStep | .wakeAdmissionOpen | .fwFloorBlow => true
  | .imgVerifyDone s => decide (s < 2)
  | .govWindowClose k u r => fits 24 u && (decide (r = 0) || ((k = .fecSymbols || k = .fecCodewords) && fits 48 r))
  | .slowBayWindow | .bayMapOut => true
  | .leatParityError e => e.wf
  | .sramParityError e => e.wf
  | .spareRowReplace e _ => e.wf
  | .patrolRead l _ => lineOk l
  | .eventFoldExpiry _ => true
  | .tokenHeartbeatMissed | .tokenTransferDone | .arbiterFault => true
  | .staleConfigWrite h _ => decide (h < 2)
  | .weirCopyMismatch => true
  | .tapInstructionUpdate t => t.wf
  | .blMergeTimeLimit i => fits 50 i

end Sys2Proof
end

