-- ==== Sys2Proof/Safety.lean ====
section
/-! DEFINITION. The terms in which statements are made: a Felset command that passes the steps before its own effect, and the state its effect leaves once it is answered. -/

namespace Sys2Proof.Machine

/-! ### Felset commands (Table 13.3) -/

/-- The session a command names, as the engine takes it. -/
def fsSe (c : FsCmd) (s : State) : FSession := fsession s c.fsid.toNat

/-- The state in which a command of a session has its effect: the record is taken, and the session's idle time begins again. -/
def fsBefore (c : FsCmd) (s : State) : State :=
  setFsession c.fsid.toNat (fun x => { x with lastUse := now (takeFelset c s) }) (takeFelset c s)

/-- What steps 1, 2 and 5 to 7 of Table 13.3 look at of an opcode: its number, the PLEN its fields define, whether it is audited, and its list in R359. -/
def fsShape (fop plen : Nat) (audited : Bool) (kind : FsKind) : FsOp :=
  { fop := fop, plen := plen, audited := audited, kind := kind, rights := anyRole, body := fun _ s => fsOk s }

/-- The command engine takes a record up at once: none is in execution, and none waits before it (R24). -/
def fsIdle (s : State) : Bool := !fsBusy s && decide (s.sec.waiting.length < 64)

/-- A command passes steps 1 to 7 of Table 13.3: its KT session is there, an engine answers and is idle, the record is well formed, its session is its sender's, its tag and CSEQ are right, nothing makes it wait, its state permits it, and an audited one can be logged. -/
def fsClear (fop plen : Nat) (audited : Bool) (kind : FsKind) (c : FsCmd) (s : State) : Bool :=
  let o := fsShape fop plen audited kind
  let se := fsSe c s
  (ctx s c.node).live && fsAlive s && fsIdle s && c.mgmt && fsForm o c && decide (c.fsid ≠ 0) && se.live && decide (se.node = c.node)
  && decide (c.tag = fsTag se.ck (cmdBytes fop c)) && decide (c.cseq.toNat = (se.lastCseq + 1) % 2 ^ 32)
  && !(s.mach.holder = .transfer && !s.mach.arbFault) && fsPermitted o s
  && (!audited || (auditReady s && !s.mach.arbFault && islandUp s 62))

/-- A command that only opens or queries and names no session (FSID 0) passes the same steps. -/
def fsClear0 (fop plen : Nat) (audited : Bool) (kind : FsKind) (c : FsCmd) (s : State) : Bool :=
  let o := fsShape fop plen audited kind
  (ctx s c.node).live && fsAlive s && fsIdle s && c.mgmt && fsForm o c && decide (c.fsid = 0)
  && !(s.mach.holder = .transfer && !s.mach.arbFault) && fsPermitted o s
  && (!audited || (auditReady s && !s.mach.arbFault && islandUp s 62))

/-- The end of a command that is not answered RETRY: it is counted, logged where it is audited, and answered; its reply becomes its session's. `b` is the state its effect began in, `r` what the effect left. -/
def fsEnd (fop : Nat) (audited : Bool) (c : FsCmd) (se : FSession) (b : State) (r : FsRes) : State :=
  let r1 := { r with st := bump (aFS 0) (r.st.onSec fun x => { x with lastFop := kput 0 x.lastFop (halfInCharge b) fop }) }
  let store := decide (c.fsid ≠ 0)
  if audited then fsAnswer fop c se.ck store (auditLow r1.st) { r1 with st := auditAs fop c se r1.status r1.st }
  else fsAnswer fop c se.ck store noDetail r1

/-- The completion of a Felset command in a session: passing every step before its effect, with the right of its role and its parameters in their rules, it leaves the outcome `r`, and is logged and answered. -/
def FsEffect (i : Instr) (fop plen : Nat) (audited : Bool) (kind : FsKind) (c : FsCmd) (s : State)
    (right params : Bool) (r : FsRes) : Prop :=
  fsClear fop plen audited kind c s = true → right = true → params = true →
    exec i s = .next (fsGone (fsEnd fop audited c (fsSe c s) (fsBefore c s) r))

/-- The completion of a Felset command with FSID 0. -/
def FsEffect0 (i : Instr) (fop plen : Nat) (audited : Bool) (kind : FsKind) (c : FsCmd) (s : State)
    (params : Bool) (r : FsRes) : Prop :=
  fsClear0 fop plen audited kind c s = true → params = true →
    exec i s = .next (fsGone (fsEnd fop audited c {} (takeFelset c s) r))

/-- Reserved bytes of a command's parameters are zero. -/
def zeros (c : FsCmd) (off n : Nat) : Bool := (resZero c off n).2

/-- Lines are ready for an engine. -/
def isReady : EngR → Bool
  | .ready => true
  | _ => false

/-! ### Requests of fabric nodes (Table 5.5) -/

/-- A request passes steps 1 to 7 of Table 5.5: its context, its record, the mode, its form of carriage, its order mark, the Weir, the address, the partition, and for a ring its buffer. -/
def reqClear (op : Nat) (c : TxnReq) (syms : SymErr) (s : State) : Bool :=
  let x := ctx s c.node
  let (it, s1) := arrive op c syms s
  let w := weirAdmit c.node it.part (chargeLines op it.param c.payload) s1
  x.live && !x.bootstrap && (x.closing.isNone || op = 0x53 || op = 0x54) && recordOk op c && takesRequests s1 op
  && !(c.routed && decide (op < 0x70)) && !strictStopped it s1 && w.1
  && decide (c.addr.toNat / 2 ^ 50 = homeIndex w.2)
  && decide (runCheck w.2 it.src it.part it.off (addrSpan op c) (needsWrite op) = sOK)
  && decide ((ringAdmit { it with weir := true } w.2).1 = sOK)

/-- The request as admitted, and the state then: its place in the Weir is taken. -/
def reqIn (op : Nat) (c : TxnReq) (syms : SymErr) (s : State) : Item × State :=
  let (it, s1) := arrive op c syms s
  let w := (weirAdmit c.node it.part (chargeLines op it.param c.payload) s1).2
  ({ it with weir := true, ring := (ringAdmit { it with weir := true } w).2 }, w)

/-- An admitted request goes to the queues: the home slice has room, no limit of its engine is reached, and it neither folds nor is performed on arrival. -/
def goesToQueue (x : Item × State) : Bool :=
  decide (x.1.op ≠ 0x53) && !(x.1.op = 0x54 && sliceSt x.2 (homeBay x.1.off) = .flushing)
  && !(mayFold x.1 x.2 && !strictStopped x.1 x.2) && decide (roomAt x.2 x.1 = (sOK, false))
  && !quernFull x.1 x.2 && !hoistFull x.1 x.2

/-- The state after `n` turns of a waiting request, in each of which it goes as far as it can at once. -/
def turns : Nat → Nat → State → State
  | 0, _, s => s
  | n + 1, id, s => turns n id (((s.home.waitq.find? fun x => x.id = id).bind (tryItem s)).getD s)

/-- The request of a record alone in the queues after `n` turns, and the state then. -/
def atTurn (op : Nat) (c : TxnReq) (syms : SymErr) (s : State) (n : Nat) : Item × State :=
  let x := reqIn op c syms s
  let t := turns n x.1.id (putInQueue x.1 x.2)
  (t.home.waitq.headD x.1, t)

/-- Nothing but its lines keeps a request from being performed: it has no answer yet, no word of it was lost at a boundary, nothing of its pair comes before it, and no injected stall holds it. -/
def itemFree (it : Item) (s : State) : Bool :=
  it.answer.isNone && !it.lost && !it.stalled && !strictStopped it s && !orderWaits it s
  && (!(within it.op 0x60 0x6B) || (takeArmed (stallUnit it s).1 (stallUnit it s).2 [0x60] s).1.isNone)

/-- A record's request is admitted, waits alone in each of its first `n` turns, and is free in the next. -/
def comes (op : Nat) (c : TxnReq) (syms : SymErr) (s : State) (n : Nat) : Bool :=
  let x := reqIn op c syms s
  let one (t : State) : Bool := match t.home.waitq with
    | [y] => decide (y.id = x.1.id) && decide (y.op = op) && decide (y.src = .agent c.node)
      && decide (y.param = c.param.toNat)
    | _ => false
  reqClear op c syms s && goesToQueue x && x.2.home.waitq.isEmpty && decide (n < 4607)
  && ((List.range (n + 1)).all fun m => one (turns m x.1.id (putInQueue x.1 x.2)))
  && itemFree (atTurn op c syms s n).1 (atTurn op c syms s n).2

/-- What follows the turn after the first `n`, which leaves `u`: the home slices go on with what waits, and an invocation that draws an interim response has had it. -/
def onward (op : Nat) (c : TxnReq) (syms : SymErr) (s : State) (n : Nat) (u : State) : Host.Outcome State Fault Refusal :=
  .next (tellInterim (reqIn op c syms s).1.id (afterPump (pumpGo (4607 - n) u)))

/-- A line with no copy in any agent, no open transaction and no write waiting for its forwards. -/
def lineQuiet (line : Nat) (s : State) : Bool := !lineBusy s line && (dirEnt s line).st = .i

/-- A line can be read: its page is usable and its medium ready. -/
def lineOpen (line : Nat) (s : State) : Bool := !pageUnusable s (line / 1024) && lineReadable s line

/-- A line that its home reads without error. -/
def readsGood (line : Nat) (s : State) : Bool := lineReadable s line && !(fetchLine line {} s).1

/-- Lines ready for a request. -/
def isGo : Prep → Bool
  | .ready => true
  | _ => false

/-- No page stops a write. -/
def isOpen : Stop → Bool
  | .go => true
  | _ => false

/-- A write may be performed at its line: its set has no hold or denial, its page takes writes, the line is quiet, and what the write leaves of it is read without error. -/
def writeOpen (it : Item) (line : Nat) (s : State) : Bool :=
  lineQuiet line s && isGo (prepWrite line none s) && !combOpen s line
  && (match setRule s (line * 64) (itemWrite it) with
      | .denied _ | .held => false
      | _ => true)
  && isOpen (pageForWrite (line / 1024) s)
  && !(it.op = 0x10 && controlWaits it s) && !refusedHere it s
  && (coversLine (writeResult it line s).1 line || readsGood line s)

/-- The state in which a write has been read and allocated: the status of the allocation, and the state after. -/
def allocated (it : Item) (line : Nat) (ws : List (Nat × List Byte)) (s : State) : Nat × State :=
  let s0 := if coversLine ws line then s else (fetchLine line {} s).2
  if ws.isEmpty then (0, touchPage (line / 1024) s0) else allocFor it.part ws s0

/-! ### Words of streams (R231-R233) -/

/-- The word at the head of issue of the running stream carries an opcode, keeps the rules of its header, and all that its issue waits for is there. -/
def headIs (op sid : Nat) (w : BitVec 256) (s : State) : Bool :=
  decide (headWord s = some (sid, w)) && decide (wOp w = op) && headerOk w && mayIssue (stream s sid) w

/-- The state in which an issued word has its effect: the word is counted and in its engine, and issue is at the next. -/
def wordIn (sid : Nat) (w : BitVec 256) (s : State) : State :=
  setStream sid (fun t => { takeWait w t with
    issueNext := t.issueNext + 1, pc := t.pc + 1, fetched := kput .no t.fetched t.pc .no,
    issued := t.issued ++ [issuedOf (stream s sid) w] }) (bump (aCORE 10) s)

/-! ### Requests of the near-memory engines (chapters 10 to 12) -/

/-- Lines an engine reads for a request without poison. -/
def readsClean (it : Item) (ls : List Nat) (s : State) : Bool :=
  isReady (engReady (readFor it) ls [] s) && (engAccess (readFor it) ls s).1.isEmpty

/-- What R300 to R304 ask of a lookup whose descriptors have been read. -/
def lookupReady (it : Item) (l : LDesc) (x : Tables) (s : State) : Bool :=
  let dim := composedDim x.t x.p
  let rs := x.regions l.table true false ++ l.lists
    ++ (if bit l.mode 0 then [] else [(l.out, (l.b - 1) * l.ostride + l.rowBytes dim, true)])
  let rows := ((batchRows s x.t x.p l).filter fun r => !rowHeld s r.1).flatMap (·.2)
  let outs := if bit l.mode 0 then [] else
    (List.range l.b).flatMap fun i => linesOf (l.out % 2 ^ 50 + i * l.ostride) (l.rowBytes dim)
  it.flash && decide (3 ≤ it.descs.length) && ldescOk false (it.descs.headD [])
  && x.ok && decide (l.n * ((l.rowBytes dim + 255) / 256) ≤ 1048576) && decide (regionsCheck s it rs = sOK)
  && decide (regionsCheck s { it with src := .call 0 0 } x.others = sOK)
  && isReady (engReady (readFor it) l.listLines.dedup [] s) && offsOk (l.listLines.filter (lineBad s)) s l
  && isReady (engReady (holdWrite it 0x12) rows.dedup outs.dedup s)

/-- The lines of the lists and gradients that HS_GRAD reads. -/
def gradLists (l : LDesc) (dim : Nat) : List Nat :=
  (l.listLines ++ (List.range l.b).flatMap fun i => linesOf (l.out % 2 ^ 50 + i * l.ostride) (l.rowBytes dim)).dedup

/-- The rows that HS_GRAD reads, under elementwise composition. -/
def gradRows (l : LDesc) (x : Tables) (s : State) : List Nat :=
  if x.t.comp = 2 then ((batchRows s x.t x.p l).flatMap (·.2)).dedup else []

/-- What R326 asks of an index whose descriptor can be read. -/
def indexReady (it : Item) (addr : Nat) (s : State) : Bool :=
  let off := addr % 2 ^ 50
  let ls := linesOf off 128
  it.search.isSome && isReady (engReady (readFor it) ls [] s) && !ls.any (lineBad s) && decide (addr % 64 = 0)
  && idescOk (readBytes s off 128)

/-- What R312 asks of a gradient whose descriptor has been read, at a table with a step slot. -/
def gradReady (it : Item) (l : LDesc) (s : State) : Bool :=
  let tab := l.table % 2 ^ 50
  let x := (hstep s tab).tables
  let dim := composedDim x.t x.p
  let rs := x.regions l.table (x.t.comp = 2) true ++ l.lists ++ [(l.out, (l.b - 1) * l.ostride + l.rowBytes dim, false)]
  it.flash && decide (1 ≤ it.descs.length) && ldescOk true (it.descs.headD []) && (hstep s tab).taken
  && decide (l.n * ((l.rowBytes dim + 255) / 256) ≤ 1048576) && decide (regionsCheck s it rs = sOK)
  && decide (stepTag s tab l.step = none) && isReady (engReady (readFor it) (gradLists l dim) [] s)
  && offsOk (l.listLines.filter (lineBad s)) s l && isReady (engReady (holdFor it) (gradRows l x s) [] s)

/-! ### What every step keeps -/

/-- The range and the scratchpad are in canonical form, no statistics counter is above 0xFFFF_FFFF_FFFF (R448), and only well-formed commands wait. -/
structure Canonical (s : State) : Prop where
  mem : Memory.wf s.store.mem = true
  scratch : Memory.wf s.core.scratch = true
  stats : ∀ a, kget 0 s.stats a ≤ statMax
  queue : s.pending.all Instr.wf = true

end Sys2Proof.Machine
end

