-- ==== Sys2Proof/Certificates/Slice0/Obligations.lean ====
section
/-! DEFINITION. The statements for the provers: for every command a state and operands in which it completes and what it then leaves; the rules of single parts; frames; and what every step keeps. Each statement's docstring names the rules it is about; the completion statements hold for every state and operands that meet their hypotheses. -/

open Sys2Proof Sys2Proof.Machine

/-! ### Felset commands (chapters 13 to 17) -/

/-- A record that reaches the command engine while another is in execution there waits behind it, 64 at most (R24). FS_HELLO draws a nonce of 32 bytes for the sender's context and answers it; FS_OPEN, whose keys only Novva can check, leaves what R354 gives for the outcome of its checks; FS_CLOSE forgets the session; IDENTITY and ATTEST answer Tables 14.8 and 14.11. -/
def Obligations.FelsetSessionCommandsComplete : Prop :=
  (∀ c s, fsBusy s = true → s.sec.waiting.length < 64 → (ctx s c.node).live = true → fsAlive s = true →
    exec (.identity c) s = .next ((takeFelset c s).onSec fun x => { x with waiting := x.waiting ++ [(0x0003, c)] }))
  ∧ (∀ c s, FsEffect0 (.fsHello c) 0x0000 0 false .read c s true
    (fsOk (setCtx c.node (fun x => { x with nonce := some ((drbgBytes 32 (takeFelset c s)).1, now (takeFelset c s)) })
      (drbgBytes 32 (takeFelset c s)).2) (drbgBytes 32 (takeFelset c s)).1))
  ∧ (∀ c s, FsEffect0 (.fsOpen c) 0x0001 804 true .read c s
    ((prm c 0 1 < 64 || prm c 0 1 = 0xFF) && within (prm c 1 1) 1 3 && zeros c 2 2) (fsOpenBody c (takeFelset c s)))
  ∧ (∀ c s, FsEffect (.fsClose c) 0x0002 0 true .read c s true true (fsOk (closeFsession c.fsid.toNat (fsBefore c s))))
  ∧ (∀ c s, FsEffect0 (.identity c) 0x0003 0 false .read c s true (fsOk (takeFelset c s) (identityRecord (takeFelset c s))))
  ∧ (∀ c s, FsEffect (.identity c) 0x0003 0 false .read c s true true (fsOk (fsBefore c s) (identityRecord (fsBefore c s))))
  ∧ (∀ c s, FsEffect (.attest c) 0x0004 40 false .read c s true (prm c 32 1 < 32 && zeros c 33 7)
    (fsOk (bump (aSEC 6) (fsBefore c s))
      (attestBody c (fsSe c s) (fsBefore c s) ++ slice (Config.rsaSign (attestBody c (fsSe c s) (fsBefore c s))) 0 384)))

/-- AUDIT_READ answers the entries asked for, AUDIT_HEAD the signed head of the log, AUDIT_ACK sets AUDIT_ACKED. -/
def Obligations.FelsetAuditCommandsComplete : Prop :=
  (∀ c s, FsEffect (.auditRead c) 0x0005 16 false .read c s true
    (s.nor.auditBase ≤ prm c 0 8 && prm c 0 8 < s.nor.auditNext && within (prm c 8 2) 1 15
      && prm c 0 8 + prm c 8 2 ≤ s.nor.auditNext && zeros c 10 6)
    (fsOk (fsBefore c s) ((s.nor.audit.filter fun e => decide (prm c 0 8 ≤ e.idx ∧ e.idx < prm c 0 8 + prm c 8 2)).flatMap
      fun e => auditBytes e ++ slice e.hash 0 32)))
  ∧ (∀ c s, let h := leBytes 8 s.nor.auditNext ++ slice s.nor.lastHash 0 32 ++ leBytes 4 s.nor.boot ++ leBytes 4 0
    FsEffect (.auditHead c) 0x0006 0 false .read c s true true (fsOk (fsBefore c s) (h ++ slice (Config.rsaSign h) 0 384)))
  ∧ (∀ c s, FsEffect (.auditAck c) 0x0007 8 true .service c s ((fsSe c s).role = 2)
    (s.nor.auditAcked ≤ prm c 0 8 && prm c 0 8 ≤ s.nor.auditNext)
    (fsOk ((fsBefore c s).onNor fun n => { n with
      auditAcked := prm c 0 8, auditWarned := n.auditWarned && decide (auditWarnAt s ≤ n.auditNext - prm c 0 8) })))

/-- A write of one of the words that the opcode table names on a row of its own has the effect of the write of that word. -/
def WordWrite (k : FsCmd → Instr) (c : FsCmd) (s : State) (r : Reg) : Prop :=
  regAt (prm c 0 3) = some r →
    FsEffect (k c) 0x0101 24 true .install c s ((cwEnt c 0).right (fsSe c s) (fsBefore c s))
      (((cwEnt c 0).checks 0 c (fsBefore c s) (cwPlaced [cwEnt c 0] (fsBefore c s))).all (·.2) && !(cwEnt c 0).busy (fsBefore c s))
      (fsOk ((cwEnt c 0).commit (fsBefore c s)) (leBytes 8 (cwWord ((cwEnt c 0).commit (fsBefore c s)) (cwEnt c 0).addr)))

/-- CW_READ answers the words asked for; CW_WRITE and CW_WRITE_MULTI commit their entries, where none has to wait. RAIL_SET_WRITE, PORT_MODE_WRITE, SCRATCH_WIN_WRITE, SHARE_WRITE, ORDER_MODE_WRITE, PEER_REACH_WRITE, SET_SLOT_WRITE and HANDOVER commit the write of their word. -/
def Obligations.ControlWordCommandsComplete : Prop :=
(∀ c s, FsEffect (.cwRead c) 0x0100 8 false .read c s true
    ((List.range (prm c 4 2)).all (fun i => (regAt (prm c 0 3 + i)).isSome) && zeros c 3 1 && within (prm c 4 2) 1 64 && zeros c 6 2)
    (fsOk (fsBefore c s) ((List.range (prm c 4 2)).flatMap fun i => leBytes 8 (cwWord (fsBefore c s) (prm c 0 3 + i)))))
  ∧ (∀ c s, FsEffect (.cwWrite c) 0x0101 24 true .install c s ((cwEnt c 0).right (fsSe c s) (fsBefore c s))
    (((cwEnt c 0).checks 0 c (fsBefore c s) (cwPlaced [cwEnt c 0] (fsBefore c s))).all (·.2) && !(cwEnt c 0).busy (fsBefore c s))
    (fsOk ((cwEnt c 0).commit (fsBefore c s)) (leBytes 8 (cwWord ((cwEnt c 0).commit (fsBefore c s)) (cwEnt c 0).addr))))
  ∧ (∀ c s, let offs := (List.range (min (prm c 0 2) 64)).map fun i => 8 + 24 * i
    let es := offs.map (cwEnt c)
    FsEffect (.cwWriteMulti c) 0x0102 (8 + 24 * prm c 0 2) true .install c s (es.all fun e => e.right (fsSe c s) (fsBefore c s))
      (within (prm c 0 2) 1 64 && zeros c 2 6
        && (offs.flatMap fun o => (cwEnt c o).checks o c (fsBefore c s) (cwPlaced es (fsBefore c s))).all (·.2)
        && !es.any (·.busy (fsBefore c s)))
      (fsOk (es.foldl (fun t e => e.commit t) (fsBefore c s))))
  ∧ (∀ c s q, WordWrite .railSetWrite c s (.coreRail q)) ∧ (∀ c s p, WordWrite .portModeWrite c s (.portCfg p))
  ∧ (∀ c s n, WordWrite .scratchWinWrite c s (.scratchWin n)) ∧ (∀ c s n, WordWrite .shareWrite c s (.streamPart n))
  ∧ (∀ c s n, WordWrite .orderModeWrite c s (.orderMode n)) ∧ (∀ c s k, WordWrite .peerReachWrite c s (.peerReach k))
  ∧ (∀ c s i, WordWrite .setSlotWrite c s (.setSlot i)) ∧ (∀ c s, WordWrite .handover c s .fantail)

/-- PART_ENABLE draws a key and counts the key epoch; PART_DISABLE ends the partition's streams and takes its extents; EXT_ASSIGN gives unowned extents to an enabled partition; EXT_RELEASE takes extents; EXT_GRANT replaces a node's rights on a run. -/
def Obligations.PartitionCommandsComplete : Prop :=
  (∀ c s, let n := prm c 0 1; let b := fsBefore c s; let e := ((part s n).keyEpoch + 1) % 2 ^ 32
    FsEffect (.partEnable c) 0x0200 8 true .service c s ((fsSe c s).role = 2)
      (n < 32 && !(part s n).enabled && zeros c 1 7)
      (fsOk (setPart n (fun p => { p with enabled := true, disabling := false, keyEpoch := e, key := (drawKey b).1 }) (drawKey b).2)
        (leBytes 4 e ++ leBytes 4 0)))
  ∧ (∀ c s, let n := prm c 0 1
    FsEffect (.partDisable c) 0x0201 8 true .service c s ((fsSe c s).role = 2)
      (n < 32 && (part s n).enabled && !(part s n).disabling && zeros c 1 7) (fsOk (disablePart n (fsBefore c s))))
  ∧ (∀ c s, let n := prm c 0 1; let es := runOf (prm c 4 4) (prm c 8 4)
    FsEffect (.extAssign c) 0x0202 12 true .service c s ((fsSe c s).role = 2)
      (n < 32 && (part s n).enabled && !(part s n).disabling && zeros c 1 3 && within (prm c 8 4) 1 65536
        && es.all fun e => decide (e < mapExtents s) && decide ((extent s e).xstate = 0))
      (fsOk (es.foldl (fun t e => setExtent e (fun _ => { xstate := 1, part := n }) t) (fsBefore c s))))
  ∧ (∀ c s, let es := runOf (prm c 0 4) (prm c 4 4)
    FsEffect (.extRelease c) 0x0203 8 true .service c s ((fsSe c s).role = 2)
      (within (prm c 4 4) 1 65536 && es.all fun e => (extent s e).xstate = 1) (fsOk (takeExtents es (fsBefore c s))))
  ∧ (∀ c s, let n := prm c 0 2; let es := runOf (prm c 4 4) (prm c 8 4)
    let gs := grantsWith n (prm c 2 1) (prm c 4 4) (prm c 8 4) s
    FsEffect (.extGrant c) 0x0204 12 true .service c s (runRight es (fsSe c s) (fsBefore c s))
      (within (prm c 2 1) 1 3 && zeros c 3 1 && runOwned s es && within (prm c 8 4) 1 65536
        && !(es.any fun e => decide (2 ≤ (extent s e).xstate))
        && !(s.sec.grants.any fun g => g.draining && g.node = n && es.any g.has)
        && gs.length ≤ 65536 && !(es.any fun e => decide (16 < ((gs.filter fun g => g.has e).map (·.node)).dedup.length)))
      (fsOk ((fsBefore c s).onSec fun x => { x with grants := gs })))

/-- What EXT_REVOKE does to one grant entry: the parts of it on the run's owned extents drain, and keep the audit index of the command. -/
def revokedEntry (c : FsCmd) (s : State) (g : Grant) : List Grant :=
  let first := prm c 4 4
  let closes (e : Nat) : Bool := decide (first ≤ e ∧ e < first + prm c 8 4) && (extent s e).xstate = 1
  if g.draining || !(g.node = prm c 0 2 || prm c 0 2 = 0xFFFF) then [g]
  else g.part (fun e => !closes e) ++ (g.part closes).map fun x => { x with draining := true, drain := s.nor.auditNext }

/-- EXT_REVOKE closes the node's entries, or every grantee's, on the run; EXT_QUERY answers the extent's owner (a free value where it has none), state and grants; PART_QUERY the partition's state. -/
def Obligations.RevokeAndPartitionQueriesComplete : Prop :=
  (∀ c s, let es := runOf (prm c 4 4) (prm c 8 4)
    FsEffect (.extRevoke c) 0x0205 12 true .service c s (runRight es (fsSe c s) (fsBefore c s))
      (zeros c 2 2 && runOwned s es && within (prm c 8 4) 1 65536)
      (fsOk (pump ((fsBefore c s).onSec fun x => { x with grants := x.grants.flatMap (revokedEntry c s) }))))
  ∧ (∀ c s, let e := prm c 0 4; let x := extent s e; let b := fsBefore c s
    let p := if x.xstate = 0 || x.failed then (freeVal b).1.toNat % 256 else x.part
    let gs := (grantsAt s e).take 16
    FsEffect (.extQuery c) 0x0206 8 false .service c s (starRight (fun t => [extOwner t e]) (fsSe c s) b)
      (e < mapExtents s && zeros c 4 4)
      (fsOk (freeVal b).2 (leBytes 1 p ++ leBytes 1 x.xstate ++ leBytes 2 gs.length ++ leBytes 4 0
          ++ gs.flatMap fun g => leBytes 2 g.node ++ leBytes 1 g.rights ++ leBytes 1 0)))
  ∧ (∀ c s, let n := prm c 0 1
    FsEffect (.partQuery c) 0x0207 8 false .service c s (starRight (fun _ => [some n]) (fsSe c s) (fsBefore c s))
      (n < 32 && zeros c 1 7)
      (fsOk (fsBefore c s) (leBytes 1 (b2n (part s n).enabled) ++ leBytes 3 0 ++ leBytes 4 (part s n).keyEpoch
        ++ leBytes 4 (extentsOf s n) ++ leBytes 4 0)))

/-- QUOTA_SET sets a quota and answers its word; PAGE_PIN sets PIN of the written pages of a run where it differs; PAGE_QUERY reads a page-map entry through the map's cache and answers it with its heat brought up to date; TIER_USAGE the three quota words. -/
def Obligations.PageCommandsComplete : Prop :=
  (∀ c s, let a := tierWord (prm c 0 1) (prm c 1 1); let t := cwSetField a 63 34 (prm c 8 8) (fsBefore c s)
    FsEffect (.quotaSet c) 0x0300 16 true .service c s ((fsSe c s).role = 2)
      (prm c 0 1 < 32 && within (prm c 1 1) 1 3 && zeros c 2 6 && prm c 8 8 < 2 ^ 30) (fsOk t (leBytes 8 (cwWord t a))))
  ∧ (∀ c s, let a := prm c 0 8; let p := a % 2 ^ 50 / 65536; let n := prm c 8 2; let pin := decide (prm c 10 1 = 1)
    let ps := ((List.range n).map fun i => p + i).filter fun p =>
      pageValid (page s p) && !pageUnusable s p && decide ((page s p).pin ≠ pin)
    FsEffect (.pagePin c) 0x0301 16 true .service c s (starRight (fun t => [addrOwner t a]) (fsSe c s) (fsBefore c s))
      (hereAligned s a 65536 && within n 1 4096 && decide ((p + n - 1) / 4096 = p / 4096) && prm c 10 1 ≤ 1 && zeros c 11 5)
      (fsOk (ps.foldl (fun t p => editPage p (fun e => { e with pin := pin }) t) (fsBefore c s))
        (leBytes 4 ps.length ++ leBytes 4 0)))
  ∧ (∀ c s, let a := prm c 0 8; let p := a % 2 ^ 50 / 65536; let b := fsBefore c s
    let t := if pageValid (page s p) then
        editPage p (fun e => if pageValid e then { e with heat := heatNow b.store.epoch e, epoch := b.store.epoch } else e) b
      else mapTouch (p / 8) false b
    FsEffect (.pageQuery c) 0x0302 8 false .service c s (starRight (fun t => [addrOwner t a]) (fsSe c s) (fsBefore c s))
      (hereAligned s a 65536 && !pageUnusable s p) (fsOk t (leBytes 8 (entryWord (page t p)))))
  ∧ (∀ c s, let n := prm c 0 1
    FsEffect (.tierUsage c) 0x0303 8 false .service c s (starRight (fun _ => [some n]) (fsSe c s) (fsBefore c s))
      (n < 32 && zeros c 1 7) (fsOk (fsBefore c s) ([1, 2, 3].flatMap fun t => leBytes 8 (cwWord (fsBefore c s) (tierWord n t)))))

/-- The state in which RUN_STREAM has read its descriptor line. -/
def descEnd (c : FsCmd) (s : State) : State := (engAccess noWrite [prm c 8 8 % 2 ^ 50 / 64] (fsBefore c s)).2

/-- RUN_STREAM, passing the checks of R228, queues the stream and answers its STREAM_ID; where its descriptor line cannot be read yet, the command waits for it in the engine; ABORT_STREAM stops a stream as R252 gives for its state; QUERY_STREAM answers its record. -/
def Obligations.StreamCommandsComplete : Prop :=
  (∀ c s, let n := prm c 0 1; let a := prm c 8 8; let line := a % 2 ^ 50 / 64; let t := descEnd c s
    let d := readBytes t (64 * line) 64
    FsEffect (.runStream c) 0x0400 16 false .service c s (starRight (fun _ => [some n]) (fsSe c s) (fsBefore c s))
      (n < 32 && zeros c 1 7 && a % 64 = 0 && !s.core.lostSeq && !s.core.lostDma && cfg t (0x070400 + n) 63 56 ≠ 0
        && a / 2 ^ 50 = homeIndex s && ownCheck (fsBefore c s) n (a % 2 ^ 50) = sOK
        && isReady (engReady noWrite [line] [] (fsBefore c s))
        && (engAccess noWrite [line] (fsBefore c s)).1.isEmpty && streamDescOk t d
        && runCheck t (.call 0 0) n (field d 0 8 % 2 ^ 50) (32 * field d 8 4) false = sOK
        && (t.core.queue.filter fun i => (stream t i).part = n).length < 16 && t.core.queue.length < 256)
      (fsOk (admitStream n d t).2 (leBytes 4 (admitStream n d t).1 ++ leBytes 4 0)))
  ∧ (∀ c s o, let n := prm c 0 1; let a := prm c 8 8; let line := a % 2 ^ 50 / 64; let b := fsBefore c s
    let u : State := if (page b (line / 1024)).tier = 3 then beginT3 (line / 64) (o.getD b) else o.getD b
    fsClear 0x0400 16 false .service c s = true → starRight (fun _ => [some n]) (fsSe c s) b = true →
    (n < 32 && zeros c 1 7 && a % 64 = 0 && !s.core.lostSeq && !s.core.lostDma && a / 2 ^ 50 = homeIndex s
      && ownCheck b n (a % 2 ^ 50) = sOK) = true →
    s.sec.going = none → engReady noWrite [line] [] b = .wait o →
    exec (.runStream c) s = .next (fsGone (keepWaiting 0x0400 c line u)))
  ∧ (∀ c s, let id := prm c 0 4; let b := fsBefore c s
    FsEffect (.abortStream c) 0x0401 8 false .service c s (starRight (fun _ => [some (id / 2 ^ 27)]) (fsSe c s) b)
      (streamKept s id && zeros c 4 4)
      (fsOk (match (stream s id).st with
        | .queued => endStream id (setStream id (fun t => { t with status := sABORTED, cause := 11 }) b)
        | .ended => b
        | _ => settle id (stopStream id sABORTED 11 b))))
  ∧ (∀ c s, let id := prm c 0 4; let t := stream s id
    let run := if s.core.cur = some id then t.runNs + (now s - t.since) else t.runNs
    FsEffect (.queryStream c) 0x0402 8 false .service c s (starRight (fun _ => [some (id / 2 ^ 27)]) (fsSe c s) (fsBefore c s))
      (streamKept s id && zeros c 4 4)
      (fsOk (fsBefore c s) (leBytes 1 t.st.code ++ leBytes 1 t.status ++ leBytes 1 t.cause ++ leBytes 1 t.flags
        ++ leBytes 4 t.failPc ++ leBytes 8 (min t.done statMax) ++ leBytes 8 run)))

/-- The near-memory commands of Felset: QN_GROUP_QUERY of an open group, QN_ABANDON_ALL, HS_STEP_QUERY of a table with a step slot, HS_STEP_RELEASE, HS_HOT_REFRESH, BL_INDEX_QUERY and BL_MERGE_STOP with a merge in progress. -/
def Obligations.EngineCommandsComplete : Prop :=
  (∀ c s, let a := prm c 0 8; let g := group s (a % 2 ^ 50)
    FsEffect (.qnGroupQuery c) 0x0500 8 false .service c s (starRight (fun t => [addrOwner t a]) (fsSe c s) (fsBefore c s))
      (hereAligned s a 64 && g.opened)
      (fsOk (fsBefore c s) (leBytes 1 1 ++ leBytes 1 g.flags ++ leBytes 2 g.n ++ leBytes 2 g.done ++ leBytes 2 0
          ++ leBytes 8 g.initD ++ leBytes 8 g.recvD ++ leBytes 8 g.claimD ++ leBytes 8 g.errD)))
  ∧ (∀ c s, let n := prm c 0 1; let mine := fun g : QGroup => g.opened && !g.abandoned && g.part = n
    FsEffect (.qnAbandonAll c) 0x0501 8 true .service c s (starRight (fun _ => [some n]) (fsSe c s) (fsBefore c s))
      (n < 32 && zeros c 1 7)
      (fsOk (pump (abandonGroups (fun _ g => mine g) 0 (fsBefore c s)))
        (leBytes 4 (s.eng.groups.filter fun g => mine g.2).length ++ leBytes 4 0)))
  ∧ (∀ c s, let a := prm c 0 8; let h := hstep s (a % 2 ^ 50)
    let pend := ((h.rows.filter fun r => !r.2.sums.isEmpty).map fun r => entriesOf h.tables r.1).sum
    let spilt := (h.rows.map fun r => r.2.spilt.length * entriesOf h.tables r.1).sum
    FsEffect (.hsStepQuery c) 0x0600 8 false .service c s (starRight (fun t => [addrOwner t a]) (fsSe c s) (fsBefore c s))
      (hereAligned s a 64 && h.taken)
      (fsOk (fsBefore c s) (leBytes 4 h.step ++ leBytes 2 h.n ++ leBytes 2 h.done ++ leBytes 4 pend ++ leBytes 4 spilt
        ++ leBytes 1 (b2n h.overflow) ++ leBytes 7 0)))
  ∧ (∀ c s, let a := prm c 0 8; let h := hstep s (a % 2 ^ 50)
    FsEffect (.hsStepRelease c) 0x0601 8 true .service c s (starRight (fun t => [addrOwner t a]) (fsSe c s) (fsBefore c s))
      (hereAligned s a 64 && h.taken && h.closing.isNone) (fsOk (pump (releaseStep (a % 2 ^ 50) (fsBefore c s)))))
  ∧ (∀ c s, FsEffect (.hsHotRefresh c) 0x0602 8 true .service c s ((fsSe c s).role = 2) (prm c 0 1 < 16 && zeros c 1 7)
      (fsOk (pump (refreshHot (prm c 0 1) (fsBefore c s)))))
  ∧ (∀ c s, let a := prm c 0 8; let off := a % 2 ^ 50
    FsEffect (.blIndexQuery c) 0x0700 8 false .service c s (starRight (fun t => [addrOwner t a]) (fsSe c s) (fsBefore c s))
      (hereAligned s a 64)
      (fsOk (fsBefore c s) (readBytes s (off + 64) 20 ++ leBytes 4 (indexItems s off (· = 0x68)).length
        ++ leBytes 1 (b2n !(indexItems s off (· = 0x6B)).isEmpty) ++ leBytes 7 0)))
  ∧ (∀ c s it rest, let a := prm c 0 8
    indexItems s (a % 2 ^ 50) (· = 0x6B) = it :: rest →
    FsEffect (.blMergeStop c) 0x0701 8 true .service c s (starRight (fun t => [addrOwner t a]) (fsSe c s) (fsBefore c s))
      (hereAligned s a 64)
      (fsOk (pump (updateItem it.id (fun x => { x with search := x.search.map fun t => { t with stop := true } }) (fsBefore c s)))
        (leBytes 4 it.value ++ leBytes 4 0)))

/-- SET_DEFINE commits a set record, the lines of whose control page after the first then read as zero (the model's choice, log entry 53), SET_QUERY answers it, SET_REBUILD begins a rebuild, LIVENESS_QUERY answers the state of a node with a context. -/
def Obligations.SetCommandsComplete : Prop :=
  (∀ c s, let i := (slotOfSet s (prm c 0 2)).getD 16; let n := memberCount (prm c 2 1) (prm c 3 1)
    let ms := (defMembers c).take n
    FsEffect (.setDefine c) 0x0800 48 true .service c s ((fsSe c s).role = 2)
      ((slotOfSet s (prm c 0 2)).isSome && windowOwned s i && modeOk (prm c 2 1) (prm c 3 1) && ms.contains (prm c 4 2)
        && zeros c 6 2 && (setSt s i).epoch < prm c 8 8 && membersOk s n (defMembers c)
        && ms.all fun n => n = nodeId s || windowGranted s i n)
      (fsOk (pump (refreshSets (setSet i (fun _ => definedSet c i s) (eraseRange (slotFirst s i * 2 ^ 28 + 64) 65472 (fsBefore c s)))))))
  ∧ (∀ c s, FsEffect (.setQuery c) 0x0801 8 false .service c s true ((slotOfSet s (prm c 0 2)).isSome && zeros c 2 6)
      (fsOk (fsBefore c s) (setRecord s ((slotOfSet s (prm c 0 2)).getD 0))))
  ∧ (∀ c s, let i := (slotOfSet s (prm c 0 2)).getD 16; let p := prm c 2 1; let r := setSt s i
    let ps := rebuildPositions s i p
    FsEffect (.setRebuild c) 0x0802 8 true .service c s ((fsSe c s).role = 2)
      ((slotOfSet s (prm c 0 2)).isSome && r.sstate ≠ 0 && r.master = nodeId s && p < r.members.length
        && !fenced s (memberAt r p) && (ps ++ fencedPositions s r).length ≤ mayLose r && zeros c 3 5)
      (fsOk (refreshSets (setSet i (fun r => { batchClear 0 r with
        rbAll := ps, rbPos := ps.min?.getD 31, rbAt := (ps.map fun x => (shortAt s i x).getD 0).min?.getD 0
        rbGot := [] }) (fsBefore c s)))))
  ∧ (∀ c s, let n := prm c 0 2; let x := ctx (fsBefore c s) n
    FsEffect (.livenessQuery c) 0x0803 8 false .service c s true (zeros c 2 6 && x.live)
      (fsOk (fsBefore c s) (leBytes 1 (if fenced s n then 2 else if x.lstate = .silent then 1 else 0) ++ leBytes 7 0
        ++ leBytes 8 x.lastHeard)))

/-- HEALTH_QUERY of a unit with an event, HEALTH_LOG_READ, RETIRE of a unit still there, FI_INJECT and FI_STOP. -/
def Obligations.HealthCommandsComplete : Prop :=
  (∀ c s, let k := prm c 0 1; let n := prm c 2 2; let u := unitH s (unitKey k n)
    FsEffect (.healthQuery c) 0x0900 8 false .read c s true
      (k ≤ 16 && zeros c 1 1 && unitNamed k n && zeros c 4 4 && u.lastTs ≠ 0)
      (fsOk (fsBefore c s) (healthHead s k n ++ leBytes 8 u.lastTs ++ leBytes 8 u.lastHidx)))
  ∧ (∀ c s, let a := prm c 0 8; let n := prm c 8 2
    FsEffect (.healthLogRead c) 0x0901 16 false .read c s true
      (s.nor.hlogBase ≤ a && a < s.nor.hlogNext && within n 1 31 && a + n ≤ s.nor.hlogNext && zeros c 10 6)
      (fsOk (fsBefore c s) ((s.nor.hlog.filter fun e => decide (a ≤ e.idx ∧ e.idx < a + n)).flatMap hlogBytes)))
  ∧ (∀ c s, let k := prm c 0 1; let n := prm c 2 2
    FsEffect (.retire c) 0x0902 8 true .service c s ((fsSe c s).role = 2)
      (retireAccepts s k n && zeros c 1 1 && unitNamed k n && zeros c 4 4 && !unitLost s k n)
      (fsOk (retireUnit k n (fsBefore c s))))
  ∧ (∀ c s, let k := prm c 0 1; let n := prm c 2 2; let f := prm c 4 2; let i := s.gov.nextInject
    let j : Inject := { live := true, kind := k, unit := n, fault := f, left := prm c 6 2, periodUs := prm c 8 4, lastAt := now s }
    FsEffect (.fiInject c) 0x0903 16 true .service c s ((fsSe c s).role = 2 || (fsSe c s).role = 3)
      (k ≤ 16 && zeros c 1 1 && unitNamed k n && (faultKinds f).contains k && 1 ≤ prm c 6 2 && prm c 8 4 ≤ 1000000
        && zeros c 12 4 && !unitLost s k n && (activeInjects s).length < 16)
      (fsOk (event { cls := 12, code := 0, kind := k, unit := n, detail := f, injected := true, force := true }
          ((fsBefore c s).onGov fun g => { g with injects := kput {} g.injects i j, nextInject := (i + 1) % (2 ^ 32 - 1) }))
        (leBytes 4 i ++ leBytes 4 0)))
  ∧ (∀ c s, let i := prm c 0 4
    FsEffect (.fiStop c) 0x0904 8 true .service c s ((fsSe c s).role = 2 || (fsSe c s).role = 3)
      ((i = 2 ^ 32 - 1 || (activeInjects s).any fun p => p.1 = i) && zeros c 4 4)
      (fsOk (((activeInjects s).filter fun p => p.1 = i || i = 2 ^ 32 - 1).foldl (fun t p => endInject p.1 t) (fsBefore c s))))

/-- FURL in service begins the entry; WAKE in Furl begins a wake and keeps its reply for the opening of admission; the two kinds of RESTART flush, close every context and reset after the reply. -/
def Obligations.PowerCommandsComplete : Prop :=
  (∀ c s, FsEffect (.furl c) 0x0A00 0 true .sleep c s ((fsSe c s).role = 1 || (fsSe c s).role = 2) (inService s)
    (fsOk (furlBegin (fsBefore c s))))
  ∧ (∀ c s at_, FsEffect (.wake c at_) 0x0A01 0 true .sleep c s ((fsSe c s).role = 1 || (fsSe c s).role = 2)
    (s.pwr.pstate = .furl)
    { st := applyRails ((fsBefore c s).onPwr fun p => { p with pstate := .waking, wakeAt := some (at_ + 180000) }), held := true })
  ∧ (∀ c b s, FsEffect (.restartPowerUp c b) 0x0B06 8 true .restart c s ((fsSe c s).role = 2) (prm c 0 1 = 0 && zeros c 1 7)
    { st := fsBefore c s, after := fun t => runStart (powerUpReset 1 b (beforeReset t)) })
  ∧ (∀ c b s, FsEffect (.restartDevice c b) 0x0B06 8 true .restart c s ((fsSe c s).role = 2) (prm c 0 1 = 1 && zeros c 1 7)
    { st := fsBefore c s, after := fun t => runStart (deviceReset 2 b (beforeReset t)) })

/-- IMG_STAGE begins a copy; IMG_WRITE takes a chunk, the last of which begins verification; IMG_QUERY answers a slot that holds a header; IMG_ACTIVATE marks a valid slot active. -/
def Obligations.ImageCommandsComplete : Prop :=
  (∀ c s, let k := prm c 0 1; let a := prm c 8 8; let n := prm c 16 4
    FsEffect (.imgStage c) 0x0B00 24 true .install c s ((fsSe c s).role = 2)
      (imgFree s k && zeros c 1 7 && stagable s a n && within n 1 8388608 && zeros c 20 4)
      (fsOk (setImg k (fun _ => { istate := 1, src := some (a % 2 ^ 50, n) }) (fsBefore c s))))
  ∧ (∀ c s, let k := prm c 0 1; let off := prm c 4 4; let n := prm c 8 2
    let bs := (if off = 0 then [] else (imgSlot s k).bytes) ++ prmBytes c 16 n
    FsEffect (.imgWrite c) 0x0B07 (16 + n) true .install c s ((fsSe c s).role = 2)
      (imgFree s k && prm c 1 1 ≤ 1 && zeros c 2 2
        && (off = 0 || ((imgSlot s k).istate = 5 && off = (imgSlot s k).bytes.length)) && off + n ≤ 8388608
        && within n 1 1984 && (prm c 1 1 = 1 || n % 8 = 0) && zeros c 10 6
        && (prm c 1 1 ≠ 1 || bs.length = 448 + field bs 4 4))
      (fsOk (setImg k (fun _ => { istate := if prm c 1 1 = 1 then 1 else 5, bytes := bs }) (fsBefore c s))))
  ∧ (∀ c s, let k := prm c 0 1; let i := imgSlot s k
    FsEffect (.imgQuery c) 0x0B01 8 false .read c s true
      (k ≤ 1 && zeros c 1 7 && i.istate ≠ 0 && 448 ≤ i.bytes.length)
      (fsOk (fsBefore c s) (leBytes 1 i.istate ++ leBytes 7 0 ++ leBytes 8 (imgVersion i) ++ slice (imgDigest i) 0 32)))
  ∧ (∀ c s, let k := prm c 0 1
    FsEffect (.imgActivate c) 0x0B02 8 true .install c s ((fsSe c s).role = 2) (k ≤ 1 && (imgSlot s k).istate = 2 && zeros c 1 7)
      (fsOk ((setImg k (fun i => { i with istate := 4 })
        (setImg (1 - k) (fun i => if i.istate = 4 then { i with istate := 2 } else i) (fsBefore c s))).onNor fun n =>
          { n with actSlot := k })))

/-- STRAP_COMMIT stores the current straps, and with NODE_CERT among them closes bootstrap sessions after the reply; KEY_ENROLL of an installer fills a slot and KEY_REVOKE empties one, each closing the slot's sessions. -/
def Obligations.StrapAndKeyCommandsComplete : Prop :=
  (∀ c s, let m := strapsNow s; let cert := m.any fun p => decide (0x0B0400 ≤ p.1 ∧ p.1 < 0x0B0462)
    FsEffect (.strapCommit c) 0x0B03 0 true .install c s ((fsSe c s).role = 2) true
      { st := (fsBefore c s).onNor fun n => { n with straps := m, certCommitted := cert }
        after := fun t => if cert then
          (t.kt.ctxs.filter fun p => p.2.live && p.2.bootstrap).foldl (fun t p => closeBootstrap p.1 t) t else t })
  ∧ (∀ c s, let k := prm c 0 1
    let new : KeySlot := { role := prm c 1 1, pmask := BitVec.ofNat 32 (prm c 4 4), modulus := prmBytes c 8 384 }
    FsEffect (.keyEnroll c) 0x0B04 776 true .install c s ((fsSe c s).role = 2)
      (k < 64 && within (prm c 1 1) 1 2 && zeros c 2 2 && (prmBytes c 392 384).all (· = 0))
      (fsOk (closeSlot k ((fsBefore c s).onNor fun n => { n with keySlots := kput {} n.keySlots k new }))))
  ∧ (∀ c s, let k := prm c 0 1
    FsEffect (.keyRevoke c) 0x0B05 8 true .install c s ((fsSe c s).role = 2)
      (k < 64 && !((kget {} s.nor.keySlots k).role = 2 && (installerSlots s).length = 1) && zeros c 1 7)
      (fsOk (closeSlot k ((fsBefore c s).onNor fun n => { n with keySlots := kput {} n.keySlots k {} }))))

/-- The maker's commands: MK_SCREEN and MK_FUSE_READ answer what the maker fixes (log entry 12); MK_RETURN disables and scrubs every partition, and clears the key slots, straps, logs and history. -/
def Obligations.MakerCommandsComplete : Prop :=
  (∀ c s, FsEffect (.mkScreen c) 0x0F00 8 true .service c s ((fsSe c s).role = 3)
    (zeros c 2 6 && !((List.range 32).any fun n => (part s n).enabled))
    (fsOk { fsBefore c s with free := s.free + 1 } (slice (Config.screenResult (prm c 0 2) s.free) 0 32)))
  ∧ (∀ c s, FsEffect (.mkFuseRead c) 0x0F01 0 false .service c s ((fsSe c s).role = 3) true
    (fsOk { fsBefore c s with free := s.free + 1 } (slice (Config.fuseRecord s.free) 0 64)))
  ∧ (∀ c s, let on := (List.range 32).filter fun n => (part s n).enabled && !(part s n).disabling
    let t := (List.range 64).foldl (fun t k => closeSlot k t) (on.foldl (fun t n => disablePart n t) (fsBefore c s))
    FsEffect (.mkReturn c) 0x0F02 0 true .service c s ((fsSe c s).role = 3) true
      (fsOk (t.onNor fun n => { n with
        keySlots := [], straps := [], certCommitted := false, hist := [], hlog := [], hlogBase := n.hlogNext,
        audit := [], auditBase := n.auditNext, auditAcked := n.auditNext, auditWarned := false, auditErasing := false })))

/-! ### Power, clocks and pins (chapters 2, 17 and 18) -/

/-- The rise of the power-good input takes the power-up reset and runs start-up as far as it goes; its fall leaves nothing but the NOR; a fall of RESET_N holds the device and its rise after at least 1 µs takes the device reset (R454, R457, R477, R478). Entering service after steps 7 and 8 with Novva ready opens the sixteen home slices and ends step 11 of start-up, and step 12 with it where no Millpond slice still scans; a start-up whose step cannot complete halts with its cause (R458, R459). -/
def Obligations.ResetAndStartupComplete : Prop :=
(∀ b s, s.pwr.pwrGood = false → exec (.powerGoodRise b) s = .next (runStart (powerUpReset 0 b s)))
  ∧ (∀ s, ∃ t, exec .powerGoodFall s = .next t ∧ t.nor = s.nor ∧ t.pwr.pwrGood = false ∧ t.store = { millponds := keptBlocks s } ∧ t.kt = {}
      ∧ t.home = {} ∧ t.core = {} ∧ t.eng = {} ∧ t.mach = {} ∧ t.gov = {} ∧ t.cw = [] ∧ t.stats = [])
  ∧ (∀ s, s.pwr.pwrGood = true → s.pwr.thermTrip = false → s.pwr.resetN = true →
      ∃ t, exec .resetNFall s = .next t ∧ t.pwr.resetN = false ∧ t.pwr.pstate = .resetting ∧ t.nor = s.nor)
  ∧ (∀ n b s, s.pwr.pwrGood = true → s.pwr.thermTrip = false → s.pwr.resetN = false → 1000 ≤ n →
      s.pwr.pstate = .resetting → exec (.resetNRise n b) s = .next (runStart (deviceReset 3 b s)))
  ∧ (∀ s, s.pwr.pwrGood = true →
      ∃ t, exec .thermalTrip s = .next t ∧ t.pwr.thermTrip = true ∧ t.pwr.pstate = .resetting ∧ t.nor = s.nor
        ∧ t.store = { millponds := keptBlocks s } ∧ t.kt = {} ∧ t.core = {})
  ∧ (∀ s, s.pwr.pstate = .starting → 7 ∈ s.pwr.tail → 8 ∈ s.pwr.tail → s.sec.nvState = .ready →
    ∃ t, exec .enterService s = .next (retireFailed t) ∧ t.pwr.pstate = .inService
      ∧ t.pwr.startStep = max s.pwr.startStep (if ((List.range 4).any fun q => (millpond s q).st = .scanning) = true then 11 else 12)
      ∧ (∀ b, b < 16 → kget .off t.home.slices b = .serving) ∧ t.gov.state = (if s.mach.arbFault then 3 else 2))
  ∧ (∀ s c, s.pwr.pstate = .starting → haltCause s = some c → c = 3 ∨ c = 4 →
    exec .startHalt s = .next (s.onPwr fun p => { p with pstate := .halted, haltCause := c }))
  ∧ (∀ s c, s.pwr.pstate = .starting → haltCause s = some c → c = 1 ∨ c = 5 →
    exec .startHalt s = .next (startStep10 (s.onPwr fun p => { p with pstate := .halted, haltCause := c })).1)
  ∧ (∀ t s, s.pwr.pwrGood = true → s.pwr.thermTrip = false → ¬ (s.pwr.pstate = .starting ∧ s.pwr.startStep = 0) →
    exec (.tapInstructionUpdate t) s = .next (s.onPwr fun p => { p with tap := tapSelect t s }))

/-- A lock loss holds a running island and is counted, and the words at its boundary toward it are lost; a relock that succeeds runs it again and its boundary reopens; one that fails uses one of its tries, the third of which ends in a failed relock; a lock that comes too late, or not again within the bound of its start-up step, holds the island with no try left, and start-up goes on where it waited for it; the end of a rate step's pause switches the island to its step and reopens its boundary (R44, R46-R48). -/
def Obligations.IslandCommandsComplete : Prop :=
  (∀ i s, i < 64 → (island s i).st = .running ∨ (island s i).st = .locking → exec (.pllLockLoss i) s = .next
    (pump (boundaryLost i (tokenAfterIsland (countEvent .lockLoss kIsland i 0 false (setIsland i (fun x => { x with
      st := .held, tries := 0, toStep := none, lockLoss := min 65535 (x.lockLoss + 1) }) s))))))
  ∧ (∀ i s, (island s i).st = .held → (island s i).tries < 3 →
    exec (.islandRelock i true) s
      = .next (startGoesOn (reopened i (setIsland i (fun x => { x with st := .running, tries := 0 }) s))))
  ∧ (∀ i s, (island s i).st = .held → (island s i).tries < 2 →
    exec (.islandRelock i false) s = .next (setIsland i (fun x => { x with tries := x.tries + 1 }) s))
  ∧ (∀ i s, (island s i).st = .held → (island s i).tries = 2 →
    exec (.islandRelock i false) s
      = .next (startGoesOn (failedRelock i (setIsland i (fun x => { x with tries := x.tries + 1 }) s))))
  ∧ (∀ i s, (island s i).st = .locking ∨ ((island s i).st = .held ∧ (island s i).tries < 3 ∧ stepOpen i s = true) →
    let t := countEvent .lockLoss kIsland i 0 false
      (setIsland i (fun x => { x with st := .held, tries := 3, lockLoss := min 65535 (x.lockLoss + 1) }) s)
    exec (.islandLockTimeout i) s = .next (if t.pwr.pstate = .starting then runStart t else failedRelock i t))
  ∧ (∀ i n s, (island s i).toStep = some n → islandUp s i = true →
    exec (.rateStepPauseEnd i) s = .next (reopened i (setIsland i (fun x => { x with step := n, toStep := none }) s)))

/-- What is read each window: a bay's beats, which the Governor sums while it counts, the standby timestamp, the rails and a regulator that does not answer (R39, R50, R466, R474). -/
def Obligations.ReadingsComplete : Prop :=
  (∀ b rate n s, b < 16 → s.pwr.pwrGood = true → s.pwr.thermTrip = false →
    let slow := s.gov.injects.any fun x => x.2.live && x.2.kind = kBay && x.2.unit = b && x.2.fault = 0x40 && decide (0 < x.2.armed)
    let r := (if slow then rate * 9 / 10 else rate) % 4096
    let t := s.onPwr fun p => { p with
      beatRate := kput 0 p.beatRate b r, beatRem := kput 0 p.beatRem b ((kget 0 s.pwr.beatRem b + n) % 65536) }
    exec (.bayBeatWindow b rate n) s = .next (bumpBy (0x0D0100 + b) ((kget 0 s.pwr.beatRem b + n) / 65536)
      (if s.gov.state = 0 then t else t.onPwr fun p => { p with
        slowSum := kmod 0 p.slowSum b (· + r), slowWindows := kmod 0 p.slowWindows b (· + 1) })))
  ∧ (∀ d s, islandUp s 60 = true → islandUp s 61 = true → halfInCharge s = 0 → ((s.pwr.tsEast : Int) + d - now s).natAbs ≤ 10 →
    exec (.timestampCompare d) s = .next (s.onPwr fun p => { p with tsEast := ((s.pwr.tsEast : Int) + d).toNat }))
  ∧ (∀ d s, islandUp s 60 = true → islandUp s 61 = true → halfInCharge s = 0 → 10 < ((s.pwr.tsEast : Int) + d - now s).natAbs →
    exec (.timestampCompare d) s = .next (event { cls := 8, code := 2 } (s.onPwr fun p => { p with tsEast := now s })))
  ∧ (∀ r s, s.gov.state ≠ 0 → ∃ t u, exec (.powerSample r) s = .next t
    ∧ u = (List.range 4).foldl (fun s q => setRail q (fun x => { x with
        meas := (r.senseMv.getD q x.meas) % 1024, temp := r.temps.getD q x.temp }) s)
        ((List.range 13).foldl (fun s i => readRail i (r.currents.getD i none) s) s)
    ∧ t = (List.range 4).foldl (fun s q => rangeCheck q s) (applyRails (throttleStep (u.onPwr fun p => { p with
        pkgPower := min 4095 (((List.range 13).map fun i => railCurrent u i * railMv u i).sum / 1000000) }))))
  ∧ (∀ i n s, i < 13 → s.gov.state ≠ 0 → exec (.avsReadTimeout i n) s = .next (s.onPwr fun p => { p with
      avs := kput {} p.avs i { kget {} p.avs i with silentNs := max (kget {} p.avs i).silentNs n } }))

/-! ### The store (chapter 3) -/

/-- The decay epoch advances; the sweep brings every page's heat up to date and forms the candidate lists; a tier short of frames queues its coldest page; the Sluice starts its queue's next move; a copied page switches, an image to the place that its encoding then takes, and one that too many stores reach is read again; a line of the page map comes into its cache (R64, R71, R72, R75, R76, R80). T2_LOW_WATER is taken as a percentage of the T2 units above the reservation, which the rule does not say (log entry 34). -/
def Obligations.SluiceCommandsComplete : Prop :=
  (∀ s, inService s = true → elapsed s s.store.epochAt (cfg s 0x020000 20 7 * 1000000) = true →
    exec .decayEpoch s = .next (s.onStore fun x => { x with epoch := (x.epoch + 1) % 256, epochAt := now s }))
  ∧ (∀ s, inService s = true → ∃ t u, exec .heatSweep s = .next t
    ∧ u = s.store.pages.foldl (fun s p =>
        editPage p.1 (fun e => { e with heat := heatNow s.store.epoch e, epoch := s.store.epoch }) s) s
    ∧ t.store.pages = u.store.pages
    ∧ (∀ b, b < 16 → kget [] t.store.candidates b
        = coldest u (u.store.pages.filter fun p => !p.2.pin && (p.2.tier = 1 && pageBay p.1 = b)))
    ∧ kget [] t.store.candidates 16 = coldest u (u.store.pages.filter fun p => !p.2.pin && p.2.tier = 2))
  ∧ (∀ b p s, inService s = true → b < 16 → bayFree s b * 100 < lowWater s 1 * 294912 → candidate s b 1 = some p →
    exec (.sluiceDemoteTrigger (.t1 b)) s = .next (requestMove p .demote s))
  ∧ (∀ p s, inService s = true → t2Free s * 100 < lowWater s 2 * (t2Total s - s.store.reserved) → candidate s 16 2 = some p →
    exec (.sluiceDemoteTrigger .t2) s = .next (requestMove p .demote s))
  ∧ (∀ q s t, q < 4 → sluiceUp s q = true → inService s = true → startFirst q (queuedFor s q .evacuate) s = some t →
    exec (.sluiceMoveStart q) s = .next t)
  ∧ (∀ p s m m' u, moveOf s p = some m → m.dirty.length ≤ 64 → m.why ≠ .demote → pageLost s p = false →
    pageUnusable s p = false → finalPlace p m s = some (m', u) → m'.comp = false ∨ m.dirty = [] →
    exec (.moveSwitch p) s = .next (pump (switchMove p m' u)))
  ∧ (∀ p s m, moveOf s p = some m → 64 < m.dirty.length → m.passes < 3 →
    exec (.moveSwitch p) s = .next (s.onStore fun x => { x with
      moves := kput {} x.moves p { kget {} x.moves p with dirty := [], passes := (kget {} x.moves p).passes + 1 } }))
  ∧ (∀ g s, (kget {} s.store.mapCache g).held = false → kget 0 s.store.mapLost g = 0 →
    exec (.pageMapLineFill g false) s = .next (pump (mapTouch g false s)))

/-- The Millpond: a block read, deciphered and decoded gives its lines their bytes and lets the loads that wait go on; while its island drains for a change of step it stands in the boundary; collection takes a block and copies its images away; a block collected and empty is erased and free; a failed program makes its block bad; a slice that has scanned serves, its blocks erased (R46, R93, R94, R96, R99). -/
def Obligations.MillpondCommandsComplete : Prop :=
  (∀ r s q b bs, let u := endT3 (r.page * 16 + r.block) s
    r.block < 16 → r.retries = 0 → readSource r s = some (q, b) → (island s (56 + q)).st = .running →
    (island s (56 + q)).toStep = none → takeArmed kNand (blkChannel q b) [0x13] u = (none, u) → (page u r.page).tier = 3 →
    pageLost u r.page = false → decodeRead r u = some bs →
    let v := (notCached u (blockLines r.page r.block)).foldl (fun (s : State) l =>
      writeBytes (l * 64) (slice bs (l % 64 * 64) 64) s) u
    exec (.t3ReadDone r) s = .next ((pump ((fetchWanted r.page r.block v).onStore fun x => { x with
      t3Ready := [r.page * 16 + r.block] })).onStore fun x => { x with t3Ready := [] }))
  ∧ (∀ r s q b, r.block < 16 → readSource r s = some (q, b) → (island s (56 + q)).st = .running →
    (island s (56 + q)).toStep ≠ none → (island s (56 + q)).fromIsland.length < 32 →
    exec (.t3ReadDone r) s = .next (setIsland (56 + q) (fun x => { x with fromIsland := x.fromIsland ++ [r] }) s))
  ∧ (∀ q b s, inService s = true → (millpond s q).st = .serving → freeBlocks s q * 100 < cfg s 0x020001 15 8 * mpBlocks (millpond s q) →
    gcBlock s q = some b → exec (.millpondGcStart q) s = .next
      ((slotsIn s q b).foldl (fun s k => relocate q k s) (setMillpond q (fun m => { m with
        collecting := if m.collecting.contains b then m.collecting else m.collecting ++ [b] }) s)))
  ∧ (∀ q b s, let m := millpond s q
    inService s = true → m.collecting.contains b = true → (blk m b).valid = 0 → (blk m b).reads = 0 → (blk m b).st ≠ .bad →
    m.dead = [] → blkOut s q b = false → exec (.millpondBlockErase q b) s = .next (wearEvents q (setMillpond q (fun m => { m with
      collecting := m.collecting.filter fun x => decide (x ≠ b)
      blocks := kput {} m.blocks b { erases := (blk (millpond s q) b).erases + 1 } }) s)))
  ∧ (∀ q b s, exec (.millpondProgramDone q b true) s = .next s)
  ∧ (∀ q b s, q < 4 → (tgOf (millpond s q) b).isSome = true → exec (.millpondProgramDone q b false) s = .next
      ((slotsIn s q b).foldl (fun s k => relocate q k s) (blockBad q b s)))
  ∧ (∀ q s, (millpond s q).st = .scanning → s.pwr.pstate ≠ .inService →
      exec (.millpondScanDone q) s = .next (checkSpares q (wearEvents q
        (setMillpond q (fun m => { m with st := .serving, blocks := scanErase m }) s))))

/-! ### Krathar transport (chapter 4) -/

/-- A frame's packet number, once it has passed integrity and replay, is noted whatever later checks find. -/
def pnNoted (f : RxFrame) (s : State) : State :=
  match pnCtx f s with
  | some n => notePn n f s
  | none => s

/-- A frame that a check of R487 turns away is counted once under its first failing check; one that finds no room is heard all the same; an open's frame is counted, or where its records do not add up discarded; a sequenced frame received again is counted as a duplicate and asks for an acknowledgement; a new one is heard, counted where its records add up, and accepted; what is no KT frame changes nothing. -/
def Obligations.FrameRxComplete : Prop :=
  (∀ f s k, ktFrame f s = true → rxDrop f s = some k → k ≠ 8 → k ≠ 10 →
    exec (.ktFrameRx f) s = .next (bump (aKT k) (pnNoted f s)))
  ∧ (∀ f s, ktFrame f s = true → rxDrop f s = some 8 → exec (.ktFrameRx f) s
      = .next (event { cls := 5, code := 0, kind := kNode, unit := f.srcNode } (bump (aKT 8) (pnNoted f s))))
  ∧ (∀ f s n, ktFrame f s = true → rxDrop f s = some 10 → frameCtx f s = some n →
      exec (.ktFrameRx f) s = .next (bump (aKT 10) (heardFrom n (pnNoted f s))))
  ∧ (∀ f s, ktFrame f s = true → rxDrop f s = none → f.session = 0 →
      exec (.ktFrameRx f) s = .next (bump (aKT (if recordsAdd f then 1 else 12)) s))
  ∧ (∀ f s n, ktFrame f s = true → rxDrop f s = none → f.session ≠ 0 → frameCtx f s = some n → f.seqd = true →
      rxDup (ctx s n) f.seq.toNat = true → exec (.ktFrameRx f) s
        = .next (setCtx n (fun c => { c with owed := c.owed ++ [(f.seq.toNat, now s)] }) (bump (aKT 4) (heardFrom n (pnNoted f s)))))
  ∧ (∀ f s n, ktFrame f s = true → rxDrop f s = none → f.session ≠ 0 → frameCtx f s = some n →
      (f.seqd = true → rxDup (ctx s n) f.seq.toNat = false) → exec (.ktFrameRx f) s = .next (acceptRx n f
        (if (if f.seqd then recordsAdd f else plainOk f) = true then bump (aKT 1) (heardFrom n (pnNoted f s))
         else heardFrom n (pnNoted f s))))
  ∧ (∀ f s, ktFrame f s = false → exec (.ktFrameRx f) s = .next s)

/-- ACK releases what it covers; NACK resends the frames asked for, each at most once in a round trip, where no timeout of one of them falls due as well; PROBE is answered on its plane with TOKEN and TX_TS echoed; the third PROBE_REPLY in a row returns the context to its home plane; the acknowledgement timer sends an ACK; the timeout of the oldest frame resends it while tries are left, and moves the context to the other plane once they are not, or where there is no other plane tells of the silence; a context away from home probes every 1 ms (R117-R121). A link that goes down leaves its plane; one that has trained is up at its group's width, and one that failed is down (R103, R104). -/
def Obligations.TransportCommandsComplete : Prop :=
(∀ a s, (ctx s a.node).live = true → exec (.ack a) s = .next
    (closeAcked a.node (applyAck a.node a.ack.toNat (min a.rwnd 4095) a.delayNs
      (a.sacks.map fun r => (r.1.toNat, r.2.toNat)) s)))
  ∧ (∀ n a h s, (ctx s n).live = true →
    let t := closeAcked n (applyAck n a (ctx s n).rwnd 0 [] s)
    let asked := fun x : Held => decide (0 < x.sends) && !precedes x.seq a && precedes x.seq h
    let due := fun x : Held => asked x
      && (match x.nackAt with | some u => elapsed t u ((ctx t n).srtt.getD (rtoMin s)) | none => true)
      && !(decide (1 < x.sends) && x.sentAt = now t)
    (timedOut n t).all (fun x => !asked x) = true →
    exec (.nack n a h) s = .next (((ctx t n).held.filter due).foldl (fun u x => setCtx n (fun c => { c with
      held := c.held.map fun y => if y.seq = x.seq then { y with nackAt := some (now u) } else y })
        (sendHeld n x (ctx t n).plane u)) t))
  ∧ (∀ n p k x s, (ctx s n).live = true → exec (.probe n p k x) s = .next (sendPlain n p [] (.probeReply k.toNat x.toNat) s))
  ∧ (∀ n p k x s, (ctx s n).live = true → (ctx s n).probeOut = true → p = homePlane s n → (ctx s n).probeTok = k.toNat →
    x.toNat = (ctx s n).lastProbe → (ctx s n).probeReplies = 2 → ∃ t, exec (.probeReply n p k x) s = .next t
      ∧ (ctx t n).plane = homePlane s n ∧ (ctx t n).srtt = none ∧ (ctx t n).held = (ctx s n).held ∧ t.wire = s.wire)
  ∧ (∀ n x l s, (ctx s n).owed = x :: l → (ctx s n).live = true → elapsed s x.2 1000 = true →
    exec (.ackTimer n) s = .next (sendAck n s))
  ∧ (∀ n h s, let c := ctx s n
    oldestHeld c = some h → c.live = true → c.tries + 1 < retxLimit s →
    elapsed s h.sentAt (rto s c) = true → exec (.rtoExpiry n) s = .next
      (sendHeld n h c.plane (setCtx n (fun c => { c with tries := c.tries + 1 }) s)))
  ∧ (∀ n h s, let c := ctx s n
    oldestHeld c = some h → c.live = true → retxLimit s ≤ c.tries + 1 →
    elapsed s h.sentAt (if retxLimit s ≤ c.tries then rtoMax s else rto s c) = true →
    let t := setCtx n (fun c => { c with tries := c.tries + 1 }) s
    exec (.rtoExpiry n) s = .next (if c.switched = false ∧ usable s n (1 - c.plane) = true
      then planeSwitch n (1 - c.plane) true t else silentTimeout n t))
  ∧ (∀ n s, let c := ctx s n; let h := homePlane s n; let k := (freeVal s).1.toNat % 2 ^ 32
    c.live = true → c.plane ≠ h → linksUp s h ≠ [] → reach s n h ≠ 0 → elapsed s c.lastProbe 1000000 = true →
    exec (.probeTimer n) s = .next (sendPlain n h [] (.probe k (now s)) (setCtx n (fun c => { c with
      probeReplies := if c.probeOut then 0 else c.probeReplies, probeTok := k, probeOut := true, lastProbe := now s })
      (freeVal s).2)))
  ∧ (∀ l s, (link s l).st = .up → exec (.linkDown l) s = .next (leavePlane (linkPlane l) (setLink l { st := .down } s)))
  ∧ (∀ l s f w, (link s l).st = .training →
    widestGroup s (l / 4) (linkLanes (portMode s (l / 4)) (l % 4)).1 (linkLanes (portMode s (l / 4)) (l % 4)).2 = some (f, w) →
    ∃ t, exec (.linkReformDone l true) s = .next t ∧ link t l = { st := .up, width := w / 2, first := f })
  ∧ (∀ l s, (link s l).st = .training ∨ (link s l).st = .down →
    ∃ t, exec (.linkReformDone l false) s = .next t ∧ link t l = { st := .down })

/-- A first SESSION_OPEN waits for Novva, which accepts it where its checks pass and a context is free, logs its failure where they do not, and with no context free closes the least recently used idle one; the answer to an open of the YM9's own makes a context where its checks pass; an open without an answer is sent again after 10 ms, three times at most, and one that waited for a context goes out when there is one; SESSION_CLOSE is acknowledged and closes the context; an idle context closes, and one with copies flushes first; the sender takes a new SA of a secure channel after 2^48 frames, and the receiver drops the previous one 1 ms after the next one's first use (R112, R187, R394, R488). -/
def Obligations.SessionCommandsComplete : Prop :=
  (∀ r s, fenced s r.node = false → s.sec.nvState ≠ .lost → (ctx s r.node).live = false →
    (kget {} s.kt.ownOpens r.node).live = false → s.kt.opens.length < 64 →
    exec (.sessionOpen r) s = .next (s.onKt fun k => { k with opens := k.opens ++ [r] }))
  ∧ (∀ n r s, s.kt.opens.find? (fun x => decide (x.node = n)) = some r →
    let t := s.onKt fun k => { k with opens := k.opens.erase r }
    let o := kget {} s.kt.ownOpens n
    (sessionOk s r (openBody r.seq0.toNat r.nonce (certBody r ++ padTo 384 r.certSig) r.ehalf) = true →
      (ctx s n).live = false → ctxCount s < 16384 → exec (.sessionOpenDone n) s = .next (acceptOpen r t))
    ∧ (sessionOk s r (openBody r.seq0.toNat r.nonce (certBody r ++ padTo 384 r.certSig) r.ehalf) = false →
      exec (.sessionOpenDone n) s = .next (sessionFail n (if o.live && o.nonce.isEmpty then
        t.onKt fun k => { k with ownOpens := kput {} k.ownOpens n {} } else t))))
  ∧ (∀ n r v s, s.kt.opens.find? (fun x => decide (x.node = n)) = some r →
    sessionOk s r (openBody r.seq0.toNat r.nonce (certBody r ++ padTo 384 r.certSig) r.ehalf) = true →
    (ctx s n).live = false → 16384 ≤ ctxCount s →
    (∀ p ∈ s.kt.ctxs, p.2.closing = none ∧ p.2.flushSent = none) → oldestCtx (closable s) = some v →
    exec (.sessionOpenDone n) s = .next (closeIdle v s))
  ∧ (∀ r s, let o := kget {} s.kt.ownOpens r.node
    o.live = true → o.nonce ≠ [] → o.waiting = false → ctxCount s < 16384 →
    let b := acceptBody r.seq0.toNat r.session.toNat r.nonce (certBody r ++ padTo 384 r.certSig) r.ehalf
      ++ (ownOpenRec o s).octets
    exec (.sessionAccept r) s = .next (match sessionOk s r b, Config.rsaDecrypt r.ehalf with
      | true, some h => newCtx r.node (freshCtx s r.session.toNat o.plane o.seq0 r.seq0.toNat (min r.rwnd 4095)
          (sessionKey o.half h (nodeId s) r.node r.session.toNat o.nonce r.nonce)) s
      | _, _ => sessionFail r.node s))
  ∧ (∀ n s, let o := kget {} s.kt.ownOpens n
    o.live = true → o.nonce ≠ [] → o.waiting = false → elapsed s o.sentAt 10000000 = true → o.resends < 3 →
    exec (.sessionOpenResend n) s = .next (emitOpenFrame n o.plane o.seq0 (ownOpenRec o s)
      (s.onKt fun k => { k with
        ownOpens := kput {} k.ownOpens n { o with resends := o.resends + 1, sentAt := now s } })))
  ∧ (∀ n s, let o := kget {} s.kt.ownOpens n
    o.live = true → o.nonce ≠ [] → o.waiting = true → (ctx s n).live = false → ctxCount s < 16384 →
    exec (.sessionOpenResend n) s = .next (emitOpenFrame n o.plane o.seq0 (ownOpenRec o s)
      (s.onKt fun k => { k with ownOpens := kput {} k.ownOpens n { o with waiting := false, sentAt := now s } })))
  ∧ (∀ n r s, (ctx s n).live = true → exec (.sessionClose n r) s = .next (closeNow n (sendAck n s)))
  ∧ (∀ n s, let c := ctx s n
    c.live = true → c.held = [] → c.own = [] → c.closing = none → c.flushSent = none →
    elapsed s c.lastHeard 100000000 = true → elapsed s c.lastSent 100000000 = true →
    exec (.sessionIdleClose n) s = .next (if c.cacher then flushContext n s else beginClose n 0 s))
  ∧ (∀ n x s, (ctx s n).flushSent = some x → (ctx s n).live = true → elapsed s x 1000000 = true →
    exec (.cacherFlushTimeout n) s = .next (beginClose n 0 s))
  ∧ (∀ n k x s, let y := kget {} (ctx s n).rx k
    (ctx s n).live = true → y.prevUntil = some x → x ≤ now s →
    exec (.saRekey n ⟨k, true⟩) s = .next (setCtx n (fun c => { c with rx := kput {} c.rx k { y with prevUntil := none } }) s))
  ∧ (∀ n k s, let x := kget {} (ctx s n).tx k
    (ctx s n).live = true → 2 ^ 48 ≤ x.pn → s.sec.nvState ≠ .lost →
    exec (.saRekey n ⟨k, false⟩) s = .next (setCtx n (fun c => { c with
      tx := kput {} c.tx k { sa := x.sa + 1 }
      sas := kput {} c.sas (x.sa + 1) (saOf c.skey (x.sa + 1)) }) s))

/-- The timers and answers of the YM9's own requests: one whose deadline passes ends TARGET_DEAD; after its wait a retried one is sent again; an interim answer gives it FLASH_DEADLINE; an answer other than RETRY ends it and paces the next; a silent node is fenced at LIVE_BOUND (R138, R160, R405, R411). -/
def Obligations.OwnRequestEventsComplete : Prop :=
  (∀ n g o s, (ctx s n).own.find? (fun x => decide (x.tag = g)) = some o → o.backoff = false → o.queued = false →
    elapsed s o.sentAt (ownDeadline s o) = true → exec (.requestDeadline n g) s = .next (ownDead n g s))
  ∧ (∀ n g o s op tag st p v a d, (ctx s n).own.find? (fun x => decide (x.tag = g) && x.backoff) = some o →
    o.rcd = .req op tag st p v a d → exec (.retryBackoff n g) s = .next (sendRec n o.rcd st false
      (setCtx n (fun c => { c with own := c.own.map fun x =>
        if x.tag = g then { x with backoff := false, sentAt := now s } else x }) s)))
  ∧ (∀ n g l o s st op tag sr v p a d w, (ctx s n).own.find? (fun x => decide (x.tag = g)) = some o →
    o.queued = false → o.backoff = false → o.rcd = .req op tag sr v p a d → st ≠ sRETRY →
    exec (.setForwardResponse n g st ⟨op, l, false, w⟩) s = .next (ownAnswered n g st w (pace n v l s)))
  ∧ (∀ n g l o s st w, (ctx s n).own.find? (fun x => decide (x.tag = g)) = some o → o.queued = false → o.backoff = false →
    exec (.setForwardResponse n g st ⟨o.rcd.op, l, true, w⟩) s = .next (setCtx n (fun c => { c with
      own := c.own.map fun x => if x.tag = g then { x with flash := true } else x }) s))
  ∧ (∀ n g l o s w, (ctx s n).own.find? (fun x => decide (x.tag = g)) = some o → o.queued = false → o.backoff = false →
    exec (.setForwardResponse n g sRETRY ⟨o.rcd.op, l, false, w⟩) s = .next (ownRetry n g s))
  ∧ (∀ n s, (ctx s n).live = true → (ctx s n).lstate = .silent → elapsed s (ctx s n).lastHeard (liveBound s) = true →
    exec (.liveBoundExpiry n) s = .next (fenceNode n s))

/-! ### Transactions (chapter 5) -/

/-- LOAD and LOAD_LINES, admitted alone and come to a line that is open: the data of the line answers the load, a poisoned line answers POISONED with ones, and the lines of LOAD_LINES are taken one by one, the last of them answering (R140, R164). -/
def Obligations.LoadCommandsComplete : Prop :=
  (∀ c y s n, let x := atTurn 0x00 c y s n; let it := x.1; let t := x.2; let line := it.off / 64
    comes 0x00 c y s n = true → combOpen t line = false → lineOpen line t = true → loadHeld t it.off = false →
    lineQuiet line t = true →
    let r := accessLine line it.syms t
    exec (.load c y) s = onward 0x00 c y s n (if r.1 then endItem it sPOISONED 0 (ffs (it.param + 1)) (bump (aTXN 0) r.2)
      else endItem it sOK 0 (readBytes t it.off (it.param + 1)) (bump (aTXN 0) r.2)))
  ∧ (∀ c s n line rest, let x := atTurn 0x01 c {} s n; let it := x.1; let t := x.2
    comes 0x01 c {} s n = true → itemLines it = line :: rest → combOpen t line = false → lineOpen line t = true →
    loadHeld t (line * 64) = false → lineQuiet line t = true →
    let r := accessLine line {} t
    let g : LineGot := { done := true, poison := r.1, data := readBytes t (line * 64) 64 }
    let it' : Item := { it with got := kput {} it.got (line - it.off / 64) g }
    let u := updateItem it.id (fun _ => it') r.2
    exec (.loadLines c) s = onward 0x01 c {} s n (if (itemLines it').isEmpty then loadLinesAnswer it' u else u))

/-- The commands that write one line, with their opcodes. -/
def lineWrites : List ((TxnReq → Instr) × Nat) :=
  [(.store, 0x10), (.storeMasked, 0x11), (.storeFlag, 0x13), (.atomicAdd, 0x20), (.atomicFadd, 0x21), (.atomicAnd, 0x22),
   (.atomicOr, 0x23), (.atomicXor, 0x24), (.atomicSmin, 0x25), (.atomicSmax, 0x26), (.atomicUmin, 0x27), (.atomicUmax, 0x28),
   (.atomicSwap, 0x29), (.atomicCas, 0x2A), (.publish, 0x40)]

/-- STORE, STORE_MASKED, STORE_FLAG, the atomics and PUBLISH, admitted alone and come to their line: what `writeResult` gives is written, and answered once its forwards are; STORE_LINES writes its next line and goes on with the one after (R140, R144, R150, R154). An atomic without return that may fold is folded into its line's open entry of its opcode and width, or with none open and a place in its bay's buffer into a new one, and answered (R150-R152). -/
def Obligations.WriteCommandsComplete : Prop :=
  (∀ k op c s n, (k, op) ∈ lineWrites →
    let x := atTurn op c {} s n; let it := x.1; let t := x.2; let line := it.off / 64; let w := writeResult it line t
    comes op c {} s n = true → writeOpen it line t = true → (allocated it line w.1 t).1 = 0 →
    let p := putLines it.part (itemWrite it) w.1 true (allocated it line w.1 t).2
    exec (k c) s = onward op c {} s n (endWrite it p.1 w.2.1 w.2.2.1 w.2.2.2
      (writeStat op w.2.1 (if op = 0x10 then applyControl it.off it.payload p.2 else p.2))))
  ∧ (∀ c s n line rest, let x := atTurn 0x12 c {} s n; let it := x.1; let t := x.2; let w := writeResult it line t
    comes 0x12 c {} s n = true → itemLines it = line :: rest → writeOpen it line t = true → (allocated it line w.1 t).1 = 0 →
    let p := putLines it.part (itemWrite it) w.1 true (allocated it line w.1 t).2
    let it' : Item := { it with got := kput {} it.got (line - it.off / 64) { done := true } }
    let u := addForwards it.id p.1 (updateItem it.id (fun _ => it') p.2)
    exec (.storeLines c) s = onward 0x12 c {} s n
      (if (itemLines it').isEmpty then endWrite it' [] sOK 0 [] (writeStat 0x12 w.2.1 u) else u))
  ∧ (∀ k op c s, (k, op) ∈ lineWrites → within op 0x20 0x28 = true →
    let x := reqIn op c {} s; let line := x.1.off / 64; let u := (foldFirst x.1 x.2).2
    reqClear op c {} s = true → mayFold x.1 x.2 = true → strictStopped x.1 x.2 = false → (foldFirst x.1 x.2).1 = 0 →
    (if combOpen u line then (comb u line).op = op ∧ (comb u line).width = atomicWidth x.1.param
     else mayFold x.1 u = true ∧ (combBay u (lineBay line)).length < 256) →
    exec (k c) s = .next (pump (foldInto x.1 u)))

/-- The lines of a ring's entry as MSG_TAKE reads them in turn: whether one is poisoned, and the state after. -/
def readEach (ls : List Nat) (s : State) : Bool × State :=
  ls.foldl (fun x l => let y := fetchLine l {} x.2; (x.1 || y.1, y.2)) (false, s)

def takeEach (ls : List Nat) (s : State) : Bool × State :=
  ls.foldl (fun x l => let y := accessLine l {} x.2; (x.1 || y.1 || pageUnusable x.2 (l / 1024), y.2)) (false, s)

/-- The control line of a ring can be read and written, its buffer is one, and its partition's node may use it. -/
def ringOpen (it : Item) (t : State) : Bool :=
  let cl := it.off / 64
  !combOpen t cl && lineQuiet cl t && isGo (prepWrite cl none t) && lineOpen cl t && readsGood cl t
  && ringOk t (ringAt t it.off) it.part && decide (ringCheck it (ringAt t it.off) t = sOK)

/-- MSG_APPEND to a ring with room writes the entry and TAIL and answers the new TAIL; MSG_TAKE of an empty ring answers length 0, and of a ring with a message answers it and moves HEAD (R156, R157). -/
def Obligations.MessageCommandsComplete : Prop :=
  (∀ c s n, let x := atTurn 0x70 c {} s n; let it := x.1; let t := x.2; let cl := it.off / 64
    let r := ringAt t it.off; let len := field it.payload 0 4; let size := (8 + len + 63) / 64 * 64
    let bytes := leBytes 4 len ++ leBytes 2 c.node ++ [0, 0] ++ slice it.payload 8 len
    let ws := (List.zipWith (fun a b => (a, [b])) (ringBytes r r.tail size) (bytes ++ List.replicate (size - bytes.length) 0))
      ++ [(it.off + 24, leBytes 8 (r.tail + size))]
    let u := (fetchLine cl {} t).2
    comes 0x70 c {} s n = true → ringOpen it t = true → size ≤ r.cap → r.tail + size - r.head ≤ r.cap →
    isGo (prepAll (fun l s => prepWrite l none s) (writeLines ws) u) = true → (writeLines ws).any (poisoned u) = false →
    isOpen ((writeLines ws).foldl (fun r l => match r with
      | .go => pageForWrite (l / 1024) u
      | r => r) Stop.go) = true → (allocFor it.part ws u).1 = 0 →
    let p := putLines it.part (itemWrite it) ws true (allocFor it.part ws u).2
    exec (.msgAppend c) s = onward 0x70 c {} s n (endWrite it p.1 sOK (r.tail + size) [] p.2))
  ∧ (∀ c s n, let x := atTurn 0x71 c {} s n; let it := x.1; let t := x.2; let cl := it.off / 64; let r := ringAt t it.off
    comes 0x71 c {} s n = true → ringOpen it t = true → r.head = r.tail →
    exec (.msgTake c) s = onward 0x71 c {} s n (endItem it sOK 0 [] (touchPage (cl / 1024) (fetchLine cl {} t).2)))
  ∧ (∀ c s n, let x := atTurn 0x71 c {} s n; let it := x.1; let t := x.2; let cl := it.off / 64; let r := ringAt t it.off
    let hl := ringLines r r.head 8; let len := leNat ((ringBytes r r.head 4).map (readByte t))
    let size := (8 + len + 63) / 64 * 64; let ml := ringLines r r.head size
    let u := (fetchLine cl {} t).2; let v := (readEach hl u).2; let w := (takeEach ml v).2
    comes 0x71 c {} s n = true → ringOpen it t = true → r.head ≠ r.tail →
    isGo (prepAll (fun l s => prepRead l s) hl u) = true →
    hl.all (fun l => !pageUnusable t (l / 1024) && lineReadable u l) = true → (readEach hl u).1 = false →
    within len 1 8192 = true → r.head + size ≤ r.tail → (16 + len + 63) / 64 * 64 ≤ frameRoom t c.node →
    isGo (prepAll (fun l s => prepRead l s) ml v) = true → ml.all (fun l => lineOpen l v) = true →
    isOpen (pageForWrite (cl / 1024) v) = true → (takeEach ml v).1 = false →
    let p := putLines it.part (itemWrite it) [(it.off + 16, leBytes 8 (r.head + size))] true w
    exec (.msgTake c) s = onward 0x71 c {} s n (endWrite it p.1 sOK len (((ringBytes r r.head (8 + len)).drop 8).map (readByte t))
      (setCtx c.node (fun y => { y with bucket := y.bucket.map fun b => b - (((units64 len - 1) * 640 : Nat) : Int) }) p.2)))

/-- The timers of transactions: a combining entry drains after 256 beats; an admitted request whose deadline passes ends TARGET_DEAD; a Weir window of the length set closes with its load levels (R133, R137, R151, R161). -/
def Obligations.TransactionTimersComplete : Prop :=
  (∀ l s, combOpen s l = true → elapsed s (comb s l).at_ (beatsNs s (lineBay l) 256) = true →
    exec (.combineDrainTimer l) s = .next (pump (drainComb l s)))
  ∧ (∀ n g it s, s.home.waitq.find? (fun x => decide (x.src = .agent n) && decide (x.tag = g)) = some it →
    elapsed s it.admitted (itemDeadline s it) = true → exec (.homeDeadline n g) s = .next (itemDead it s))
  ∧ (∀ a ca b cb s, s.pwr.pstate = .inService → elapsed s s.kt.weirAt (cfg s 0x050000 7 0 * 1000) = true →
    let t := s.onKt fun k => { k with
      lvlPlaneA := levelOf a ca, lvlPlaneB := levelOf b cb, windowed := true, weirAt := now s, waitInt := []
      lvlSlice := (List.range 16).foldl (fun m b => kput 0 m b (levelOf (kget 0 k.waitInt b) ((now s - s.kt.weirAt) * 4096))) [] }
    exec (.weirWindow a ca b cb) s = .next (t.kt.ctxs.foldl (fun u p => setCtx p.1 (fun c => { c with secSent := false }) u) t))

/-! ### Coherence (chapter 6) -/

/-- RD_SHARED, RD_OWN and UPGRADE of a line in I are granted with its data: GRANT 1 or, under GRANT_X of a line with a page, 2 for RD_SHARED; 2 for RD_OWN; 6 for UPGRADE (R177); of a poisoned line they are answered POISONED (R171). EVICT_CLEAN of the owner frees the entry. WB_DIRTY is performed on arrival: of the owner it writes the line and frees the entry, of another it is stale. GRANT_ACK of the grant that waits ends it; a routed one is answered DENIED (R125, R178, R179). -/
def Obligations.CoherenceRequestsComplete : Prop :=
  (∀ k op c s n, (k, op) ∈ [((Instr.rdShared : TxnReq → Instr), 0x50), (.rdOwn, 0x51), (.upgrade, 0x52)] →
    let x := atTurn op c {} s n; let it := x.1; let t := x.2; let line := it.off / 64
    let a := if op = 0x50 then (0, t) else allocFor it.part [(line * 64, [0])] t
    let r := accessLine line {} (a.2.onStore fun st => { st with newT3 := [] })
    let g := if op = 0x50 then (if bit (cfg t 0x060000 0 0) 0 && pageValid (page t (line / 1024)) && !it.shared then 2 else 1) else 2
    comes op c {} s n = true → combOpen t line = false → lineOpen line t = true → lineQuiet line t = true →
    poisoned t line = false →
    (op = 0x50 || (match setRule t (line * 64) (itemWrite it) with | .denied _ => false | _ => true)) = true →
    (op = 0x52 || !loadHeld t it.off) = true → setPinned t line = false →
    (dirMates t line).length < dirWays t line → a.1 = 0 → r.1 = false →
    exec (k c) s = onward op c {} s n (grantLine it c.node line g (if op = 0x52 then 6 else g) (readBytes t (line * 64) 64)
      (removeItem it.id r.2)))
  ∧ (∀ k op c s n, (k, op) ∈ [((Instr.rdShared : TxnReq → Instr), 0x50), (.rdOwn, 0x51), (.upgrade, 0x52)] →
    let x := atTurn op c {} s n; let it := x.1; let t := x.2; let line := it.off / 64
    comes op c {} s n = true → combOpen t line = false → lineBusy t line = false →
    (pageUnusable t (line / 1024) || poisoned t line) = true →
    exec (k c) s = onward op c {} s n (endItem it sPOISONED 0 (ffs 64) t))
  ∧ (∀ c s n, let x := atTurn 0x54 c {} s n; let it := x.1; let t := x.2; let line := it.off / 64
    comes 0x54 c {} s n = true → combOpen t line = false → lineBusy t line = false →
    (dirEnt t line).st = .x → (dirEnt t line).owner = c.node →
    exec (.evictClean c) s = onward 0x54 c {} s n (endItem it sOK 0 [] (freeDir line t)))
  ∧ (∀ c s, let x := reqIn 0x53 c {} s
    reqClear 0x53 c {} s = true → exec (.wbDirty c) s = .next (pump (serveWb x.1 (drainComb (x.1.off / 64) x.2))))
  ∧ (∀ c s, let line := c.addr.toNat % 2 ^ 50 / 64; let e := dirEnt s line
    (ctx s c.node).live = true → c.routed = false → recordOk 0x55 c = true → c.addr.toNat / 2 ^ 50 = homeIndex s →
    e.st = .g → e.grantee = c.node → e.grantTag = c.tag → exec (.grantAck c) s = .next (pump (grantDone line
      (setCtx c.node (fun y => { y with inbox := (takeInbox 0x55 c.tag (ctx s c.node).inbox).2.1 }) s))))
  ∧ (∀ c s, (ctx s c.node).live = true → c.routed = true → exec (.grantAck c) s = .next (sendRec c.node
      (.resp 0x55 c.tag sDENIED (loadLevel s c.node (lineBay (c.addr.toNat % 2 ^ 50 / 64)) (c.flags.toNat % 32) sDENIED) false 0 [])
      false false (setCtx c.node (fun y => { y with inbox := (takeInbox 0x55 c.tag (ctx s c.node).inbox).2.1 }) s)))

/-- The answers to snoops are counted and their data taken; the return of a Race invalidation ends its part of a transaction; a holder that answers too late is reported, or under a revocation removed; an agent's flush ends its part of a slice's; a flush ends after 1 ms (R177, R181, R185, R187, R189, R378). -/
def Obligations.SnoopEventsComplete : Prop :=
  (∀ r s line, awaitedLine s r.node r.tag false = some line → exec (.snpInvResponse r) s = .next (pump (snoopAnswered line r false s)))
  ∧ (∀ r s line, awaitedLine s r.node r.tag true = some line → exec (.snpDownResponse r) s = .next (pump (snoopAnswered line r true s)))
  ∧ (∀ line s, (dirEnt s line).race = true → exec (.raceInvReturn line) s
      = .next (pump (endTxn line (setDir line (fun e => { e with race := false }) (bufDrop line s)))))
  ∧ (∀ line s, let e := dirEnt s line; let who := if e.st = .g then [e.grantee] else e.acks.map (·.1)
    who ≠ [] → e.st.transient = true → e.late = false → elapsed s e.since (snoopLimit s) = true →
    (e.st = .g ∨ (e.revoking = false ∧ revokedLine s line = false)) →
    exec (.snoopLimitExpiry line) s = .next (who.foldl (fun u n =>
      event { cls := 3, code := 2, kind := kNode, unit := n, addr := globalOf u (line * 64) } (bump (aCOH 7) u))
      (setDir line (fun e => { e with late := true }) s)))
  ∧ (∀ line s, let e := dirEnt s line
    e.acks ≠ [] → e.st.transient = true → e.st ≠ .g → e.late = false → elapsed s e.since (snoopLimit s) = true →
    (e.revoking = true ∨ revokedLine s line = true) → exec (.snoopLimitExpiry line) s = .next (pump (sweepLate line s)))
  ∧ (∀ n g s b l, s.home.flushDue.find? (fun p => p.2.contains (n, g)) = some (b, l) → b < 16 →
    let left := l.filter fun a => decide (a ≠ (n, g))
    let t := s.onHome fun h => { h with flushDue := kput [] h.flushDue b left }
    exec (.snpFlushBayResponse n g) s = .next (if left.isEmpty then pump (finishFlush b t) else t))
  ∧ (∀ b s, sliceSt s b = .flushing → elapsed s (kget 0 s.home.flushAt b) 1000000 = true →
    exec (.sliceFlushTimeout b) s = .next (pump (finishFlush b s)))

/-! ### Operation streams (chapters 8 and 9) -/

/-- The scalar and synchronisation words that are complete at issue: NOP, LI, ALU, WAIT_ALL, WAIT_MULTI and TOKEN_SET do what Table 8.6 gives; HALT stops issue; a BR whose condition does not hold, and a LOOP that has counted to 0, go on with the next word, and the others branch (R233, R234, R238). -/
def Obligations.ScalarWordsComplete : Prop :=
  (∀ op c f, (op, c, f) ∈ ([
      (0x00, .nop, fun _ t => t), (0x01, .halt, fun _ t => { t with halted := true }),
      (0x02, .li, fun i t => setReg (wRd i.word) (wImm i.word) t),
      (0x03, .alu, fun i t => setReg (wRd i.word) (aluOp (wFunc i.word) i.base (if wImmB i.word then wImm i.word else i.rbase)) t),
      (0x40, .waitAll, fun _ t => t), (0x41, .waitMulti, fun _ t => t),
      (0x42, .tokenSet, fun i t => (List.range 64).foldl (fun t k => if bit (wImm i.word) k then setTok k (wCount i.word) t else t) t)]
      : List (Nat × Instr × (Issued → Stream → Stream))) →
    ∀ sid w s, headIs op sid w s = true → scalarOk w = true →
      let i := issuedOf (stream s sid) w
      exec c s = .next (settle sid (completeWord sid i.num (setStream sid (f i) (wordIn sid w s)))))
  ∧ (∀ sid w s, headIs 0x04 sid w s = true → scalarOk w = true →
    let i := issuedOf (stream s sid) w
    let b := if wImmB w then sext 32 (wf w 223 192) else i.rbase
    exec .br s = .next (settle sid (if brCond (wFunc w) i.base b then branchTo sid i (wordIn sid w s)
      else completeWord sid i.num (wordIn sid w s))))
  ∧ (∀ sid w s, headIs 0x05 sid w s = true → scalarOk w = true →
    let i := issuedOf (stream s sid) w
    let v := (regVal (stream (wordIn sid w s) sid) (wRd w) + 2 ^ 64 - 1) % 2 ^ 64
    let t := setStream sid (setReg (wRd w) v) (wordIn sid w s)
    exec .loop s = .next (settle sid (if v ≠ 0 then branchTo sid i t else completeWord sid i.num t)))

/-- LD at an aligned address asks the home for its bytes; ST, NOTIFY and a CALL of an opcode that streams may submit go to their engines at once where YM5_ORDER does not hold them back (R239, R240, R263). -/
def Obligations.RequestWordsComplete : Prop :=
  (∀ sid w s, headIs 0x06 sid w s = true → scalarOk w = true →
    let i := issuedOf (stream s sid) w
    wordAddr i % 8 = 0 → exec .ld s = .next (settlePump sid (settle sid (submit sid i.num 0x101 (wordAddr i) 0 [] (wordIn sid w s)))))
  ∧ (∀ sid w s, headIs 0x07 sid w s = true → scalarOk w = true →
    let i := issuedOf (stream s sid) w
    wordAddr i % 8 = 0 → (stream (wordIn sid w s) sid).ym5 = false →
    exec .st s = .next (settlePump sid (settle sid (launch sid i (wordIn sid w s)))))
  ∧ (∀ op c, (op, c) ∈ ([(0x43, .notifyWord), (0x50, .call)] : List (Nat × Instr)) →
    ∀ sid w s, headIs op sid w s = true → scalarOk w = true → (stream (wordIn sid w s) sid).ym5 = false →
    (op = 0x50 → wKtop w ∈ [0x60, 0x64, 0x65, 0x68]) → exec c s = .next (settlePump sid (settle sid (launch sid (issuedOf (stream s sid) w) (wordIn sid w s)))))

/-- The vector words by opcode (Table 8.10). -/
def vectorWords : List (Nat × Instr) :=
  [(0x20, .vecAdd), (0x21, .vecSub), (0x22, .vecMul), (0x23, .vecFma), (0x24, .vecMin), (0x25, .vecMax), (0x26, .vecCmp),
   (0x27, .vecSel), (0x28, .vecDiv), (0x29, .vecSqrt), (0x2A, .vecFunc1), (0x2B, .vecCvt), (0x2C, .vecCvtBs), (0x2D, .vecRedRow),
   (0x2E, .vecRedAll)]

/-- MM, whose CHAIN input is of its own class, and the vector words, passing their rules, draw what stochastic rounding asks of each bay's generator and hold their results in their engine until they complete; COPY_IN and COPY_OUT enter the DMA engine; COPY_BAY holds the bytes it reads (R217, R241-R246, R258). -/
def Obligations.EngineWordsComplete : Prop :=
  (∀ sid w s, headIs 0x10 sid w s = true →
    let i := issuedOf (stream s sid) w; let t := wordIn sid w s; let f := mmFields w i.base
    mmCheck t (stream t sid).part f = none → chainBad t (stream t sid) i.num f = false →
    let r := mmResults t (overlayRead t (stream t sid) .mm i.num) f
    let u := setStream sid (modIssued i.num fun y => { y with writes := r.1, flags := r.2, started := false })
      (drawn f.rnd (f.drawsIn t) t)
    exec .mm s = .next (settle sid { u with free := u.free + f.results }))
  ∧ (∀ op c, (op, c) ∈ vectorWords → ∀ sid w s, headIs op sid w s = true →
    let i := issuedOf (stream s sid) w; let t := wordIn sid w s; let f := vecFields w i.base i.rbase
    vecCheck t (stream t sid).part f = none →
    let r := vecResults t (overlayRead t (stream t sid) .vec i.num) f
    let u := setStream sid (modIssued i.num fun y => { y with writes := r.1, flags := r.2, started := false })
      (drawn f.rnd (f.drawsIn t) t)
    exec c s = .next (settle sid { u with free := u.free + f.draws }))
  ∧ (∀ sid w s, headIs 0x30 sid w s = true →
    let i := issuedOf (stream s sid) w; let t := wordIn sid w s
    dmaCheck t (stream t sid).part i = none →
    exec .copyIn s = .next (settlePump sid (settle sid (submit sid i.num 0x103 0 0 [] t))))
  ∧ (∀ sid w s, headIs 0x31 sid w s = true →
    let i := issuedOf (stream s sid) w; let t := wordIn sid w s
    dmaCheck t (stream t sid).part i = none → (stream t sid).ym5 = false →
    exec .copyOut s = .next (settlePump sid (settle sid (launch sid i t))))
  ∧ (∀ sid w s, headIs 0x32 sid w s = true →
    let i := issuedOf (stream s sid) w; let t := wordIn sid w s
    dmaCheck t (stream t sid).part i = none → bayCheck t (stream t sid).part i = none →
    let ws := (bayLines i).flatMap fun x => (List.range 64).map fun k =>
      (spKey ((physBay t x.2.1).getD 0) (x.2.2 + k), kget 0 t.core.scratch (spKey ((physBay t x.1.1).getD 0) (x.1.2 + k)))
    exec .copyBay s = .next (settle sid (setStream sid (modIssued i.num fun y => { y with writes := ws, value := some (sOK, 0) }) t)))

/-- An answered word of a concurrent engine, with what its answer leaves. -/
def answered (sid num op : Nat) (w : Issued) (s : State) : Prop :=
  findIssued (stream s sid) num = some w ∧ w.live = true ∧ wOp w.word = op

/-- MM_COMPLETE and VECTOR_COMPLETE land the results of the started word and complete it; a copy, LD, ST or CALL answered OK completes, the register taking the value read or answered (R234, R239, R240, R246). -/
def Obligations.WordCompletionsComplete : Prop :=
  (∀ sid w s, startedWord s .mm = some (sid, w) →
    exec .mmComplete s = .next (settle sid (completeWord sid w.num (markChain w (landWrites w.writes (mmStats sid w s))))))
  ∧ (∀ sid w s, startedWord s .vec = some (sid, w) →
    exec .vectorComplete s = .next (settle sid (completeWord sid w.num (landWrites w.writes (bump (aCORE 1) s)))))
  ∧ (∀ sid num op w v s, within op 0x30 0x32 = true → answered sid num op w s → w.value = some (sOK, v) →
    exec (.dmaCopyComplete sid num) s = .next (settlePump sid (completeWord sid w.num (landWrites w.writes s))))
  ∧ (∀ sid num w v s, answered sid num 0x06 w s → w.value = some (sOK, v) →
    exec (.ldComplete sid num) s = .next (settlePump sid (completeWord sid w.num (setStream sid (setReg (wRd w.word) v) s))))
  ∧ (∀ sid num w v s, answered sid num 0x07 w s → w.value = some (sOK, v) →
    exec (.stComplete sid num) s = .next (settlePump sid (completeWord sid w.num s)))
  ∧ (∀ sid num w v s, answered sid num 0x50 w s → w.value = some (sOK, v) →
    exec (.callComplete sid num) s = .next (settlePump sid (completeWord sid w.num (setStream sid (fun t =>
      let u := setReg (wRd w.word) v t
      if bit (wFunc w.word) 0 then setReg (wRb w.word) sOK u else u) s))))

/-- The scheduler begins the ready stream of the partition with the least virtual time; at the end of a slice the stream that runs is to make way for another partition that has had less; at an operation boundary it is suspended; a stream that has run MAX_MS is stopped TIMEOUT; a word fetch asks the home for its line (R232, R247-R249). -/
def Obligations.SchedulerComplete : Prop :=
  (∀ s p sid, inService s = true → s.core.cur = none → s.core.lostSeq = false → s.core.lostDma = false →
    leastV s (readyParts s) = some p → readyOf s p = some sid → exec .streamSchedule s = .next (beginStream sid s))
  ∧ (∀ s sid p, let t := stream s sid; let others := (readyParts s).filter fun q => decide (q ≠ t.part)
    s.core.cur = some sid → s.core.suspending = false → t.stopping = false → others ≠ [] →
    elapsed s t.sliceSince (cfg s 0x070300 31 16 * 1000) = true → p ≠ t.part →
    leastV (accrue sid s) ((List.range 32).filter fun q => q = t.part || others.contains q) = some p →
    exec .sliceUsExpiry s = .next ((accrue sid s).onCore fun c => { c with suspending := true }))
  ∧ (∀ s sid, s.core.cur = some sid → s.core.suspending = true → atBoundary s = true →
    exec .operationBoundary s = .next (bump (aCORE 9)
      ((setStream sid (fun t => { t with st := .suspended }) (accrue sid s)).onCore fun c => { c with cur := none, suspending := false })))
  ∧ (∀ s sid, let t := stream s sid
    s.core.cur = some sid → (if t.maxMs = 0 then 60000 else t.maxMs) * 1000000 ≤ t.runNs + (now s - t.since) →
    exec .maxMsExpiry s = .next (settle sid (stopStream sid sTIMEOUT 10 s)))
  ∧ (∀ s sid i, let t := stream s sid
    s.core.cur = some sid → t.stopping = false → t.halted = false → s.core.suspending = false → fetchedAt t i = .no →
    t.pc ≤ i → i < t.pc + 256 → i < t.count →
    (s.home.waitq.find? fun x => x.op = 0x100 && x.src = .call sid x.tag && (t.base + 32 * x.param) / 64 = (t.base + 32 * i) / 64) = none →
    exec (.streamWordFetch i) s = .next (settle sid (pump (submit sid i 0x100 ((t.base + 32 * i) % 2 ^ 64) i [] s))))

/-! ### Querns (chapter 10) -/

/-- The operations of QN_EXEC by OP (Table 10.4). -/
def quernRows : List (Nat × (TxnReq → Instr)) :=
  [(0, .fill), (1, .copy), (2, .compare), (3, .reduce), (4, .digest), (5, .ecEncode), (6, .ecCombine)]

/-- FILL, COPY, COMPARE, REDUCE, DIGEST, EC_ENCODE and EC_COMBINE read their descriptor once, and the list it names; passing the checks of R271 and R274 they set out the portions of their invocation and answer an interim response; QN_PORTION_DONE works a portion (R267, R270, R274, R275). -/
def Obligations.QuernExecComplete : Prop :=
  (∀ op k c s n, (op, k) ∈ quernRows →
    let x := atTurn 0x60 c {} s n; let it := x.1; let t := x.2
    opNamed op c s = true → comes 0x60 c {} s n = true → (kget {} t.eng.invs it.id).live = false → it.descs = [] →
    readsClean it (linesOf it.off 64) t = true →
    exec (k c) s = onward 0x60 c {} s n
      (keepRead it (readBytes t it.off 64) (engAccess (readFor it) (linesOf it.off 64) t).2))
  ∧ (∀ op k c s n d rest, (op, k) ∈ quernRows →
    let x := atTurn 0x60 c {} s n; let it := x.1; let t := x.2; let lines := field d 4 4
    opNamed op c s = true → comes 0x60 c {} s n = true → (kget {} t.eng.invs it.id).live = false → it.descs = d :: rest →
    field d 0 1 = op → qdescOk d = true → regionsCheck t it (execRegions d) = sOK → (op = 5 ∨ op = 6 → rest ≠ []) →
    ∀ l, (if op = 5 || op = 6 then qlist op lines (field d 3 1) (field d 8 8) (field d 24 8) (rest.headD []) else some []) = some l →
    regionsCheck t it (l.map fun e => (e.1, lines * 64, false)) = sOK →
    let q := execInv it d l t
    (q.portions.all fun p => decide (quernLoad t p.quern + (q.portions.filter fun x => x.quern = p.quern).length ≤ 64)) = true →
    let u := t.onEng fun e => { e with invs := kput {} e.invs it.id q }
    exec (k c) s = onward 0x60 c {} s n (if it.flash then u else engInterim it u))
  ∧ (∀ i k s, (kget {} s.eng.invs i).live = true → exec (.qnPortionDone i k) s = .next (pump (qportion i k s)))

/-- QN_GROUP OPEN with a sound control line takes the group, open from its response, and writes the line; DONE counts, and the last one closes the group with its verdict; ABANDON marks an open group and closes it once the contributions already admitted are performed; QN_ECDELTA adds its scaled bytes to its lines (R281, R283, R285, R289). QN_CONTRIB to an open group, with its check value right and no fault injected, reduces its lines into the target, and the group's sums take the terms of R282. -/
def Obligations.QuernGroupComplete : Prop :=
(∀ c s n, let x := atTurn 0x62 c {} s n; let it := x.1; let t := x.2
    let d := readBytes t it.off 64; let tg := field d 0 8
    let g : QGroup := { opening := true, part := it.part, target := tg % 2 ^ 50, lines := field d 8 4, rfmt := field d 12 1
                        rop := field d 13 1, n := field d 16 2, key := field d 24 8 }
    let t2 := if it.flash then t else engInterim it t
    let t3 := (engAccess (readFor it) (targetLines g) t2).2; let ds := targetSum t3 g
    let g' := { g with initD := ds.1, flags := b2n ds.2 }
    let p := engPut it.part (engWrite it 0x12) [(it.off, groupLine t3 { g' with flags := 0 } 1)] t3
    c.param.toNat = 0 → comes 0x62 c {} s n = true →
    isReady (engReady (readFor it) [it.off / 64] [it.off / 64] t) = true → (engAccess (readFor it) [it.off / 64] t).1 = [] →
    (group t it.off).opened = false → (group t it.off).opening = false →
    (tg % 64 = 0 && within g.lines 1 32768 && g.rfmt ≤ 5 && g.rop ≤ 2 && 1 ≤ g.n && keyOk g.key) = true →
    regionsCheck t it [(tg, g.lines * 64, true)] = sOK →
    ¬ (g.target ≤ it.off ∧ it.off < g.target + g.lines * 64) → t.eng.groups.length < 256 →
    readsClean it (targetLines g) t2 = true → p.1 = 0 →
    exec (.qnGroupOpen c) s = onward 0x62 c {} s n
      (endWrite it p.2.1 sOK ds.1 [] (countSum g (setGroup it.off (fun _ => g') p.2.2))))
  ∧ (∀ c s n, let x := atTurn 0x62 c {} s n; let it := x.1; let t := x.2; let g := group t it.off
    c.param.toNat = 1 → comes 0x62 c {} s n = true → g.opened = true → g.abandoned = false →
    g.done + 1 < g.n → exec (.qnGroupDone c) s = onward 0x62 c {} s n (endItem it sOK (g.done + 1) []
      (setGroup it.off (fun g => { g with done := g.done + 1, claimD := (g.claimD + field it.payload 0 8) % lsumP }) t)))
  ∧ (∀ c s n, let x := atTurn 0x62 c {} s n; let it := x.1; let t := x.2; let g := group t it.off
    let ls := if g.rop = 0 && !bit g.flags 0 then targetLines g else []
    let a := engAccess (readFor it) ls t
    let f := if ls.isEmpty then (0, false) else targetSum a.2 g; let claim := (g.claimD + field it.payload 0 8) % lsumP
    let special := bit g.flags 0 || f.2; let claimBad := decide (claim ≠ g.recvD)
    let resBad := g.rop = 0 && !special && decide ((f.1 + g.errD) % lsumP ≠ (g.initD + g.recvD) % lsumP)
    let poison := bit g.flags 4
    let fl := b2n special + 2 * b2n claimBad + 4 * b2n resBad + 8 * b2n (decide (g.rop ≠ 0)) + 16 * b2n poison
      + (if bit g.flags 6 then 64 else 0)
    let ok := !claimBad && !resBad && !poison && !bit g.flags 6
    let r := closeGroup it.off { g with done := g.done + 1, claimD := claim, flags := fl } ok (if ls.isEmpty then a.2 else countSum g a.2)
    c.param.toNat = 1 → comes 0x62 c {} s n = true → g.opened = true → g.abandoned = false →
    g.n ≤ g.done + 1 → isReady (engReady (readFor it) ls [it.off / 64] t) = true → a.1 = [] →
    exec (.qnGroupDone c) s = onward 0x62 c {} s n
      (endWrite it r.1 (if ok then sOK else if poison then sPOISONED else sFAULT) fl [] r.2))
  ∧ (∀ c s n, let x := atTurn 0x62 c {} s n; let it := x.1; let t := x.2; let g := group t it.off
    c.param.toNat = 2 → comes 0x62 c {} s n = true → g.opened = true → g.abandoned = false →
    exec (.qnGroupAbandon c) s = onward 0x62 c {} s n (abandonFrom it.id (fun o _ => o = it.off) 0 t))
  ∧ (∀ c s n, let x := atTurn 0x62 c {} s n; let it := x.1; let t := x.2; let g := group t it.off
    let r := closeAbandoned it.off t
    c.param.toNat = 2 → comes 0x62 c {} s n = true → g.opened = true → g.abandoned = true →
    groupBusy t it.off g.abandonedAt = false → isReady (engReady (readFor it) [] [it.off / 64] t) = true →
    exec (.qnGroupAbandon c) s = onward 0x62 c {} s n (endWrite it r.1 sOK 0 [] r.2))
  ∧ (∀ c s n, let x := atTurn 0x63 c {} s n; let it := x.1; let t := x.2; let cnt := field it.payload 0 1
    let ls := (List.range cnt).map fun i => it.off / 64 + i; let a := engAccess (readFor it) ls t
    let ws := (List.range cnt).map fun i =>
      (it.off + 64 * i, xorBytes (readBytes a.2 (it.off + 64 * i) 64) (gfScale it.param (slice it.payload (8 + 64 * i) 64)))
    let p := engPut it.part (engWrite it 0x63) ws a.2
    let u := bumpBy (aQN 5) cnt (bumpBy (0x080100 + quernOf t (it.off / 65536)) (2 * cnt)
      (a.1.foldl (fun s l => poisonLine l none false s) p.2.2))
    comes 0x63 c {} s n = true →
    (ls.all fun l => match setRule t (l * 64) (engWrite it 0x63) with | .denied _ => false | _ => true) = true →
    isReady (engReady (engWrite it 0x63) ls ls t) = true → p.1 = 0 →
    exec (.qnEcdelta c) s = onward 0x63 c {} s n (endWrite it p.2.1 (if a.1.isEmpty then sOK else sPOISONED) 0 [] u))
  ∧ (∀ c s n, let x := atTurn 0x61 c {} s n; let it := x.1; let t := x.2
    let go := field it.payload 0 8; let g := group t (go % 2 ^ 50); let cnt := it.param + 1; let data := slice it.payload 16 (64 * cnt)
    let ls := (List.range cnt).map fun i => it.off / 64 + i; let a := engAccess (readFor it) ls t
    let q := quernOf t (it.off / 65536)
    let res := (List.range cnt).map fun i =>
      contribLine g ((it.off - g.target) / 64 + i) (readBytes a.2 (it.off + 64 * i) 64) (slice data (64 * i) 64)
    let ws := ((List.range cnt).zip res).map fun y => (it.off + 64 * y.1, y.2.1)
    let p := engPut it.part (engWrite it 0x61) ws a.2
    let u := setGroup (go % 2 ^ 50) (fun g => { g with
      recvD := res.foldl (fun d y => (d + y.2.1) % lsumP) g.recvD, errD := res.foldl (fun d y => (d + y.2.2.1) % lsumP) g.errD
      flags := g.flags ||| b2n (res.any fun y => y.2.2.2), querns := if g.querns.contains q then g.querns else g.querns ++ [q] }) p.2.2
    comes 0x61 c {} s n = true →
    regionsCheck t it [(go, 64, true), (globalOf t it.off, 64 * cnt, true)] = sOK → g.opened = true → g.abandoned = false →
    abandonAhead t (go % 2 ^ 50) it.id = false → g.target ≤ it.off →
    it.off + 64 * cnt ≤ g.target + g.lines * 64 → crc64 data = field it.payload 8 8 →
    isReady (engReady (engWrite it 0x61) ls ls t) = true → a.1 = [] → takeArmed kQuern q [0x50] a.2 = (none, a.2) → p.1 = 0 →
    exec (.qnContrib c) s = onward 0x61 c {} s n (endWrite it p.2.1 sOK 0 []
      (bump (aQN 1) (bumpBy (0x080100 + q) (2 * cnt) u))))

/-! ### Hoist (chapter 11) -/

/-- The entries of a ROWGRAD record: where each begins, its ROW, and the elements of a row of its table. -/
def rowEntries (p : List Byte) (x : Tables) : Nat → Nat → List (Nat × Nat × Nat)
  | 0, _ => []
  | n + 1, o =>
    let r := field p o 8
    let d := if bit r 63 then (match x.p with | some q => q.dim | none => 0) else x.t.dim
    (o, r, d) :: rowEntries p x n (o + 8 + (4 * d + 7) / 8 * 8)

/-- A row that an entry may name. -/
def rowNamed (x : Tables) (r : Nat) : Bool :=
  if bit r 63 then (match x.p with | some q => decide (r % 2 ^ 63 < q.rows) | none => false) else decide (r < x.t.rows)

/-- HS_LOOKUP, its descriptors read, its checks passed and its lists and rows ready, is performed; so is HS_GRAD, whose contributions are merged into the open step, and HS_ROWGRAD, which names its rows itself (R300, R312-R314). -/
def Obligations.HoistDataComplete : Prop :=
  (∀ c s n, let x := atTurn 0x64 c {} s n; let it := x.1; let t := x.2; let l := ldesc (it.descs.headD [])
    let tb := tablesOf (it.descs.getD 1 []) (it.descs.getD 2 [])
    comes 0x64 c {} s n = true → lookupReady it l tb t = true →
    exec (.hsLookup c) s = onward 0x64 c {} s n (performLookup it tb l l.listLines t))
  ∧ (∀ c s n u, let x := atTurn 0x65 c {} s n; let it := x.1; let t := x.2; let l := ldesc (it.descs.headD [])
    let h := (hstep t (l.table % 2 ^ 50)).tables
    let a := engAccess (readFor it) (gradLists l (composedDim h.t h.p)) t
    let b := engAccess (holdFor it) (gradRows l h t) a.2
    let cs := gradContribs (a.1 ++ b.1) t h l
    let inv := ((List.range l.n).filter fun k => (rowOf h.t h.p (listAt t l.idx 8 k)).isNone).length
    comes 0x65 c {} s n = true → gradReady it l t = true →
    mergeAll (l.table % 2 ^ 50) cs (bumpBy (aHS 3) inv b.2) = some u →
    exec (.hsGrad c) s = onward 0x65 c {} s n (endItem it (if cs.any (·.2.2) then sPOISONED else sOK)
      (((cs.map (·.1)).dedup).length * 2 ^ 32 + cs.length) [] u))
  ∧ (∀ c s n u, let x := atTurn 0x66 c {} s n; let it := x.1; let t := x.2; let h := (hstep t it.off).tables
    let es := rowEntries it.payload h (field it.payload 4 2) 8
    let top := match es.getLast? with | some (o, _, d) => o + 8 + (4 * d + 7) / 8 * 8 | none => 8
    comes 0x66 c {} s n = true → stepTag t it.off (field it.payload 0 4) = none →
    regionsCheck t it (h.regions (globalOf t it.off) false true) = sOK → field it.payload 6 2 = 0 →
    it.payload.length = top → (es.all fun e => rowNamed h e.2.1) = true →
    mergeAll it.off (es.map fun e => ((if bit e.2.1 63 then 2 * (e.2.1 % 2 ^ 63) + 1 else 2 * e.2.1),
      (List.range e.2.2).map (fun i => roundP 30 (fmtDecode 9 (field it.payload (e.1 + 8 + 4 * i) 4))), false)) t = some u →
    exec (.hsRowgrad c) s = onward 0x66 c {} s n (endItem it sOK 0 [] u))

/-- HS_STEP OPEN takes a step slot with the descriptors as they are; DONE before the last counts; ABANDON drops the step's gradient and opens the next step; END releases the slot; the close of a step runs; a hot slot's refresh comes when its period has passed (R311, R315, R317-R319). -/
def Obligations.HoistStepsComplete : Prop :=
  (∀ c s n, let x := atTurn 0x67 c {} s n; let it := x.1; let t := x.2
    let h := tablesOf (it.descs.getD 0 []) (it.descs.getD 1 [])
    c.param.toNat = 0 → comes 0x67 c {} s n = true → 2 ≤ it.descs.length →
    h.ok = true → h.t.scaled = false → field it.payload 4 2 ≠ 0 →
    regionsCheck t it (h.regions (globalOf t it.off) false true) = sOK →
    (hstep t it.off).taken = false → t.eng.steps.length < 64 →
    exec (.hsStepOpen c) s = onward 0x67 c {} s n (endItem it sOK (field it.payload 0 4) [] (setHstep it.off (fun _ =>
      { taken := true, part := it.part, step := field it.payload 0 4, n := field it.payload 4 2, desc := h.d, pdesc := h.pd }) t)))
  ∧ (∀ c s n, let x := atTurn 0x67 c {} s n; let it := x.1; let t := x.2; let h := hstep t it.off
    c.param.toNat = 1 → comes 0x67 c {} s n = true → h.closing = none → stepTag t it.off (field it.payload 0 4) = none →
    regionsCheck t it (h.tables.regions (globalOf t it.off) false true) = sOK → h.done + 1 < h.n →
    exec (.hsStepDone c) s = onward 0x67 c {} s n (endItem it sOK (h.done + 1) []
      (setHstep it.off (fun h => { h with done := h.done + 1 }) t)))
  ∧ (∀ c s n, let x := atTurn 0x67 c {} s n; let it := x.1; let t := x.2; let h := hstep t it.off
    c.param.toNat = 1 → comes 0x67 c {} s n = true → h.closing = none → stepTag t it.off (field it.payload 0 4) = none →
    regionsCheck t it (h.tables.regions (globalOf t it.off) true true) = sOK → h.n ≤ h.done + 1 →
    exec (.hsStepDone c) s = onward 0x67 c {} s n (engInterim it
      (setHstep it.off (fun h => { h with done := h.done + 1, closing := some it.id }) t)))
  ∧ (∀ c s n, let x := atTurn 0x67 c {} s n; let it := x.1; let t := x.2; let h := hstep t it.off
    c.param.toNat = 2 → comes 0x67 c {} s n = true → h.closing = none → stepTag t it.off (field it.payload 0 4) = none →
    regionsCheck t it (h.tables.regions (globalOf t it.off) false true) = sOK →
    exec (.hsStepAbandon c) s = onward 0x67 c {} s n (endItem it sOK 0 [] (nextStep it.off (bump (aHS 7) t))))
  ∧ (∀ c s n, let x := atTurn 0x67 c {} s n; let it := x.1; let t := x.2; let h := hstep t it.off
    c.param.toNat = 3 → comes 0x67 c {} s n = true → h.taken = true → h.closing = none →
    regionsCheck t it (h.tables.regions (globalOf t it.off) false true) = sOK →
    exec (.hsStepEnd c) s = onward 0x67 c {} s n (endItem it sOK 0 []
      ((bump (aHS 7) t).onEng fun e => { e with steps := kput {} e.steps it.off {} })))
  ∧ (∀ tab it s, closingItem s tab = some it → exec (.hsStepCloseDone tab) s = .next (pump (closeStep tab s)))
  ∧ (∀ h s, inService s = true → h < 16 → cfg s (0x090202 + 4 * h) 63 63 = 1 →
    elapsed s (kget 0 s.eng.hotAt h) (cfg s (0x090202 + 4 * h) 47 32 * 1000000) = true →
    exec (.hotRefresh h) s = .next (pump (refreshHot h s)))

/-! ### Bolter (chapter 12) -/

/-- One slot of a BL_DELETE and its place in the record, after those before it: the status so far, the tombstones counted, and the state. A slot already VOID, DEAD or DELP, or poisoned, takes its number with a VOID entry (log entry 16). -/
def deleteOne (it : Item) (i : IDesc) (bad : List Nat) (r : Nat × Nat × State) (k : Nat × Nat) : Nat × Nat × State :=
  let nd := nodeRec r.2.2 i k.1
  let num := (i.next + k.2) % 2 ^ 32
  let skip := decide (bits nd.flags 3 1 ≠ 0) || (nodeLines i k.1).any (bad.contains ·)
  let e := engPutFor it (engWrite it 0x12)
    ((if skip then [] else [(i.nodeAt k.1, nodeBytes i { nd with flags := nd.flags ||| 2, delSeq := num })])
      ++ [(i.sideAt num, sideEntry num (if skip then 0 else 2) k.1)]) r.2.2
  (if r.1 = 0 then e.1 else r.1, if skip then r.2.1 else r.2.1 + 1, e.2)

/-- BL_SEARCH, taken up by its index, writes the results of its search and answers them with its stamp (R329-R337). BL_INSERT, BL_DELETE and BL_MERGE taken up by their index write its vectors, tombstones and links, and answer (R339-R343). -/
def Obligations.BolterCommandsComplete : Prop :=
  (∀ c s n nq, let x := atTurn 0x68 c {} s n; let it := x.1; let t := x.2; let q := qdesc (it.descs.headD [])
    let i := idesc (readBytes t (q.index % 2 ^ 50) 128); let st := it.search.getD {}
    let ql := linesOf (q.qvec % 2 ^ 50) (4 * i.dim); let raw := (List.range i.dim).map fun k => fmtDecode 9 (readNat t (q.qvec % 2 ^ 50 + 4 * k) 4)
    let f := if q.exh then runExhaustive t i q raw st else runSearch t i q raw nq st
    let u := (engAccess (holdFor it) f.lines.dedup (engAccess (readFor it) ql t).2).2
    let data := f.res.flatMap fun r => leBytes 4 r.1 ++ leBytes 4 r.2
    let p := if data.isEmpty then (0, [], u) else engPut it.part (engWrite it 0x12) [(q.out % 2 ^ 50, data)] u
    let short := decide (f.res.length < q.k)
    comes 0x68 c {} s n = true → it.descs ≠ [] → qdescOk' (it.descs.headD []) = true → indexReady it q.index t = true →
    isReady (engReady (readFor it) ql [] t) = true → ql.any (lineBad t) = false → normalize i.metric raw = some nq →
    isReady (engReady (holdWrite it 0x12) f.lines.dedup (linesOf (q.out % 2 ^ 50) (8 * f.res.length)) t) = true → p.1 = 0 →
    exec (.blSearch c) s = onward 0x68 c {} s n (endWrite it p.2.1 (if f.poison then sPOISONED else if short then sSHORT else sOK)
      (st.stamp * 2 ^ 32 + b2n f.cut * 2 ^ 31 + min 1048575 f.expansions * 2 ^ 11 + f.res.length) []
      (searchStats f q.exh (short && !f.poison) p.2.2)))
  ∧ (∀ c s n, let x := atTurn 0x69 c {} s n; let it := x.1; let t := x.2
    let i := idesc (readBytes t (globalOf t it.off % 2 ^ 50) 128)
    let vecs := field it.payload 0 8; let attrs := field it.payload 8 8; let cnt := field it.payload 16 2
    let book := (linesOf (i.book % 2 ^ 50) (i.dim * 1024)).dedup
    let vs : List NewVec := (List.range cnt).map fun k =>
      { slot := i.nodes + k, seq := (i.next + k) % 2 ^ 32, src := vecs % 2 ^ 50 + k * i.stride,
        attrAt := if attrs = 0 then 0 else attrs % 2 ^ 50 + 4 * k }
    let wr := vs.flatMap fun v => nodeLines i v.slot ++ [i.sideAt v.seq / 64]
    let a := engAccess (readFor it) book t
    let r := vs.foldl (fun (r : Option Nat × State) v =>
      let p := insertOne it i (!a.1.isEmpty) v r.2
      (r.1 <|> p.1, p.2)) (none, a.2)
    comes 0x69 c {} s n = true → indexReady it (globalOf t it.off) t = true →
    isReady (engReady (engWrite it 0x12) book ((it.off + 64) / 64 :: wr).dedup t) = true →
    (vs.all fun v => match newReady it i v t with
      | .wait _ => false
      | _ => true) = true →
    exec (.blInsert c) s = onward 0x69 c {} s n (endWrite it [] (r.1.getD sOK)
      (if r.1.isSome then 0 else i.nodes * 2 ^ 32 + i.next) [] (bumpBy (aBL 6) cnt r.2)))
  ∧ (∀ c s n, let x := atTurn 0x6B c {} s n; let it := x.1; let t := x.2
    let r := mergeGo (field it.payload 0 4 - it.value) it.value it t
    comes 0x6B c {} s n = true → indexReady it (globalOf t it.off) t = true →
    ∀ st, r.2.1 = some st → exec (.blMerge c) s = onward 0x6B c {} s n (endWrite it [] st r.1 [] r.2.2))
  ∧ (∀ c s n, let x := atTurn 0x6A c {} s n; let it := x.1; let t := x.2
    let i := idesc (readBytes t (globalOf t it.off % 2 ^ 50) 128); let cnt := field it.payload 0 2
    let slots := (List.range cnt).map fun k => field it.payload (8 + 4 * k) 4
    let ls := (slots.flatMap (nodeLines i)).dedup; let a := engAccess (readFor it) ls t
    let wr := (List.range cnt).map fun k => i.sideAt (i.next + k) / 64
    let d := slots.zipIdx.foldl (deleteOne it i a.1) (0, 0, a.2); let nx := (i.next + cnt) % 2 ^ 32
    let p := engPut it.part (engWrite it 0x12) [(it.off + 64, line1 { i with next := nx, vis := nx })] d.2.2
    let st := if d.1 ≠ 0 then d.1 else if p.1 ≠ 0 then p.1 else if a.1.isEmpty then sOK else sPOISONED
    comes 0x6A c {} s n = true → indexReady it (globalOf t it.off) t = true → (slots.any fun m => decide (i.nodes ≤ m)) = false →
    isReady (engReady (engWrite it 0x12) ls ((it.off + 64) / 64 :: ls ++ wr).dedup t) = true →
    exec (.blDelete c) s = onward 0x6A c {} s n
      (endWrite it p.2.1 st (if st = sOK then i.next else 0) [] (bumpBy (aBL 7) d.2.1 p.2.2)))
  ∧ (∀ n g it s, s.home.waitq.find? (fun x => decide (x.op = 0x68) && decide (x.src = namedSrc n g) && decide (x.tag = g) && x.search.isSome)
      = some it → halfGone it s = true → exec (.blTimeCut n g) s = .next (cutItem it s))
  ∧ (∀ i it s, s.home.waitq.find? (fun x => decide (x.op = 0x6B) && (match x.search with | some t => decide (t.index = i) | none => false))
      = some it → halfGone it s = true → exec (.blMergeTimeLimit i) s = .next (cutItem it s))

/-! ### Events of partitions, logs, Furl, sets and the Governor (chapters 13 to 17) -/

/-- A partition whose extents are all unowned or failed becomes disabled; a swept grant is freed; a drained extent is quarantined; the oldest quarantined extent is scrubbed where one of 16 places is free; a scrub with no mismatch leaves the extent unowned, and one with a mismatch is repeated, at most three times, before the extent fails (R374, R378, R379, R381, R383). -/
def Obligations.PartitionEventsComplete : Prop :=
  (∀ n s, let a := 0x070200 + n
    (part s n).enabled = true → (part s n).disabling = true →
    (s.sec.extents.any fun x => x.2.part = n && x.2.xstate ≠ 0 && !x.2.failed) = false →
    exec (.partDisableFinish n) s = .next
      (setPart n (fun p => { keyEpoch := p.keyEpoch }) (cwSetField a 7 0 0 (windowMoved (cwRaw s a) 0 s))))
  ∧ (∀ n e g s, s.sec.grants.find? (fun g => decide (g.node = n) && g.draining && g.has e) = some g → g.swept = true →
    sweepOpen g s = false → exec (.grantDrainDone n e) s
      = .next (bump (aSEC 3) (s.onSec fun x => { x with grants := x.grants.filter fun y => decide (y ≠ g) })))
  ∧ (∀ e s, (extent s e).xstate = 2 → drained s e = true → ∃ t, exec (.revokeDrainDone e) s = .next t
    ∧ (extent t e).xstate = 3 ∧ t.sec.quarantine = s.sec.quarantine ++ [e] ∧ t.store = s.store ∧ t.home = s.home)
  ∧ (∀ e r s, s.sec.quarantine = e :: r → s.sec.scrubbing.length < 16 → s.sec.nvState = .ready → inService s = true →
    ∃ t, exec .scrubStart s = .next t ∧ (extent t e).xstate = 4 ∧ (extent t e).scrubTries = 0 ∧ t.sec.quarantine = r
      ∧ t.sec.scrubbing = s.sec.scrubbing ++ [e] ∧ t.store = s.store)
  ∧ (∀ e v s, (extent s e).xstate = 4 → mismatched s e v = [] →
    exec (.scrubDone e v) s = .next (event { cls := 11, code := 0, part := some (extent s e).part, addr := globalOf s (e * 2 ^ 28), force := true }
      (bump (aSEC 4) (freeGrantsAt e ((setExtent e (fun _ => {}) ((extentPages s e).foldl (fun s p => dropPage p s) s)).onSec
        fun y => { y with scrubbing := y.scrubbing.filter fun x => decide (x ≠ e) })))))
  ∧ (∀ e v s, (extent s e).xstate = 4 → mismatched s e v ≠ [] → (extent s e).scrubTries < 3 →
    exec (.scrubDone e v) s = .next (setExtent e (fun x => { x with scrubTries := x.scrubTries + 1 }) s))

/-- A Felset session idle for FS_IDLE closes; an audit sector's erase advances AUDIT_BASE; the verification of an image slot gives ISTATE 2 or 3; the floor rises to that of the image that runs (R357, R369, R398, R400). -/
def Obligations.LogAndImageEventsComplete : Prop :=
  (∀ f s, (fsession s f).live = true → elapsed s (fsession s f).lastUse (cfg s 0x0D0200 31 20 * 1000000000) = true →
    exec (.fsIdleExpiry f) s = .next (closeFsession f s))
  ∧ (∀ s, let n := s.nor; let base := max n.auditBase (((n.auditNext - 1) / 512 - 254) * 512)
    n.auditErasing = true → (n.audit.filter fun e => decide (e.idx < base ∧ n.auditAcked ≤ e.idx)) = [] →
    exec .auditEraseDone s = .next (s.onNor fun n => { n with
      auditErasing := false, auditBase := base, audit := n.audit.filter fun e => decide (base ≤ e.idx) }))
  ∧ (∀ k s, (imgSlot s k).istate = 1 → (imgSlot s k).src = none → ∃ t, exec (.imgVerifyDone k) s = .next t
    ∧ imgSlot t k = { istate := if imageOk s { istate := 1, bytes := (imgSlot s k).bytes } then 2 else 3, bytes := (imgSlot s k).bytes })
  ∧ (∀ k off n s, let ls := linesOf off n; let u := s.onStore fun x => { x with t3Ready := (ls.map (· / 64)).dedup }
    let a := engAccess noWrite ls u
    (imgSlot s k).istate = 1 → (imgSlot s k).src = some (off, n) → stagable s (globalOf s off) n = true →
    isReady (engReady noWrite ls [] u) = true → exec (.imgVerifyDone k) s
      = .next (verified k (if a.1.isEmpty then readBytes a.2 off n else []) (a.2.onStore fun x => { x with t3Ready := [] })))
  ∧ (∀ k s, let f := min 64 (imgFloor (imgSlot s k) / 2 ^ 56)
    s.nor.runSlot = some k → inService s = true → s.sec.nvState = .ready → s.nor.floorSteps < f →
    ∃ t, exec .fwFloorBlow s = .next t ∧ fwFloor t = f * 2 ^ 56 ∧ t.nor.images = s.nor.images ∧ t.sec = s.sec)

/-- Each step of Furl entry is left when its work is done; admission opens again at the time WAKE fixed (R460, R464). A rebuild batch begins when the time of the one before is over, and goes phase by phase, each when the requests of the last are answered: the units are held at every member, the survivors read, the rebuilt units formed and written, the holds released, and the batch counted; one with an answer other than OK is begun again, the model's choice (R417; log entry 52). -/
def Obligations.FurlAndRebuildEventsComplete : Prop :=
  (∀ s, s.pwr.pstate = .furlEntry → s.pwr.furlStep = 0 → (s.core.streams.all fun x => x.2.st = .ended) = true →
    (s.eng.groups.any fun g => g.2.opened) = false → (s.home.waitq.any fun x => x.op = 0x6B) = false →
    exec .furlEntryStep s = .next (s.onPwr fun p => { p with furlStep := 1 }))
  ∧ (∀ s, s.pwr.pstate = .furlEntry → s.pwr.furlStep = 2 → (s.sec.extents.any fun x => x.2.xstate = 2 || x.2.xstate = 4) = false →
    exec .furlEntryStep s = .next (s.onPwr fun p => { p with furlStep := 3 }))
  ∧ (∀ s x, s.pwr.pstate = .waking → s.pwr.wakeAt = some x → x ≤ now s → exec .wakeAdmissionOpen s = .next (wakeOpen s))
  ∧ (∀ i y s, let t := setSt s i; let b := t.rbAt; let e := min (b + 64) (setUnits s i)
    let lost := (t.rbAll ++ fencedPositions s t).dedup; let valid := fun v p => if t.rbAll.contains p then v else setUnits s i
    let far := (List.range t.members.length).filter fun p => !lost.contains p && decide (p ≠ t.pos)
    let own := fun b' e' v => holdOwn i b' e' v s
    t.rbAll ≠ [] → t.master = nodeId s → inService s = true → t.rbOut = [] →
    (t.rbBad = true → exec (.rebuildBatch i y) s = .next (setSet i (fun t => { batchClear 0 t with rbGot := [] }) s))
    ∧ (t.rbBad = false → t.rbPhase = 0 → membersReached s t = true → unitsBusy s i b e = false → batchDue s t = true → (own b e (valid b t.pos)).1 = true →
      exec (.rebuildBatch i y) s = .next (pump (holdAll i b e (valid b) (setSet i (fun t => { batchClear 1 t with rbSince := some (now s) }) (own b e (valid b t.pos)).2))))
    ∧ (t.rbBad = false → t.rbPhase = 1 → exec (.rebuildBatch i y) s = .next (if t.mode = 2 then setSet i (batchClear 2) s
      else (List.range (e - b)).foldl (fun s k => far.foldl (fun s p => getUnit i p k (b + k) s) s) (setSet i (batchClear 2) s)))
    ∧ (t.rbBad = false → t.rbPhase = 2 → exec (.rebuildBatch i y) s = .next (pump (batchWrite i b e lost y s)))
    ∧ (t.rbBad = false → t.rbPhase = 3 → (own 0 0 (valid e t.pos)).1 = true →
      exec (.rebuildBatch i y) s = .next (pump (holdAll i 0 0 (valid e) (setSet i (batchClear 4) (own 0 0 (valid e t.pos)).2))))
    ∧ (t.rbBad = false → t.rbPhase = 4 → exec (.rebuildBatch i y) s = .next (pump (batchDone i b e s))))

/-- The Governor: the close of a unit's window is judged by Tables 16.5 and 16.7, or only starts the counts again where it is not judged; the close of the slow-bay window judges every bay in service; a decided map-out takes effect at an operation boundary; parity errors and rereads are counted, the fourth failure having its outcome; a spare row replaces a failed one; a patrol reads a line; folding ends after 1 ms; an injection makes its fault (R425, R433, R436, R444, R445, R450). -/
def Obligations.GovernorCommandsComplete : Prop :=
  (∀ k unit r s0, let s := noteFec k unit r s0
    let kind := unit / 65536; let u := unit % 65536; let h := unitH s unit; let n := kget 0 h.counts (evIdx k)
    let suspect := decide (evSuspectAt k ≤ n)
    let t := resetWindow k unit suspect (if k = .t1Corrected || k = .t2Corrected then markErased kind u s else s)
    let perm := columnPermanent k n (kget 0 (unitH t unit).runs (evIdx k)) (hist t unit).erased.length
    s0.gov.state ≠ 0 → evPairs k kind = true → u < unitCount kind → nobodyDecides s0 = false → notJudged s kind u = false →
    exec (.govWindowClose k unit r) s0 = .next (if suspect || perm
      then decideSuspect kind u (evWindow k) perm (kget false h.injected (evIdx k)) t else leaveSuspect kind u t))
  ∧ (∀ k unit r s0, let s := noteFec k unit r s0
    s0.gov.state ≠ 0 → evPairs k (unit / 65536) = true → unit % 65536 < unitCount (unit / 65536) → nobodyDecides s0 = false →
    notJudged s (unit / 65536) (unit % 65536) = true → exec (.govWindowClose k unit r) s0 = .next (resetWindow k unit false s))
  ∧ (∀ s, let ms := bayMeans s; let med := median2 (ms.map (·.2))
    let inj := fun b => s.gov.injects.any fun x => x.2.live && x.2.fault = 0x40 && x.2.unit = b && decide (0 < x.2.armed)
    s.gov.state ≠ 0 → nobodyDecides s = false → ((baysIn s).any fun b => decide (kget 0 s.pwr.slowWindows b < 100)) = false →
    canDecide s = true → s.pwr.throttle < 9 → exec .slowBayWindow s
      = .next (ms.foldl (fun t m => slowBayJudge m.1 (decide (m.2 * 200 < 92 * med)) (inj m.1) t)
        (useSlowInject (s.onPwr fun p => { p with slowSum := [], slowWindows := [] }))))
  ∧ (∀ b r s, s.core.mapOutDue = b :: r → atBoundary s = true → exec .bayMapOut s = .next (mapOutBay b s))
  ∧ (∀ e s, (e.kind = kBay ∨ e.kind = kDevice) → unitHere s e.kind e.unit = true →
    takeArmed e.kind e.unit [1, 2] s = (none, s) → 1 ≤ e.failures → e.failures ≤ 3 →
    exec (.leatParityError e) s = .next (countEvent .leatReplay e.kind e.unit 0 false s))
  ∧ (∀ e l s, (e.kind = kBay ∨ e.kind = kDevice) → unitHere s e.kind e.unit = true →
    takeArmed e.kind e.unit [1, 2] s = (none, s) → 4 ≤ e.failures → e.line = some l →
    exec (.leatParityError e) s = .next (poisonLine l (some (e.kind, e.unit)) false (countEvent .leatFailure e.kind e.unit 0 false s)))
  ∧ (∀ e s, unitHere s e.kind e.unit = true → takeArmed e.kind e.unit [3, 4] s = (none, s) → 1 ≤ e.failures → e.failures ≤ 3 →
    exec (.sramParityError e) s = .next (countEvent .sramReread e.kind e.unit 0 false s))
  ∧ (∀ e s, unitHere s e.kind e.unit = true → takeArmed e.kind e.unit [3, 4] s = (none, s) → 4 ≤ e.failures →
    exec (.sramParityError e) s = .next (setUnitH (unitKey e.kind e.unit)
      (fun u => { u with needSpare := kput false u.needSpare (arrayIdx e.array) true })
      (sramOutcome e false (countEvent .sramFailure e.kind e.unit 0 false s))))
  ∧ (∀ e b s, let key := unitKey e.kind e.unit
    let t := setUnitH key (fun u => { u with needSpare := kput false u.needSpare (arrayIdx e.array) false }) s
    let v := setUnitH key (fun u => { u with spares := min 255 (u.spares + 1) })
      (setHist key (fun h => { h with spares := kmod 0 h.spares (bankKey e b) (· + 1) }) t)
    kget false (unitH s key).needSpare (arrayIdx e.array) = true → kget 0 (hist t key).spares (bankKey e b) < 2 →
    exec (.spareRowReplace e b) s = .next (unitEvent 7 e.kind e.unit b
      (if e.array = .scratchpad then spWrite e.unit (e.key / 8 * 8) (List.replicate 8 0) v else v)))
  ∧ (∀ l y s, s.gov.state ≠ 0 → (lineUnit s l).isSome = true → pageLost s (l / 1024) = false → mediumReady s l = true →
    exec (.patrolRead l y) s = .next (tierRead l y (bump (aGOV 13) s)).2)
  ∧ (∀ k s, (kget {} s.gov.folds k).open_ = true → elapsed s (kget {} s.gov.folds k).at_ 1000000 = true →
    exec (.eventFoldExpiry k) s = .next (s.onGov fun g => { g with
      folds := kput {} g.folds k { kget {} s.gov.folds k with open_ := false } }))
  ∧ (∀ i s, let j := kget {} s.gov.injects i
    let t := bump (aGOV 12) (s.onGov fun g => { g with injects := kput {} g.injects i { j with
      left := j.left - 1, lastAt := now s, armed := if armsFault j.fault then j.armed + 1 else j.armed } })
    j.live = true → 1 < j.left → elapsed s j.lastAt (j.periodUs * 1000) = true →
    exec (.fiFaultTick i) s = .next (if armsFault j.fault then t else faultNow j t))

/-- The arbiter: a missed heartbeat moves the token to the other half where it can take it, and the transfer ends with a new generation; an arbiter fault freezes configuration and is reported; a write under an old generation is discarded, counted, and its half stands by; a mismatch of the Weir's copies sets every entry to a full bucket and nothing outstanding (R419-R421, R441). -/
def Obligations.ArbiterCommandsComplete : Prop :=
  (∀ s h, holderHalf s = some h → s.mach.arbFault = false → halfUp s (1 - h) = true →
    ∃ t, exec .tokenHeartbeatMissed s = .next t ∧ t.mach.holder = .transfer ∧ t.mach.lastHolder = s.mach.holder
      ∧ t.mach.toEast = decide (h = 0) ∧ t.mach.gen = s.mach.gen ∧ t.cw = s.cw ∧ t.store = s.store)
  ∧ (∀ s, s.mach.holder = .transfer → s.mach.arbFault = false → halfUp s (b2n s.mach.toEast) = true →
    ∃ t, exec .tokenTransferDone s = .next t ∧ t.mach.holder = (if s.mach.toEast then .east else .west)
      ∧ t.mach.gen = (s.mach.gen + 1) % 2 ^ 32 ∧ t.mach.unitGen = t.mach.gen ∧ t.mach.genCopy = t.mach.gen ∧ t.cw = s.cw)
  ∧ (∀ s, s.mach.arbFault = false → 2 ≤ s.pwr.startStep →
    let t := (s.onMach fun m => { m with arbFault := true }).onGov fun g => { g with state := if g.state = 2 then 3 else g.state }
    exec .arbiterFault s = .next (event { cls := 10, code := 0, nodes := some (enabledNotify t), force := true } t))
  ∧ (∀ h g s, h < 2 → (if h = 0 then s.mach.believesWest else s.mach.believesEast) = true → holderHalf s ≠ some h →
    g < s.mach.unitGen → exec (.staleConfigWrite h g) s = .next (event { cls := 10, code := 1, kind := kHalf, unit := h, detail := g }
      (bump (aSET 8) (s.onMach fun m => if h = 0 then { m with believesWest := false } else { m with believesEast := false }))))
  ∧ (∀ s, 11 ≤ s.pwr.startStep → exec .weirCopyMismatch s = .next
    (event { cls := (freeVal s).1.toNat % 13, code := (freeVal s).1.toNat / 16 % 16, kind := kDevice }
      ((freeVal s).2.kt.ctxs.foldl (fun t p => setCtx p.1 (fun c => { c with bucket := none, outstanding := 0 }) t) (freeVal s).2)))

/-! ### The machine as a whole -/

/-- The command at the front of the queue runs on the state with the rest of the queue. -/
def Obligations.StepRunsFrontCommand : Prop :=
  ∀ (s : State) (c : Instr) (cs : List Instr), s.pending = c :: cs → step s = exec c { s with pending := cs }

/-- With an empty queue the block idles for one tick, the model's choice (log entry 1): both timestamps of running management islands advance by 10 ns, and nothing else but the Weir's integral changes, where no Felset record waits at the command engine; where one waits, the engine then takes it up: the one in execution first, then the first of those behind it (R24). -/
def Obligations.EmptyQueueIsOneTick : Prop :=
  (∀ s : State, s.pending = [] → s.sec.hold = none → s.sec.waiting = [] → ∃ t, step s = .next t
    ∧ t.pwr.tsWest = s.pwr.tsWest + (if islandUp s 60 then 10 else 0) ∧ t.pwr.tsEast = s.pwr.tsEast + (if islandUp s 61 then 10 else 0)
    ∧ t = { s with pwr := { s.pwr with tsWest := t.pwr.tsWest, tsEast := t.pwr.tsEast }, kt := { s.kt with waitInt := t.kt.waitInt } })
  ∧ (∀ s h i, let t := tick s; let u := t.onSec fun x => { x with hold := none, going := some h.since }
    s.pending = [] → s.sec.hold = some h → fsRow h.fop h.cmd u = some i → step s = exec i u)
  ∧ (∀ s f c q, let t := tick s; let u := t.onSec fun x => { x with waiting := q, going := some (now t) }
    s.pending = [] → s.sec.hold = none → s.sec.waiting = (f, c) :: q →
    (∀ i, fsRow f c u = some i → step s = exec i u) ∧ (fsRow f c u = none → step s = .next (unknownFop f c u)))

/-- What each reset kind leaves (Table 17.1): the power-up reset keeps the NOR (the end of each injection is in the health log, R450) and what persists of the NAND blocks, and clears the rest; the device reset keeps the counters (with those that ending the injections moves, R460), timestamps, serials, TOKEN_GEN, key epochs, the fence table and the marks of pages whose page-map line was lost as well. -/
def Obligations.ResetsKeepWhatTheTableKeeps : Prop :=
  (∀ k b s, let t := powerUpReset k b s
    t.stats = [] ∧ t.cw = [] ∧ t.kt = {} ∧ t.home = {} ∧ t.core = {} ∧ t.eng = {} ∧ t.mach = {} ∧ t.gov = {}
    ∧ t.store = { millponds := keptBlocks s } ∧ t.pwr.tsWest = 0 ∧ t.pwr.tsEast = 0 ∧ t.sec = { drbg := s.sec.drbg }
    ∧ t.nor.audit = s.nor.audit ∧ t.nor.hlog = (endInjections s).nor.hlog ∧ t.nor.keySlots = s.nor.keySlots ∧ t.nor.straps = s.nor.straps
    ∧ t.nor.images = s.nor.images ∧ t.nor.floorSteps = s.nor.floorSteps ∧ t.pending = s.pending)
  ∧ (∀ k b s, let t := deviceReset k b s
    t.stats = (endInjections s).stats ∧ t.pwr.tsWest = s.pwr.tsWest ∧ t.pwr.tsEast = s.pwr.tsEast ∧ t.mach.fence = s.mach.fence ∧ t.mach.gen = s.mach.gen
    ∧ t.core = { serials := s.core.serials, beatRem := s.core.beatRem, waitRem := s.core.waitRem }
    ∧ t.store = { millponds := keptBlocks s, mapLost := s.store.mapLost.filter fun x => x.2 = 1 } ∧ t.kt = {} ∧ t.home = {} ∧ t.eng = {}
    ∧ t.sec.extents = [] ∧ t.sec.grants = [] ∧ t.sec.sessions = [] ∧ t.sec.mapKey = s.sec.mapKey ∧ (∀ n, (part t n).enabled = false)
    ∧ t.nor.audit = s.nor.audit ∧ t.nor.hist = s.nor.hist ∧ t.nor.keySlots = s.nor.keySlots ∧ t.nor.straps = s.nor.straps
    ∧ t.nor.images = s.nor.images ∧ t.pending = s.pending)

/-- The state after reset is in canonical form, with no counter above its maximum and an empty queue. -/
def Obligations.ResetStateIsCanonical : Prop := Canonical State.reset ∧ State.reset.pending = []

/-- Every step keeps the canonical form of the range and of the scratchpad, the maximum of every statistics counter, and the form of the commands that wait. -/
def Obligations.EveryStepKeepsTheCanonicalForm : Prop := ∀ s t, Canonical s → step s = .next t → Canonical t

/-! ### Rules of single parts -/

/-- a precedes b when (b − a) mod 2^32 lies in 1 to 2^31 − 1 (R116). -/
def Obligations.SequenceNumbersCompareSerially : Prop :=
  ∀ a b : Nat, precedes a b = true ↔ 1 ≤ ((b : Int) - (a : Int)) % (2 : Int) ^ 32 ∧ ((b : Int) - (a : Int)) % (2 : Int) ^ 32 ≤ 2 ^ 31 - 1

/-- The home bay of an offset of the range is the exclusive-or of the 4-bit groups of offset >> 19; it is one of sixteen, and the same for a whole group of eight pages (R56). -/
def Obligations.HomeBayFoldsTheGroup : Prop :=
  (∀ off, off < 2 ^ 50 → ∀ k, k < 4 → (homeBay off).testBit k
    = ((List.range 8).map fun j => (off / 2 ^ 19).testBit (4 * j + k)).foldl xor false)
  ∧ (∀ off, homeBay off < 16) ∧ (∀ a b, a / 2 ^ 19 = b / 2 ^ 19 → homeBay a = homeBay b)
  ∧ (∀ line p, line / 1024 = p → lineBay line = pageBay p)

/-- A request of the YM9's own engines and streams is admitted when its partition owns the extent and the extent's XSTATE is 1; every other node needs a grant (R372). -/
def Obligations.OwnEnginesNeedNoGrant : Prop :=
  (∀ s sid n prt off w, let e := extent s (extentOf off)
    srcCheck s (.call sid n) prt off w = sOK
      ↔ extentOf off < mapExtents s ∧ e.part = prt ∧ e.failed = false ∧ e.xstate = 1)
  ∧ (∀ s n prt off w, srcCheck s (.agent n) prt off w = sOK →
    ∃ g ∈ s.sec.grants, g.node = n ∧ g.first ≤ extentOf off ∧ extentOf off < g.first + g.count)

/-- Atomics to the data window of a multiply or erasure set are never folded: one that is admitted goes to the queue of its line, and is performed there as a plain write (R413). -/
def Obligations.SetWindowAtomicsNeverFold : Prop :=
  (∀ it s i, windowOf s it.off = some i → (unitOf s i it.off).isSome = true → (setSt s i).mode = 2 ∨ (setSt s i).mode = 3 →
    mayFold it s = false)
  ∧ (∀ k op c s i, (k, op) ∈ lineWrites → within op 0x20 0x28 = true → let y := reqIn op c {} s
    windowOf y.2 y.1.off = some i → (unitOf y.2 i y.1.off).isSome = true → (setSt y.2 i).mode = 2 ∨ (setSt y.2 i).mode = 3 →
    reqClear op c {} s = true → roomAt y.2 y.1 = (sOK, false) → goesToQueue y = true
    ∧ ∀ n, let x := atTurn op c {} s n; let it := x.1; let t := x.2; let line := it.off / 64; let w := writeResult it line t
      comes op c {} s n = true → writeOpen it line t = true → (allocated it line w.1 t).1 = 0 →
      let p := putLines it.part (itemWrite it) w.1 true (allocated it line w.1 t).2
      exec (k c) s = onward op c {} s n (endWrite it p.1 w.2.1 w.2.2.1 w.2.2.2 (writeStat op w.2.1 p.2)))

/-- HEAT halves with every decay epoch since it was last brought up to date, and an access then raises it by 1 to at most 255; the page's epoch becomes the current one (R70, R71). -/
def Obligations.HeatFollowsDecayEpochs : Prop :=
  (∀ s, inService s = true → elapsed s s.store.epochAt (cfg s 0x020000 20 7 * 1000000) = true →
    ∃ t, exec .decayEpoch s = .next t ∧ t.store.epoch = (s.store.epoch + 1) % 256)
  ∧ (∀ s p, (page s p).tier ≠ 0 → let d := (s.store.epoch + 256 - (page s p).epoch) % 256
    page (touchPage p s) p = { page s p with
      heat := min 255 ((if 8 ≤ d then 0 else (page s p).heat >>> d) + 1), epoch := s.store.epoch })

/-- A branch or loop whose target lies outside 0 to WORD_COUNT − 1 fails its stream with BAD_PARAM; issue that passes beyond the last word ends the stream as HALT does (R238). -/
def Obligations.BranchesStayInTheProgram : Prop :=
  (∀ sid w s, headIs 0x04 sid w s = true → scalarOk w = true →
    let i := issuedOf (stream s sid) w; let b := if wImmB w then sext 32 (wf w 223 192) else i.rbase
    let n : Int := (stream s sid).pc + (BitVec.ofNat 32 (wf w 255 224)).toInt
    brCond (wFunc w) i.base b = true → (n < 0 ∨ ((stream s sid).count : Int) ≤ n) →
    exec .br s = .next (settle sid (failWord sid i.num (stream s sid).pc sBAD 9 (wordIn sid w s))))
  ∧ (∀ sid w s, headIs 0x05 sid w s = true → scalarOk w = true →
    let i := issuedOf (stream s sid) w; let v := (regVal (stream (wordIn sid w s) sid) (wRd w) + 2 ^ 64 - 1) % 2 ^ 64
    let n : Int := (stream s sid).pc + (BitVec.ofNat 32 (wf w 255 224)).toInt
    v ≠ 0 → (n < 0 ∨ ((stream s sid).count : Int) ≤ n) →
    exec .loop s = .next (settle sid (failWord sid i.num (stream s sid).pc sBAD 9 (setStream sid (setReg (wRd w) v) (wordIn sid w s)))))
  ∧ (∀ n sid s, let t := stream s sid
    s.core.cur = some sid → s.core.suspending = false → t.st ≠ .ended → t.st ≠ .queued → t.stopping = false → t.halted = false →
    t.count ≤ t.pc → settleGo (n + 1) sid s = settleGo n sid (setStream sid (fun t => { t with halted := true }) s))

/-- PUBLISH writes VERSION + 1, POINTER and META where VERSION equals EXPECTED and is below its maximum; a different VERSION is answered VERSION_CONFLICT, a frozen one NO_RESOURCE, each with the version and without effect on the line (R155). -/
def Obligations.PublishFollowsItsVersion : Prop :=
  ∀ c s n, let x := atTurn 0x40 c {} s n; let it := x.1; let t := x.2; let line := it.off / 64; let v := readNat t it.off 8
    let w := [(it.off, leBytes 8 (v + 1) ++ slice it.payload 8 56)]; let u := touchPage (line / 1024) (fetchLine line {} t).2
    comes 0x40 c {} s n = true → writeOpen it line t = true →
    (v = 2 ^ 64 - 1 → exec (.publish c) s = onward 0x40 c {} s n (endWrite it [] sNORES v [] (bump (aTXN 5) u)))
    ∧ (v ≠ 2 ^ 64 - 1 → v ≠ field c.payload 0 8 →
      exec (.publish c) s = onward 0x40 c {} s n (endWrite it [] sCONFLICT v [] (bump (aTXN 5) u)))
    ∧ (v ≠ 2 ^ 64 - 1 → v = field c.payload 0 8 → (allocated it line w t).1 = 0 →
      let p := putLines it.part (itemWrite it) w true (allocated it line w t).2
      exec (.publish c) s = onward 0x40 c {} s n (endWrite it p.1 sOK (v + 1) [] (bump (aTXN 4) p.2)))

/-! ### Frames -/

/-- Bytes written to the range read back, and every other byte reads as before; erased bytes read 0; both keep the canonical form. -/
def Obligations.BytesReadBackAsWritten : Prop :=
  (∀ s off bs a, Memory.wf s.store.mem = true → readByte (writeBytes off bs s) a
    = if off ≤ a ∧ a < off + bs.length then bs.getD (a - off) 0 else readByte s a)
  ∧ (∀ s off n a, Memory.wf s.store.mem = true → readByte (eraseRange off n s) a
    = if off ≤ a ∧ a < off + n then 0 else readByte s a)
  ∧ (∀ s off bs n, Memory.wf s.store.mem = true →
    Memory.wf (writeBytes off bs s).store.mem = true ∧ Memory.wf (eraseRange off n s).store.mem = true)

/-- STORE, STORE_MASKED, STORE_FLAG, the atomics and PUBLISH, performed at their line: the command completes, and its own write (after the turns in which it waited and what an open combining entry of its line drains, and before what waited is served) leaves every byte of the range that `writeResult` does not list as it was, and the scratchpad, the configuration, the extents and the grants unchanged. -/
def Obligations.WritesChangeOnlyTheirBytes : Prop :=
  ∀ k op c s n, (k, op) ∈ lineWrites →
    let x := atTurn op c {} s n; let it := x.1; let t := x.2; let line := it.off / 64; let w := writeResult it line t
    comes op c {} s n = true → writeOpen it line t = true → (allocated it line w.1 t).1 = 0 →
    let p := putLines it.part (itemWrite it) w.1 true (allocated it line w.1 t).2
    let u := endWrite it p.1 w.2.1 w.2.2.1 w.2.2.2
      (writeStat op w.2.1 (if op = 0x10 then applyControl it.off it.payload p.2 else p.2))
    exec (k c) s = onward op c {} s n u
    ∧ (∀ a, (∀ q ∈ w.1, a < q.1 ∨ q.1 + q.2.length ≤ a) → readByte u a = readByte t a)
    ∧ u.core.scratch = t.core.scratch ∧ u.cw = t.cw ∧ u.sec.extents = t.sec.extents ∧ u.sec.grants = t.sec.grants
    ∧ (n = 0 → combOpen s line = false → (∀ a, readByte t a = readByte s a) ∧ t.core.scratch = s.core.scratch ∧ t.cw = s.cw
      ∧ t.sec.extents = s.sec.extents ∧ t.sec.grants = s.sec.grants)

/-- The Felset commands that only answer; PAGE_QUERY stands apart. -/
def felsetQueries : List (FsCmd → Instr) :=
  [.identity, .auditRead, .auditHead, .cwRead, .extQuery, .partQuery, .tierUsage, .queryStream, .qnGroupQuery, .hsStepQuery,
   .blIndexQuery, .setQuery, .livenessQuery, .healthQuery, .healthLogRead, .imgQuery]

/-- A Felset query, however it is answered, leaves the range, the scratchpad, the home slices, the engines, the streams, the sets, the configuration, the partitions, extents and grants, and every earlier audit entry as they are; the audit log gains at most entries of status DENIED, for a command that was refused. PAGE_QUERY, which reads its entry through the page-map cache (R64, R71), leaves the range, the line cache and every page as well, but for the HEAT and EPOCH it brings up to date. -/
def Obligations.FelsetQueriesChangeNoData : Prop :=
  (∀ k ∈ felsetQueries, ∀ c s t, exec (k c) s = .next t →
    t.store = s.store ∧ t.home = s.home ∧ t.core = s.core ∧ t.eng = s.eng ∧ t.mach = s.mach ∧ t.cw = s.cw ∧ t.pwr = s.pwr
    ∧ t.sec.parts = s.sec.parts ∧ t.sec.extents = s.sec.extents ∧ t.sec.grants = s.sec.grants
    ∧ ∃ l, t.nor.audit = s.nor.audit ++ l ∧ ∀ e ∈ l, e.status = sDENIED)
  ∧ (∀ c s t, exec (.pageQuery c) s = .next t →
    t.store.mem = s.store.mem ∧ t.store.lineCache = s.store.lineCache
    ∧ (∀ p, page t p = page s p ∨ page t p = { page s p with heat := heatNow s.store.epoch (page s p), epoch := s.store.epoch })
    ∧ t.home = s.home ∧ t.core = s.core ∧ t.eng = s.eng ∧ t.mach = s.mach ∧ t.cw = s.cw ∧ t.pwr = s.pwr
    ∧ t.sec.parts = s.sec.parts ∧ t.sec.extents = s.sec.extents ∧ t.sec.grants = s.sec.grants
    ∧ ∃ l, t.nor.audit = s.nor.audit ++ l ∧ ∀ e ∈ l, e.status = sDENIED)

/-- The timers and records of transport that only send, and the readings of the Governor, leave the range, the home slices, the core, the engines, the partitions, extents, grants and sessions, and the sets as they are; of the security state only the random generator may move on, where the event opens a session; a rekey while Novva gives keys, and a resend of an open that has its context, since otherwise a session closes. -/
def Obligations.TransportAndReadingsChangeNoData : Prop :=
  ∀ i s t, (∃ n p k x, i = .probe n p k x) ∨ (∃ n p k x, i = .probeReply n p k x) ∨ (∃ n, i = .probeTimer n) ∨ (∃ n, i = .ackTimer n)
    ∨ (∃ n r, i = .saRekey n r ∧ s.sec.nvState ≠ .lost)
    ∨ (∃ n, i = .sessionOpenResend n ∧ (kget {} s.kt.ownOpens n).waiting = false) ∨ (∃ l b, i = .linkReformDone l b)
    ∨ (∃ b r n, i = .bayBeatWindow b r n) ∨ (∃ d, i = .timestampCompare d) ∨ (∃ r, i = .powerSample r)
    ∨ (∃ j n, i = .avsReadTimeout j n) ∨ (∃ a ca b cb, i = .weirWindow a ca b cb) →
    exec i s = .next t →
    t.store = s.store ∧ t.home = s.home ∧ t.core = s.core ∧ t.eng = s.eng
    ∧ { t.sec with drbg := 0 } = { s.sec with drbg := 0 } ∧ t.mach = s.mach ∧ t.cw = s.cw
end

