-- ==== Sys2Proof/Laws/Map.lean ====
section
/-! SUPPORT. Tables by number: a read after a write, and that every operation keeps the canonical form. -/

namespace Sys2Proof

variable {α : Type} [DecidableEq α]

/-- Another key reads as before. -/
theorem kget_kput_other (d : α) (m : KMap α) (i j : Nat) (x : α) (h : j ≠ i) : kget d (kput d m i x) j = kget d m j := by
  induction m with
  | nil => simp only [kput]; split <;> simp [kget, Ne.symm h]
  | cons p m ih =>
    obtain ⟨k, v⟩ := p
    simp only [kput]
    split
    · split <;> simp [kget, Ne.symm h]
    · split
      · next hik => subst hik; split <;> simp [kget, Ne.symm h]
      · simp only [kget, ih]

/-- A value that is not the default is read back. -/
theorem kget_kput_same (d : α) (m : KMap α) (i : Nat) (x : α) (h : x ≠ d) : kget d (kput d m i x) i = x := by
  induction m with
  | nil => simp [kput, h, kget]
  | cons p m ih =>
    obtain ⟨k, v⟩ := p
    simp only [kput, h, if_false]
    split
    · simp [kget]
    · split
      · next hik => simp [kget, hik]
      · next hik => simp only [kget, ih, if_neg (Ne.symm hik)]

theorem kget_kmod_other (d : α) (m : KMap α) (i j : Nat) (f : α → α) (h : j ≠ i) : kget d (kmod d m i f) j = kget d m j :=
  kget_kput_other d m i j _ h

theorem kget_kmod_same (d : α) (m : KMap α) (i : Nat) (f : α → α) (h : f (kget d m i) ≠ d) :
    kget d (kmod d m i f) i = f (kget d m i) := kget_kput_same d m i _ h

/-- Below its first key a canonical table reads the default. -/
theorem kget_of_lt (d : α) (m : KMap α) (lo i : Nat) (h : kwfFrom (fun _ => d) lo m = true) (hi : i < lo) : kget d m i = d := by
  induction m generalizing lo with
  | nil => rfl
  | cons p m ih =>
    obtain ⟨k, v⟩ := p
    simp only [kwfFrom, Bool.and_eq_true, decide_eq_true_eq] at h
    simp only [kget]
    rw [if_neg (by omega)]
    exact ih (k + 1) h.2 (by omega)

/-- A lower bound may be lowered. -/
theorem kwfFrom_mono (d : Nat → α) (m : KMap α) (lo lo' : Nat) (h : kwfFrom d lo m = true) (hl : lo' ≤ lo) : kwfFrom d lo' m = true := by
  cases m with
  | nil => rfl
  | cons p m =>
    simp only [kwfFrom, Bool.and_eq_true, decide_eq_true_eq] at h ⊢
    exact ⟨⟨by omega, h.1.2⟩, h.2⟩

theorem kwfFrom_kput (d : α) (m : KMap α) (lo i : Nat) (x : α) (h : kwfFrom (fun _ => d) lo m = true) (hi : lo ≤ i) :
    kwfFrom (fun _ => d) lo (kput d m i x) = true := by
  induction m generalizing lo with
  | nil => simp only [kput]; split <;> simp_all [kwfFrom]
  | cons p m ih =>
    obtain ⟨k, v⟩ := p
    have h' := h
    simp only [kwfFrom, Bool.and_eq_true, decide_eq_true_eq] at h
    simp only [kput]
    split
    · split
      · exact h'
      · next hik hx =>
        simp only [kwfFrom, Bool.and_eq_true, decide_eq_true_eq]
        exact ⟨⟨hi, by simpa using hx⟩, ⟨by omega, h.1.2⟩, h.2⟩
    · split
      · split
        · exact kwfFrom_mono _ m (k + 1) lo h.2 (by omega)
        · next hik hx =>
          simp only [kwfFrom, Bool.and_eq_true, decide_eq_true_eq]
          exact ⟨⟨hi, by simpa using hx⟩, by rw [hik]; exact h.2⟩
      · simp only [kwfFrom, Bool.and_eq_true, decide_eq_true_eq]
        exact ⟨h.1, ih (k + 1) h.2 (by omega)⟩

/-- A write keeps the canonical form. -/
theorem kwf_kput (d : α) (m : KMap α) (i : Nat) (x : α) (h : kwf (fun _ => d) m = true) : kwf (fun _ => d) (kput d m i x) = true :=
  kwfFrom_kput d m 0 i x h (Nat.zero_le i)

theorem kwf_kmod (d : α) (m : KMap α) (i : Nat) (f : α → α) (h : kwf (fun _ => d) m = true) : kwf (fun _ => d) (kmod d m i f) = true :=
  kwf_kput d m i _ h

theorem kwfFrom_filter (d : Nat → α) (m : KMap α) (lo : Nat) (p : Nat × α → Bool) (h : kwfFrom d lo m = true) :
    kwfFrom d lo (m.filter p) = true := by
  induction m generalizing lo with
  | nil => rfl
  | cons x m ih =>
    have h' := h
    simp only [kwfFrom, Bool.and_eq_true, decide_eq_true_eq] at h'
    simp only [List.filter_cons]
    split
    · simp only [kwfFrom, Bool.and_eq_true, decide_eq_true_eq]
      exact ⟨h'.1, ih (x.1 + 1) h'.2⟩
    · exact kwfFrom_mono d _ (x.1 + 1) lo (ih (x.1 + 1) h'.2) (by omega)

/-- Leaving entries out keeps the canonical form. -/
theorem kwf_filter (d : Nat → α) (m : KMap α) (p : Nat × α → Bool) (h : kwf d m = true) : kwf d (m.filter p) = true :=
  kwfFrom_filter d m 0 p h

@[simp] theorem kwf_nil (d : Nat → α) : kwf d ([] : KMap α) = true := rfl

end Sys2Proof
end

