-- ==== Sys2Proof/Laws/Canon.lean ====
section
/-! SUPPORT. The invariant of every state, said of each shared operation once: what it leaves is canonical when what it was given is. -/

namespace Sys2Proof.Machine

/-- The four parts of a state that `Canonical` looks at. -/
structure CanonParts (m sc : KMap Byte) (st : KMap Nat) (q : List Instr) : Prop where
  mem : Memory.wf m = true
  scratch : Memory.wf sc = true
  stats : ∀ a, kget 0 st a ≤ statMax
  queue : q.all Instr.wf = true

theorem Canonical.parts {s : State} (h : Canonical s) : CanonParts s.store.mem s.core.scratch s.stats s.pending := ⟨h.1, h.2, h.3, h.4⟩
theorem CanonParts.canonical {s : State} (h : CanonParts s.store.mem s.core.scratch s.stats s.pending) : Canonical s := ⟨h.1, h.2, h.3, h.4⟩

theorem CanonParts.mem_nil {m sc st q} (h : CanonParts m sc st q) : CanonParts [] sc st q := ⟨rfl, h.2, h.3, h.4⟩
theorem CanonParts.scratch_nil {m sc st q} (h : CanonParts m sc st q) : CanonParts m [] st q := ⟨h.1, rfl, h.3, h.4⟩
theorem CanonParts.stats_nil {m sc st q} (h : CanonParts m sc st q) : CanonParts m sc [] q := ⟨h.1, h.2, fun _ => Nat.zero_le _, h.4⟩

theorem CanonParts.mem_filter {m sc st q} (p) (h : CanonParts m sc st q) : CanonParts (m.filter p) sc st q := ⟨kwf_filter _ _ p h.1, h.2, h.3, h.4⟩
theorem CanonParts.scratch_filter {m sc st q} (p) (h : CanonParts m sc st q) : CanonParts m (sc.filter p) st q := ⟨h.1, kwf_filter _ _ p h.2, h.3, h.4⟩

theorem memPut_wf (m : KMap Byte) (a : Nat) (bs : List Byte) (h : Memory.wf m = true) : Memory.wf (memPut m a bs) = true := by
  induction bs generalizing m a with
  | nil => exact h
  | cons b bs ih => exact ih _ _ (kwf_kput 0 m a b h)

theorem landed_wf (ws : List (Nat × Byte)) (m : KMap Byte) (h : Memory.wf m = true) :
    Memory.wf (ws.foldl (fun m x => kput 0 m x.1 x.2) m) = true := by
  induction ws generalizing m with
  | nil => exact h
  | cons x ws ih => exact ih _ (kwf_kput 0 m x.1 x.2 h)

theorem CanonParts.mem_put {m sc st q} (a bs) (h : CanonParts m sc st q) : CanonParts (memPut m a bs) sc st q := ⟨memPut_wf m a bs h.1, h.2, h.3, h.4⟩
theorem CanonParts.scratch_put {m sc st q} (a bs) (h : CanonParts m sc st q) : CanonParts m (memPut sc a bs) st q := ⟨h.1, memPut_wf sc a bs h.2, h.3, h.4⟩

theorem CanonParts.stats_put {m sc st q} (a w) (hw : w ≠ 0) (hm : w ≤ statMax) (h : CanonParts m sc st q) :
    CanonParts m sc (kput 0 st a w) q := by
  refine ⟨h.1, h.2, fun b => ?_, h.4⟩
  by_cases e : b = a
  · subst e; rw [kget_kput_same 0 st b w hw]; exact hm
  · rw [kget_kput_other 0 st a b w e]; exact h.3 b

/-- A fold keeps what each of its steps keeps. -/
theorem foldl_keeps {α : Type} (f : State → α → State) (l : List α) (s : State) (hf : ∀ s a, Canonical s → Canonical (f s a)) (h : Canonical s) :
    Canonical (l.foldl f s) := by
  induction l generalizing s with
  | nil => exact h
  | cons a l ih => exact ih _ (hf s a h)

theorem foldl_keeps_triple {α β γ : Type} (f : β × γ × State → α → β × γ × State) (l : List α) (x : β × γ × State)
    (hf : ∀ r a, Canonical r.2.2 → Canonical (f r a).2.2) (h : Canonical x.2.2) : Canonical (l.foldl f x).2.2 := by
  induction l generalizing x with
  | nil => exact h
  | cons a l ih => exact ih _ (hf x a h)

theorem ite_keeps {c : Prop} [Decidable c] {a b : State} (ha : Canonical a) (hb : Canonical b) : Canonical (if c then a else b) := by
  split <;> assumption

/-- The same of a fold that carries something besides the state. -/
theorem foldl_keeps_snd {α β : Type} (f : β × State → α → β × State) (l : List α) (x : β × State)
    (hf : ∀ r a, Canonical r.2 → Canonical (f r a).2) (h : Canonical x.2) : Canonical (l.foldl f x).2 := by
  induction l generalizing x with
  | nil => exact h
  | cons a l ih => exact ih _ (hf x a h)

/-- A state built field by field. -/
theorem Canonical.of_mk {q cw st pwr nor store kt home core eng sec mach gov wire free} (h : CanonParts store.mem core.scratch st q) :
    Canonical ⟨q, cw, st, pwr, nor, store, kt, home, core, eng, sec, mach, gov, wire, free⟩ := ⟨h.1, h.2, h.3, h.4⟩

/-- What may or may not come of a line of the home: the state, if any. -/
def OptKept (o : Option State) : Prop := ∀ t, o = some t → Canonical t
theorem OptKept.of_some {s : State} (h : Canonical s) : OptKept (some s) := by intro t e; cases e; exact h
theorem OptKept.of_none : OptKept none := by intro t e; cases e
theorem OptKept.getD {o : Option State} (h : OptKept o) {s : State} (hs : Canonical s) : Canonical (o.getD s) := by
  cases o with
  | none => exact hs
  | some t => exact h t rfl

theorem OptKept.ite {c : Prop} [Decidable c] {a b : Option State} (ha : OptKept a) (hb : OptKept b) : OptKept (if c then a else b) := by
  split <;> assumption
theorem OptKept.findSome {α : Type} {l : List α} {f : α → Option State} (h : ∀ a, OptKept (f a)) : OptKept (l.findSome? f) := by
  intro t e
  obtain ⟨a, _, ha⟩ := List.exists_of_findSome?_eq_some e
  exact h a t ha
theorem OptKept.map {α : Type} {o : Option α} {f : α → State} (h : ∀ a, Canonical (f a)) : OptKept (o.map f) := by
  intro t e
  obtain ⟨a, _, rfl⟩ := Option.map_eq_some_iff.mp e
  exact h a
theorem OptKept.of_eq {o : Option State} {t : State} (e : o = some t) (h : OptKept o) : Canonical t := h t e
theorem Canonical.of_pair {α : Type} {x : α × State} {a : α} {t : State} (e : x = (a, t)) (h : Canonical x.2) : Canonical t := by
  subst e; exact h
theorem Canonical.of_triple {α β : Type} {x : α × β × State} {a : α} {b : β} {t : State} (e : x = (a, b, t)) (h : Canonical x.2.2) :
    Canonical t := by subst e; exact h
theorem Canonical.of_opt_pair {α : Type} {x : Option (α × State)} {a : α} {t : State} (e : x = some (a, t))
    (h : ∀ y, x = some y → Canonical y.2) : Canonical t := h _ e

/-- A result of a Felset body: the state it leaves, and what it does after the answer. -/
structure FsKept (r : FsRes) : Prop where
  st : Canonical r.st
  after : ∀ s, Canonical s → Canonical (r.after s)

theorem State.onPwr_keeps (f s) (h : Canonical s) : Canonical (State.onPwr f s) := ⟨h.1, h.2, h.3, h.4⟩
theorem State.onNor_keeps (f s) (h : Canonical s) : Canonical (State.onNor f s) := ⟨h.1, h.2, h.3, h.4⟩
theorem State.onKt_keeps (f s) (h : Canonical s) : Canonical (State.onKt f s) := ⟨h.1, h.2, h.3, h.4⟩
theorem State.onHome_keeps (f s) (h : Canonical s) : Canonical (State.onHome f s) := ⟨h.1, h.2, h.3, h.4⟩
theorem State.onEng_keeps (f s) (h : Canonical s) : Canonical (State.onEng f s) := ⟨h.1, h.2, h.3, h.4⟩
theorem State.onSec_keeps (f s) (h : Canonical s) : Canonical (State.onSec f s) := ⟨h.1, h.2, h.3, h.4⟩
theorem State.onMach_keeps (f s) (h : Canonical s) : Canonical (State.onMach f s) := ⟨h.1, h.2, h.3, h.4⟩
theorem State.onGov_keeps (f s) (h : Canonical s) : Canonical (State.onGov f s) := ⟨h.1, h.2, h.3, h.4⟩
theorem State.onStore_keeps (f s) (hm : (f s.store).mem = s.store.mem) (h : Canonical s) : Canonical (State.onStore f s) :=
  ⟨(congrArg Memory.wf hm).trans h.1, h.2, h.3, h.4⟩
theorem State.onCore_keeps (f s) (hm : (f s.core).scratch = s.core.scratch) (h : Canonical s) : Canonical (State.onCore f s) :=
  ⟨h.1, (congrArg Memory.wf hm).trans h.2, h.3, h.4⟩

theorem takeOvf_keeps (a : Nat) (s : State) (h : Canonical s) : Canonical (takeOvf a s) := by
  unfold takeOvf; split <;> exact State.onGov_keeps _ _ h

theorem addStat_keeps (a n : Nat) (s : State) (h : Canonical s) : Canonical (addStat a n s) := by
  unfold addStat
  dsimp only
  have e : n ≠ 0 → Canonical { s with stats := kput 0 s.stats a (min statMax (kget 0 s.stats a + n)) } := fun hn =>
    Canonical.of_mk (h.parts.stats_put a _ (by unfold statMax; omega) (Nat.min_le_left _ _))
  split
  · exact h
  · split
    · exact takeOvf_keeps a _ (e (by tauto))
    · exact e (by tauto)

theorem writeBytes_keeps (off : Nat) (bs : List Byte) (s : State) (h : Canonical s) : Canonical (writeBytes off bs s) :=
  ⟨memPut_wf _ _ _ h.1, h.2, h.3, h.4⟩
theorem eraseRange_keeps (off n : Nat) (s : State) (h : Canonical s) : Canonical (eraseRange off n s) :=
  ⟨kwf_filter _ _ _ h.1, h.2, h.3, h.4⟩
theorem landWrites_keeps (ws : List (Nat × Byte)) (s : State) (h : Canonical s) : Canonical (landWrites ws s) :=
  ⟨h.1, landed_wf _ _ h.2, h.3, h.4⟩
theorem spWrite_keeps (b off : Nat) (bs : List Byte) (s : State) (h : Canonical s) : Canonical (spWrite b off bs s) := landWrites_keeps _ s h
theorem t3Ready_keeps (l : List Nat) (s : State) (h : Canonical s) : Canonical (s.onStore fun st => { st with t3Ready := l }) :=
  State.onStore_keeps _ _ rfl h
theorem blank_keeps (s : State) (h : Canonical s) : Canonical (blank s) := ⟨rfl, rfl, fun _ => Nat.zero_le _, h.4⟩
theorem windowMoved_keeps (a b : Nat) (s : State) (h : Canonical s) : Canonical (windowMoved a b s) :=
  ⟨h.1, kwf_filter _ _ _ h.2, h.3, h.4⟩

end Sys2Proof.Machine
end

