-- ==== Sys2Proof/Laws/CanonOps.lean ====
section
/-! SUPPORT. The invariant over the shared operations and the serving of requests, one lemma per function that answers a state. -/

namespace Sys2Proof.Machine

theorem setUnitH_keeps (k : ℕ) (f : UnitH → UnitH) (s : State) (h_s : Canonical s) : Canonical (setUnitH k f s) := by
  unfold setUnitH; grind [State.onGov_keeps, foldl_keeps, foldl_keeps_snd, Canonical.of_mk, Canonical.parts, FsKept.st, FsKept.after, FsKept.mk]

theorem hlogWrite_keeps (e : Ev) (s : State) (h_s : Canonical s) : Canonical (hlogWrite e s).2 := by
  unfold hlogWrite; grind [addStat_keeps, State.onNor_keeps, setUnitH_keeps, foldl_keeps, foldl_keeps_snd, Canonical.of_mk, Canonical.parts, FsKept.st, FsKept.after, FsKept.mk]

theorem drbgBytes_keeps (n : ℕ) (s : State) (h_s : Canonical s) : Canonical (drbgBytes n s).2 := by
  unfold drbgBytes; grind [State.onSec_keeps, foldl_keeps, foldl_keeps_snd, Canonical.of_mk, Canonical.parts, FsKept.st, FsKept.after, FsKept.mk]

theorem setCtx_keeps (n : ℕ) (f : Ctx → Ctx) (s : State) (h_s : Canonical s) : Canonical (setCtx n f s) := by
  unfold setCtx; grind [State.onKt_keeps, foldl_keeps, foldl_keeps_snd, Canonical.of_mk, Canonical.parts, FsKept.st, FsKept.after, FsKept.mk]

theorem emit_keeps (n : ℕ) (plane : ℕ) (x : Load) (s : State) (h_s : Canonical s) : Canonical (emit n plane x s) := by
  unfold emit; grind [addStat_keeps, setCtx_keeps, foldl_keeps, foldl_keeps_snd, Canonical.of_mk, Canonical.parts, FsKept.st, FsKept.after, FsKept.mk]

theorem emitOpenFrame_keeps (n : ℕ) (plane : ℕ) (seq0 : ℕ) (rcd : Rec) (s : State) (h_s : Canonical s) : Canonical (emitOpenFrame n plane seq0 rcd s) := by
  unfold emitOpenFrame; grind [emit_keeps, foldl_keeps, foldl_keeps_snd, Canonical.of_mk, Canonical.parts, FsKept.st, FsKept.after, FsKept.mk]

theorem openOrQueue_keeps (n : ℕ) (w : Rec × Bool × Bool) (s : State) (h_s : Canonical s) : Canonical (openOrQueue n w s) := by
  unfold openOrQueue; grind [State.onKt_keeps, drbgBytes_keeps, emitOpenFrame_keeps, foldl_keeps, foldl_keeps_snd, Canonical.of_mk, Canonical.parts, FsKept.st, FsKept.after, FsKept.mk]

theorem acked_keeps (n : ℕ) (sacks : List (ℕ × ℕ)) (s : State) (h_s : Canonical s) : Canonical (acked n sacks s) := by
  unfold acked; grind [setCtx_keeps, foldl_keeps, foldl_keeps_snd, Canonical.of_mk, Canonical.parts, FsKept.st, FsKept.after, FsKept.mk]

theorem sendHeld_keeps (n : ℕ) (h : Held) (plane : ℕ) (s : State) (h_s : Canonical s) : Canonical (sendHeld n h plane s) := by
  unfold sendHeld; grind [acked_keeps, emit_keeps, addStat_keeps, setCtx_keeps, foldl_keeps, foldl_keeps_snd, Canonical.of_mk, Canonical.parts, FsKept.st, FsKept.after, FsKept.mk]

theorem flushCtx_keeps (n k : Nat) (s : State) (h : Canonical s) : Canonical (flushCtx n k s) := by
  induction k generalizing s with
  | zero => exact h
  | succ k ih =>
    unfold flushCtx
    dsimp only
    split
    · split
      · exact ih _ (sendHeld_keeps _ _ _ _ h)
      · exact h
    · exact h

theorem sendSeq_keeps (n : ℕ) (rcd : Rec) (ord : Bool) (mgmt : Bool) (s : State) (h_s : Canonical s) : Canonical (sendSeq n rcd ord mgmt s) := by
  unfold sendSeq; grind [setCtx_keeps, flushCtx_keeps, foldl_keeps, foldl_keeps_snd, Canonical.of_mk, Canonical.parts, FsKept.st, FsKept.after, FsKept.mk]

theorem sendRec_keeps (n : ℕ) (rcd : Rec) (ord : Bool) (mgmt : Bool) (s : State) (h_s : Canonical s) : Canonical (sendRec n rcd ord mgmt s) := by
  unfold sendRec; grind [openOrQueue_keeps, sendSeq_keeps, foldl_keeps, foldl_keeps_snd, Canonical.of_mk, Canonical.parts, FsKept.st, FsKept.after, FsKept.mk]

theorem evSend_keeps (e : Ev) (count : ℕ) (hidx : ℕ) (ts : List ℕ) (s : State) (h_s : Canonical s) : Canonical (evSend e count hidx ts s) := by
  unfold evSend; grind [sendRec_keeps, addStat_keeps, foldl_keeps, foldl_keeps_snd, Canonical.of_mk, Canonical.parts, FsKept.st, FsKept.after, FsKept.mk]

theorem event0_keeps (e : Ev) (s : State) (h_s : Canonical s) : Canonical (event0 e s) := by
  unfold event0; grind [hlogWrite_keeps, setUnitH_keeps, addStat_keeps, State.onGov_keeps, evSend_keeps, foldl_keeps, foldl_keeps_snd, Canonical.of_mk, Canonical.parts, FsKept.st, FsKept.after, FsKept.mk]

theorem raiseOverflows_keeps (n : Nat) (s : State) (h : Canonical s) : Canonical (raiseOverflows n s) := by
  induction n generalizing s with
  | zero => unfold raiseOverflows; exact h
  | succ k ih => unfold raiseOverflows; grind [event0_keeps, State.onGov_keeps]

theorem event_keeps (e : Ev) (s : State) (h_s : Canonical s) : Canonical (event e s) := by
  unfold event; grind [event0_keeps, raiseOverflows_keeps, foldl_keeps, foldl_keeps_snd, Canonical.of_mk, Canonical.parts, FsKept.st, FsKept.after, FsKept.mk]

theorem auditAppend_keeps (node : ℕ) (role : ℕ) (status : ℕ) (fop : ℕ) (keySlot : ℕ) (cseq : ℕ) (params : List Byte) (s : State) (h_s : Canonical s) : Canonical (auditAppend node role status fop keySlot cseq params s) := by
  unfold auditAppend; grind [State.onNor_keeps, event_keeps, foldl_keeps, foldl_keeps_snd, Canonical.of_mk, Canonical.parts, FsKept.st, FsKept.after, FsKept.mk]

theorem checkSlots_keeps (s : State) (h_s : Canonical s) : Canonical (checkSlots s) := by
  unfold checkSlots; grind [State.onNor_keeps, event_keeps, auditAppend_keeps, foldl_keeps, foldl_keeps_snd, Canonical.of_mk, Canonical.parts, FsKept.st, FsKept.after, FsKept.mk]

theorem setPoison_keeps (line : ℕ) (b : Bool) (s : State) (h_s : Canonical s) : Canonical (setPoison line b s) := by
  unfold setPoison; grind [State.onStore_keeps, foldl_keeps, foldl_keeps_snd, Canonical.of_mk, Canonical.parts, FsKept.st, FsKept.after, FsKept.mk]

theorem markDirty_keeps (line : ℕ) (s : State) (h_s : Canonical s) : Canonical (markDirty line s) := by
  unfold markDirty; grind [State.onStore_keeps, foldl_keeps, foldl_keeps_snd, Canonical.of_mk, Canonical.parts, FsKept.st, FsKept.after, FsKept.mk]

theorem lcTouch_keeps (line : ℕ) (modified : Bool) (s : State) (h_s : Canonical s) : Canonical (lcTouch line modified s) := by
  unfold lcTouch; grind [State.onStore_keeps, foldl_keeps, foldl_keeps_snd, Canonical.of_mk, Canonical.parts, FsKept.st, FsKept.after, FsKept.mk]

theorem mapEvict_keeps (g : ℕ) (t : CacheTag) (s : State) (h_s : Canonical s) : Canonical (mapEvict g t s) := by
  unfold mapEvict; grind [State.onStore_keeps, foldl_keeps, foldl_keeps_snd, Canonical.of_mk, Canonical.parts, FsKept.st, FsKept.after, FsKept.mk]

theorem mapTouch_keeps (g : ℕ) (dirty : Bool) (s : State) (h_s : Canonical s) : Canonical (mapTouch g dirty s) := by
  unfold mapTouch; grind [State.onStore_keeps, mapEvict_keeps, foldl_keeps, foldl_keeps_snd, Canonical.of_mk, Canonical.parts, FsKept.st, FsKept.after, FsKept.mk]

theorem setPage_keeps (p : ℕ) (f : PageEnt → PageEnt) (s : State) (h_s : Canonical s) : Canonical (setPage p f s) := by
  unfold setPage; grind [State.onStore_keeps, foldl_keeps, foldl_keeps_snd, Canonical.of_mk, Canonical.parts, FsKept.st, FsKept.after, FsKept.mk]

theorem editPage_keeps (p : ℕ) (f : PageEnt → PageEnt) (s : State) (h_s : Canonical s) : Canonical (editPage p f s) := by
  unfold editPage; grind [setPage_keeps, mapTouch_keeps, foldl_keeps, foldl_keeps_snd, Canonical.of_mk, Canonical.parts, FsKept.st, FsKept.after, FsKept.mk]

theorem queuePromo_keeps (p : ℕ) (s : State) (h_s : Canonical s) : Canonical (queuePromo p s) := by
  unfold queuePromo; grind [State.onStore_keeps, foldl_keeps, foldl_keeps_snd, Canonical.of_mk, Canonical.parts, FsKept.st, FsKept.after, FsKept.mk]

theorem touchPage_keeps (p : ℕ) (s : State) (h_s : Canonical s) : Canonical (touchPage p s) := by
  unfold touchPage; grind [mapTouch_keeps, editPage_keeps, queuePromo_keeps, foldl_keeps, foldl_keeps_snd, Canonical.of_mk, Canonical.parts, FsKept.st, FsKept.after, FsKept.mk]

theorem requestMove_keeps (p : ℕ) (w : MoveWhy) (s : State) (h_s : Canonical s) : Canonical (requestMove p w s) := by
  unfold requestMove; grind [State.onStore_keeps, foldl_keeps, foldl_keeps_snd, Canonical.of_mk, Canonical.parts, FsKept.st, FsKept.after, FsKept.mk]

theorem ownRequestFor_keeps (slot : Option ℕ) (n : ℕ) (op : ℕ) (param : ℕ) (addr : ℕ) (strict : Bool) (prt : ℕ) (payload : List Byte) (s : State) (h_s : Canonical s) : Canonical (ownRequestFor slot n op param addr strict prt payload s).2 := by
  unfold ownRequestFor; grind [setCtx_keeps, sendRec_keeps, foldl_keeps, foldl_keeps_snd, Canonical.of_mk, Canonical.parts, FsKept.st, FsKept.after, FsKept.mk]

theorem ownRequest_keeps (n : ℕ) (op : ℕ) (param : ℕ) (addr : ℕ) (strict : Bool) (prt : ℕ) (payload : List Byte) (s : State) (h_s : Canonical s) : Canonical (ownRequest n op param addr strict prt payload s).2 := by
  unfold ownRequest; grind [ownRequestFor_keeps, foldl_keeps, foldl_keeps_snd, Canonical.of_mk, Canonical.parts, FsKept.st, FsKept.after, FsKept.mk]

theorem bumpBy_keeps (a : ℕ) (n : ℕ) (s : State) (h_s : Canonical s) : Canonical (bumpBy a n s) := by
  unfold bumpBy; grind [addStat_keeps, raiseOverflows_keeps, foldl_keeps, foldl_keeps_snd, Canonical.of_mk, Canonical.parts, FsKept.st, FsKept.after, FsKept.mk]

theorem bump_keeps (a : ℕ) (s : State) (h_s : Canonical s) : Canonical (bump a s) := by
  unfold bump; grind [bumpBy_keeps, foldl_keeps, foldl_keeps_snd, Canonical.of_mk, Canonical.parts, FsKept.st, FsKept.after, FsKept.mk]

theorem staleUnit_keeps (off : ℕ) (s : State) (h_s : Canonical s) : Canonical (staleUnit off s) := by
  unfold staleUnit; grind [event_keeps, bump_keeps, foldl_keeps, foldl_keeps_snd, Canonical.of_mk, Canonical.parts, FsKept.st, FsKept.after, FsKept.mk]

theorem setUpdates_keeps (prt : ℕ) (line : ℕ) (rule : SetRule) (old : List Byte) (new : List Byte) (s : State) (h_s : Canonical s) : Canonical (setUpdates prt line rule old new s).2 := by
  unfold setUpdates; grind [ownRequest_keeps, bump_keeps, staleUnit_keeps, foldl_keeps, foldl_keeps_snd, Canonical.of_mk, Canonical.parts, FsKept.st, FsKept.after, FsKept.mk]

theorem putLines_keeps (prt : ℕ) (w : SetWrite) (ws : List (ℕ × List Byte)) (heat : Bool) (s : State) (h_s : Canonical s) : Canonical (putLines prt w ws heat s).2 := by
  unfold putLines; grind [writeBytes_keeps, setPoison_keeps, markDirty_keeps, lcTouch_keeps, touchPage_keeps, requestMove_keeps, State.onStore_keeps, setUpdates_keeps, State.onHome_keeps, foldl_keeps, foldl_keeps_snd, Canonical.of_mk, Canonical.parts, FsKept.st, FsKept.after, FsKept.mk]

theorem FsRes.after_keeps (self : FsRes) (y1 : State) (h_self : FsKept self) (h_y1 : Canonical y1) : Canonical (FsRes.after self y1) := by
  unfold FsRes.after; grind [foldl_keeps, foldl_keeps_snd, Canonical.of_mk, Canonical.parts, FsKept.st, FsKept.after, FsKept.mk]

theorem fsSend_keeps (n : ℕ) (rcd : Rec) (s : State) (h_s : Canonical s) : Canonical (fsSend n rcd s) := by
  unfold fsSend; grind [sendRec_keeps, foldl_keeps, foldl_keeps_snd, Canonical.of_mk, Canonical.parts, FsKept.st, FsKept.after, FsKept.mk]

theorem setFsession_keeps (id : ℕ) (f : FSession → FSession) (s : State) (h_s : Canonical s) : Canonical (setFsession id f s) := by
  unfold setFsession; grind [State.onSec_keeps, foldl_keeps, foldl_keeps_snd, Canonical.of_mk, Canonical.parts, FsKept.st, FsKept.after, FsKept.mk]

theorem fsReply_keeps (n : ℕ) (store : Bool) (rcd : Rec) (s : State) (h_s : Canonical s) : Canonical (fsReply n store rcd s) := by
  unfold fsReply; grind [fsSend_keeps, setFsession_keeps, foldl_keeps, foldl_keeps_snd, Canonical.of_mk, Canonical.parts, FsKept.st, FsKept.after, FsKept.mk]

theorem fsAnswer_keeps (fop : ℕ) (c : FsCmd) (ck : List Byte) (store : Bool) (idx : ℕ) (r : FsRes) (h_r : FsKept r) : Canonical (fsAnswer fop c ck store idx r) := by
  unfold fsAnswer; grind [FsRes.after_keeps, State.onPwr_keeps, fsReply_keeps, bump_keeps, foldl_keeps, foldl_keeps_snd, Canonical.of_mk, Canonical.parts, FsKept.st, FsKept.after, FsKept.mk]

theorem auditAs_keeps (fop : ℕ) (c : FsCmd) (se : FSession) (status : ℕ) (s : State) (h_s : Canonical s) : Canonical (auditAs fop c se status s) := by
  unfold auditAs; grind [auditAppend_keeps, foldl_keeps, foldl_keeps_snd, Canonical.of_mk, Canonical.parts, FsKept.st, FsKept.after, FsKept.mk]

theorem fsEnd_keeps (fop : ℕ) (audited : Bool) (c : FsCmd) (se : FSession) (b : State) (r : FsRes) (h_b : Canonical b) (h_r : FsKept r) : Canonical (fsEnd fop audited c se b r) := by
  unfold fsEnd; grind [bump_keeps, State.onSec_keeps, FsRes.after_keeps, fsAnswer_keeps, auditAs_keeps, foldl_keeps, foldl_keeps_snd, Canonical.of_mk, Canonical.parts, FsKept.st, FsKept.after, FsKept.mk]

theorem fsFail_keeps (s : State) (status : ℕ) (h_s : Canonical s) : FsKept (fsFail s status) := by
  unfold fsFail; grind [foldl_keeps, foldl_keeps_snd, Canonical.of_mk, Canonical.parts, FsKept.st, FsKept.after, FsKept.mk]

theorem fsBad_keeps (s : State) (off : ℕ) (h_s : Canonical s) : FsKept (fsBad s off) := by
  unfold fsBad; grind [foldl_keeps, foldl_keeps_snd, Canonical.of_mk, Canonical.parts, FsKept.st, FsKept.after, FsKept.mk]

theorem fsOutcome_keeps (o : FsOp) (se : FSession) (s : State) (h_o : ∀ se s, Canonical s → FsKept (o.body se s)) (h_s : Canonical s) : FsKept (fsOutcome o se s).1 := by
  unfold fsOutcome
  repeat' (first | extract_lets | split)
  all_goals grind [fsFail_keeps, bump_keeps, fsBad_keeps, State.onSec_keeps, FsRes.after_keeps, foldl_keeps, foldl_keeps_snd, Canonical.of_mk, Canonical.parts, FsKept.st, FsKept.after, FsKept.mk]

theorem keepWaiting_keeps (fop : ℕ) (c : FsCmd) (line : ℕ) (s : State) (h_s : Canonical s) : Canonical (keepWaiting fop c line s) := by
  unfold keepWaiting; grind [State.onSec_keeps, foldl_keeps, foldl_keeps_snd, Canonical.of_mk, Canonical.parts, FsKept.st, FsKept.after, FsKept.mk]

theorem auditDenied_keeps (fop : ℕ) (c : FsCmd) (se : FSession) (s : State) (h_s : Canonical s) : Canonical (auditDenied fop c se s).2 := by
  unfold auditDenied; grind [setCtx_keeps, auditAs_keeps, foldl_keeps, foldl_keeps_snd, Canonical.of_mk, Canonical.parts, FsKept.st, FsKept.after, FsKept.mk]

theorem fsExecute_keeps (o : FsOp) (c : FsCmd) (se : FSession) (ck : List Byte) (s : State) (h_o : ∀ se s, Canonical s → FsKept (o.body se s)) (h_s : Canonical s) : Canonical (fsExecute o c se ck s) := by
  unfold fsExecute; grind [fsOutcome_keeps, keepWaiting_keeps, fsAnswer_keeps, fsFail_keeps, auditAs_keeps, FsRes.after_keeps, auditDenied_keeps, foldl_keeps, foldl_keeps_snd, Canonical.of_mk, Canonical.parts, FsKept.st, FsKept.after, FsKept.mk]

theorem useSlowInject_keeps (s : State) (h_s : Canonical s) : Canonical (useSlowInject s) := by
  unfold useSlowInject; grind [State.onGov_keeps, foldl_keeps, foldl_keeps_snd, Canonical.of_mk, Canonical.parts, FsKept.st, FsKept.after, FsKept.mk]

theorem setStream_keeps (sid : ℕ) (f : Stream → Stream) (s : State) (h_s : Canonical s) : Canonical (setStream sid f s) := by
  unfold setStream; grind [State.onCore_keeps, foldl_keeps, foldl_keeps_snd, Canonical.of_mk, Canonical.parts, FsKept.st, FsKept.after, FsKept.mk]

theorem failWord_keeps (sid : ℕ) (num : ℕ) (pc : ℕ) (status : ℕ) (cause : ℕ) (s : State) (h_s : Canonical s) : Canonical (failWord sid num pc status cause s) := by
  unfold failWord; grind [setStream_keeps, foldl_keeps, foldl_keeps_snd, Canonical.of_mk, Canonical.parts, FsKept.st, FsKept.after, FsKept.mk]

theorem drawn_keeps (mode : ℕ) (bs : List (ℕ × ℕ)) (s : State) (h_s : Canonical s) : Canonical (drawn mode bs s) := by
  unfold drawn; grind [State.onCore_keeps, foldl_keeps, foldl_keeps_snd, Canonical.of_mk, Canonical.parts, FsKept.st, FsKept.after, FsKept.mk]

theorem vecEffect_keeps (sid : ℕ) (i : Issued) (s : State) (h_s : Canonical s) : Canonical (vecEffect sid i s) := by
  unfold vecEffect; grind [failWord_keeps, setStream_keeps, drawn_keeps, foldl_keeps, foldl_keeps_snd, Canonical.of_mk, Canonical.parts, FsKept.st, FsKept.after, FsKept.mk]

theorem accrue_keeps (sid : ℕ) (s : State) (h_s : Canonical s) : Canonical (accrue sid s) := by
  unfold accrue; grind [setStream_keeps, State.onCore_keeps, foldl_keeps, foldl_keeps_snd, Canonical.of_mk, Canonical.parts, FsKept.st, FsKept.after, FsKept.mk]

theorem readyV_keeps (n : ℕ) (s : State) (h_s : Canonical s) : Canonical (readyV n s) := by
  unfold readyV; grind [accrue_keeps, State.onCore_keeps, foldl_keeps, foldl_keeps_snd, Canonical.of_mk, Canonical.parts, FsKept.st, FsKept.after, FsKept.mk]

theorem admitStream_keeps (n : ℕ) (d : List Byte) (s : State) (h_s : Canonical s) : Canonical (admitStream n d s).2 := by
  unfold admitStream; grind [State.onCore_keeps, readyV_keeps, foldl_keeps, foldl_keeps_snd, Canonical.of_mk, Canonical.parts, FsKept.st, FsKept.after, FsKept.mk]

theorem settleGroup_keeps (off : ℕ) (ok : Bool) (s : State) (h_s : Canonical s) : Canonical (settleGroup off ok s) := by
  unfold settleGroup; grind [State.onEng_keeps, foldl_keeps, foldl_keeps_snd, Canonical.of_mk, Canonical.parts, FsKept.st, FsKept.after, FsKept.mk]

theorem poisonConsumed_keeps (prt : ℕ) (addr : ℕ) (status : ℕ) (s : State) (h_s : Canonical s) : Canonical (poisonConsumed prt addr status s) := by
  unfold poisonConsumed; grind [event_keeps, foldl_keeps, foldl_keeps_snd, Canonical.of_mk, Canonical.parts, FsKept.st, FsKept.after, FsKept.mk]

theorem retryMarks_keeps (n : ℕ) (it : Item) (quiet : Bool) (s : State) (h_s : Canonical s) : Canonical (retryMarks n it quiet s) := by
  unfold retryMarks; grind [setCtx_keeps, foldl_keeps, foldl_keeps_snd, Canonical.of_mk, Canonical.parts, FsKept.st, FsKept.after, FsKept.mk]

theorem setIssued_keeps (sid : ℕ) (num : ℕ) (f : Issued → Issued) (s : State) (h_s : Canonical s) : Canonical (setIssued sid num f s) := by
  unfold setIssued; grind [State.onCore_keeps, foldl_keeps, foldl_keeps_snd, Canonical.of_mk, Canonical.parts, FsKept.st, FsKept.after, FsKept.mk]

theorem finishQ_keeps (quiet : Bool) (it : Item) (status : ℕ) (value : ℕ) (payload : List Byte) (s : State) (h_s : Canonical s) : Canonical (finishQ quiet it status value payload s) := by
  unfold finishQ; grind [poisonConsumed_keeps, bump_keeps, sendRec_keeps, setCtx_keeps, retryMarks_keeps, setIssued_keeps, foldl_keeps, foldl_keeps_snd, Canonical.of_mk, Canonical.parts, FsKept.st, FsKept.after, FsKept.mk]

theorem finish_keeps (it : Item) (status : ℕ) (value : ℕ) (payload : List Byte) (s : State) (h_s : Canonical s) : Canonical (finish it status value payload s) := by
  unfold finish; grind [finishQ_keeps, foldl_keeps, foldl_keeps_snd, Canonical.of_mk, Canonical.parts, FsKept.st, FsKept.after, FsKept.mk]

theorem removeItem_keeps (id : ℕ) (s : State) (h_s : Canonical s) : Canonical (removeItem id s) := by
  unfold removeItem; grind [State.onHome_keeps, foldl_keeps, foldl_keeps_snd, Canonical.of_mk, Canonical.parts, FsKept.st, FsKept.after, FsKept.mk]

theorem endItem_keeps (it : Item) (status : ℕ) (value : ℕ) (payload : List Byte) (s : State) (h_s : Canonical s) : Canonical (endItem it status value payload s) := by
  unfold endItem; grind [bump_keeps, settleGroup_keeps, finish_keeps, removeItem_keeps, foldl_keeps, foldl_keeps_snd, Canonical.of_mk, Canonical.parts, FsKept.st, FsKept.after, FsKept.mk]

theorem takeFelset_keeps (c : FsCmd) (s : State) (h_s : Canonical s) : Canonical (takeFelset c s) := by
  unfold takeFelset; grind [setCtx_keeps, foldl_keeps, foldl_keeps_snd, Canonical.of_mk, Canonical.parts, FsKept.st, FsKept.after, FsKept.mk]

theorem fsGone_keeps (s : State) (h_s : Canonical s) : Canonical (fsGone s) := by
  unfold fsGone; grind [State.onSec_keeps, foldl_keeps, foldl_keeps_snd, Canonical.of_mk, Canonical.parts, FsKept.st, FsKept.after, FsKept.mk]

theorem fsTake_keeps (o : FsOp) (c : FsCmd) (s : State) (h_o : ∀ se s, Canonical s → FsKept (o.body se s)) (h_s : Canonical s) : Canonical (fsTake o c s) := by
  unfold fsTake; grind [takeFelset_keeps, fsAnswer_keeps, fsFail_keeps, bump_keeps, event_keeps, auditDenied_keeps, fsExecute_keeps, setFsession_keeps, fsSend_keeps, foldl_keeps, foldl_keeps_snd, Canonical.of_mk, Canonical.parts, FsKept.st, FsKept.after, FsKept.mk]

theorem runFelset_keeps (o : FsOp) (c : FsCmd) (s : State) (h_o : ∀ se s, Canonical s → FsKept (o.body se s)) (h_s : Canonical s) : Canonical (runFelset o c s) := by
  unfold runFelset; grind [State.onSec_keeps, takeFelset_keeps, fsGone_keeps, fsTake_keeps, foldl_keeps, foldl_keeps_snd, Canonical.of_mk, Canonical.parts, FsKept.st, FsKept.after, FsKept.mk]

theorem unknownFop_keeps (fop : ℕ) (c : FsCmd) (s : State) (h_s : Canonical s) : Canonical (unknownFop fop c s) := by
  unfold unknownFop; grind [runFelset_keeps, fsFail_keeps, foldl_keeps, foldl_keeps_snd, Canonical.of_mk, Canonical.parts, FsKept.st, FsKept.after, FsKept.mk]

theorem arrive_keeps (op : ℕ) (c : TxnReq) (syms : SymErr) (s : State) (h_s : Canonical s) : Canonical (arrive op c syms s).2 := by
  unfold arrive; grind [setCtx_keeps, State.onHome_keeps, foldl_keeps, foldl_keeps_snd, Canonical.of_mk, Canonical.parts, FsKept.st, FsKept.after, FsKept.mk]

theorem weirAdmit_keeps (n : ℕ) (prt : ℕ) (lines : ℕ) (s : State) (h_s : Canonical s) : Canonical (weirAdmit n prt lines s).2 := by
  unfold weirAdmit; grind [setCtx_keeps, foldl_keeps, foldl_keeps_snd, Canonical.of_mk, Canonical.parts, FsKept.st, FsKept.after, FsKept.mk]

theorem reqIn_keeps (op : ℕ) (c : TxnReq) (syms : SymErr) (s : State) (h_s : Canonical s) : Canonical (reqIn op c syms s).2 := by
  unfold reqIn; grind [arrive_keeps, weirAdmit_keeps, foldl_keeps, foldl_keeps_snd, Canonical.of_mk, Canonical.parts, FsKept.st, FsKept.after, FsKept.mk]

theorem cwStore_keeps (a : ℕ) (v : ℕ) (s : State) (h_s : Canonical s) : Canonical (cwStore a v s) := by
  unfold cwStore; grind [foldl_keeps, foldl_keeps_snd, Canonical.of_mk, Canonical.parts, FsKept.st, FsKept.after, FsKept.mk]

theorem loadStrap_keeps (a : ℕ) (w : ℕ) (s : State) (h_s : Canonical s) : Canonical (loadStrap a w s) := by
  unfold loadStrap; grind [cwStore_keeps, foldl_keeps, foldl_keeps_snd, Canonical.of_mk, Canonical.parts, FsKept.st, FsKept.after, FsKept.mk]

theorem cwSetField_keeps (a : ℕ) (h : ℕ) (l : ℕ) (v : ℕ) (s : State) (h_s : Canonical s) : Canonical (cwSetField a h l v s) := by
  unfold cwSetField; grind [cwStore_keeps, foldl_keeps, foldl_keeps_snd, Canonical.of_mk, Canonical.parts, FsKept.st, FsKept.after, FsKept.mk]

theorem loadStraps_keeps (powerUp : Bool) (s : State) (h_s : Canonical s) : Canonical (loadStraps powerUp s) := by
  unfold loadStraps; grind [loadStrap_keeps, cwSetField_keeps, foldl_keeps, foldl_keeps_snd, Canonical.of_mk, Canonical.parts, FsKept.st, FsKept.after, FsKept.mk]

theorem beginSweep_keeps (g : Grant) (s : State) (h_s : Canonical s) : Canonical (beginSweep g s) := by
  unfold beginSweep; grind [State.onHome_keeps, State.onSec_keeps, foldl_keeps, foldl_keeps_snd, Canonical.of_mk, Canonical.parts, FsKept.st, FsKept.after, FsKept.mk]

theorem itemsFailed_keeps (kind : ℕ) (unit : ℕ) (ps : List ℕ) (s : State) (h_s : Canonical s) : Canonical (itemsFailed kind unit ps s) := by
  unfold itemsFailed; grind [event_keeps, foldl_keeps, foldl_keeps_snd, Canonical.of_mk, Canonical.parts, FsKept.st, FsKept.after, FsKept.mk]

theorem dropWork_keeps (id : ℕ) (s : State) (h_s : Canonical s) : Canonical (dropWork id s) := by
  unfold dropWork; grind [State.onEng_keeps, foldl_keeps, foldl_keeps_snd, Canonical.of_mk, Canonical.parts, FsKept.st, FsKept.after, FsKept.mk]

theorem wordAnswer_keeps (sid : ℕ) (num : ℕ) (w : Issued) (s : State) (h_s : Canonical s) : ∀ x, wordAnswer sid num w s = some x → Canonical x.2 := by
  unfold wordAnswer; grind [bump_keeps, removeItem_keeps, dropWork_keeps, foldl_keeps, foldl_keeps_snd, Canonical.of_mk, Canonical.parts, FsKept.st, FsKept.after, FsKept.mk]

theorem forgetEnded_keeps (s : State) (h_s : Canonical s) : Canonical (forgetEnded s) := by
  unfold forgetEnded; grind [State.onCore_keeps, foldl_keeps, foldl_keeps_snd, Canonical.of_mk, Canonical.parts, FsKept.st, FsKept.after, FsKept.mk]

theorem endStream_keeps (sid : ℕ) (s : State) (h_s : Canonical s) : Canonical (endStream sid s) := by
  unfold endStream; grind [State.onCore_keeps, accrue_keeps, setStream_keeps, forgetEnded_keeps, bump_keeps, sendRec_keeps, foldl_keeps, foldl_keeps_snd, Canonical.of_mk, Canonical.parts, FsKept.st, FsKept.after, FsKept.mk]

theorem settleGo_keeps (n sid : Nat) (s : State) (h : Canonical s) : Canonical (settleGo n sid s) := by
  induction n generalizing s with
  | zero => unfold settleGo; exact h
  | succ k ih => unfold settleGo; grind [endStream_keeps, setStream_keeps, failWord_keeps]

theorem startNext_keeps (sid : ℕ) (e : Eng) (s : State) (h_s : Canonical s) : Canonical (startNext sid e s) := by
  unfold startNext; grind [setStream_keeps, foldl_keeps, foldl_keeps_snd, Canonical.of_mk, Canonical.parts, FsKept.st, FsKept.after, FsKept.mk]

theorem submit_keeps (sid : ℕ) (num : ℕ) (op : ℕ) (off : ℕ) (param : ℕ) (payload : List Byte) (s : State) (h_s : Canonical s) : Canonical (submit sid num op off param payload s) := by
  unfold submit; grind [State.onHome_keeps, foldl_keeps, foldl_keeps_snd, Canonical.of_mk, Canonical.parts, FsKept.st, FsKept.after, FsKept.mk]

theorem orFlags_keeps (sid : ℕ) (fl : ℕ) (s : State) (h_s : Canonical s) : Canonical (orFlags sid fl s) := by
  unfold orFlags; grind [State.onCore_keeps, setStream_keeps, foldl_keeps, foldl_keeps_snd, Canonical.of_mk, Canonical.parts, FsKept.st, FsKept.after, FsKept.mk]

theorem completeWord_keeps (sid : ℕ) (num : ℕ) (s : State) (h_s : Canonical s) : Canonical (completeWord sid num s) := by
  unfold completeWord; grind [orFlags_keeps, failWord_keeps, setStream_keeps, foldl_keeps, foldl_keeps_snd, Canonical.of_mk, Canonical.parts, FsKept.st, FsKept.after, FsKept.mk]

theorem sendNotifyWord_keeps (sid : ℕ) (w : Issued) (s : State) (h_s : Canonical s) : Canonical (sendNotifyWord sid w s) := by
  unfold sendNotifyWord; grind [sendRec_keeps, foldl_keeps, foldl_keeps_snd, Canonical.of_mk, Canonical.parts, FsKept.st, FsKept.after, FsKept.mk]

theorem launch_keeps (sid : ℕ) (w : Issued) (s : State) (h_s : Canonical s) : Canonical (launch sid w s) := by
  unfold launch; grind [setStream_keeps, submit_keeps, completeWord_keeps, sendNotifyWord_keeps, foldl_keeps, foldl_keeps_snd, Canonical.of_mk, Canonical.parts, FsKept.st, FsKept.after, FsKept.mk]

theorem launchHeld_keeps (n sid : Nat) (s : State) (h : Canonical s) : Canonical (launchHeld n sid s) := by
  induction n generalizing s with
  | zero => unfold launchHeld; exact h
  | succ k ih => unfold launchHeld; grind [launch_keeps]

theorem settle_keeps (sid : ℕ) (s : State) (h_s : Canonical s) : Canonical (settle sid s) := by
  unfold settle; grind [settleGo_keeps, startNext_keeps, launchHeld_keeps, foldl_keeps, foldl_keeps_snd, Canonical.of_mk, Canonical.parts, FsKept.st, FsKept.after, FsKept.mk]

theorem offerWords_keeps (s : State) (h_s : Canonical s) : Canonical (offerWords s) := by
  unfold offerWords; grind [State.onPwr_keeps, foldl_keeps, foldl_keeps_snd, Canonical.of_mk, Canonical.parts, FsKept.st, FsKept.after, FsKept.mk]

theorem setMillpond_keeps (q : ℕ) (f : Millpond → Millpond) (s : State) (h_s : Canonical s) : Canonical (setMillpond q f s) := by
  unfold setMillpond; grind [State.onStore_keeps, foldl_keeps, foldl_keeps_snd, Canonical.of_mk, Canonical.parts, FsKept.st, FsKept.after, FsKept.mk]

theorem beginT3_keeps (key : ℕ) (s : State) (h_s : Canonical s) : Canonical (beginT3 key s) := by
  unfold beginT3; grind [setMillpond_keeps, State.onStore_keeps, foldl_keeps, foldl_keeps_snd, Canonical.of_mk, Canonical.parts, FsKept.st, FsKept.after, FsKept.mk]

theorem startReads_keeps (s : State) (h_s : Canonical s) : Canonical (startReads s) := by
  unfold startReads; grind [beginT3_keeps, foldl_keeps, foldl_keeps_snd, Canonical.of_mk, Canonical.parts, FsKept.st, FsKept.after, FsKept.mk]

theorem afterPump_keeps (s : State) (h_s : Canonical s) : Canonical (afterPump s) := by
  unfold afterPump; grind [offerWords_keeps, startReads_keeps, foldl_keeps, foldl_keeps_snd, Canonical.of_mk, Canonical.parts, FsKept.st, FsKept.after, FsKept.mk]

theorem partFail_keeps (n : ℕ) (s : State) (h_s : Canonical s) : Canonical (partFail n s) := by
  unfold partFail; grind [bump_keeps, setCtx_keeps, event_keeps, foldl_keeps, foldl_keeps_snd, Canonical.of_mk, Canonical.parts, FsKept.st, FsKept.after, FsKept.mk]

theorem srcFail_keeps (src : Src) (s : State) (h_s : Canonical s) : Canonical (srcFail src s) := by
  unfold srcFail; grind [partFail_keeps, bump_keeps, foldl_keeps, foldl_keeps_snd, Canonical.of_mk, Canonical.parts, FsKept.st, FsKept.after, FsKept.mk]

theorem denyItem_keeps (it : Item) (st : ℕ) (s : State) (h_s : Canonical s) : Canonical (denyItem it st s) := by
  unfold denyItem; grind [endItem_keeps, srcFail_keeps, foldl_keeps, foldl_keeps_snd, Canonical.of_mk, Canonical.parts, FsKept.st, FsKept.after, FsKept.mk]

theorem updateItem_keeps (id : ℕ) (f : Item → Item) (s : State) (h_s : Canonical s) : Canonical (updateItem id f s) := by
  unfold updateItem; grind [State.onHome_keeps, foldl_keeps, foldl_keeps_snd, Canonical.of_mk, Canonical.parts, FsKept.st, FsKept.after, FsKept.mk]

theorem firstLook_keeps (it : Item) (addr : ℕ) (s : State) (h_s : Canonical s) : Canonical (firstLook it addr s) := by
  unfold firstLook; grind [updateItem_keeps, foldl_keeps, foldl_keeps_snd, Canonical.of_mk, Canonical.parts, FsKept.st, FsKept.after, FsKept.mk]

theorem placeT3_keeps (s : State) (pg q n : Nat) (h : Canonical s) : ∀ x, placeT3 s pg q n = some x → Canonical x.2 := by
  unfold placeT3
  generalize hf : (fun (r : Option (Nat × State)) (i : Nat) => _) = f
  have step : ∀ r i, (∀ x, r = some x → Canonical x.2) → ∀ x, f r i = some x → Canonical x.2 := by
    intro r i hr x e
    subst hf
    dsimp only at e
    split at e
    · exact hr x e
    · split at e
      · cases e; exact setMillpond_keeps _ _ _ h
      · cases e
  clear hf
  generalize hl : t3Order s q = l
  clear hl
  suffices k : ∀ r : Option (Nat × State), (∀ x, r = some x → Canonical x.2) → ∀ x, l.foldl f r = some x → Canonical x.2 from k none (by simp)
  induction l with
  | nil => exact fun r hr x e => hr x e
  | cons a l ih => exact fun r hr => ih _ (step r a hr)

theorem t3Place_keeps (s : State) (p prt : Nat) (quotaToo : Bool) (h : Canonical s) :
    ∀ x, t3Place s p prt quotaToo = some x → Canonical x.2 := by
  intro x e
  unfold t3Place at e
  dsimp only at e
  split at e
  · cases e
  · obtain ⟨y, hy, rfl⟩ := Option.map_eq_some_iff.mp e
    exact placeT3_keeps s _ _ _ h y hy

theorem moveDest_keeps (p : Nat) (w : MoveWhy) (s : State) (h : Canonical s) : ∀ x, moveDest p w s = some x → Canonical x.2 := by
  have hs : ∀ (m : Option Move) (f : Move → Move), ∀ x, (m.map fun m => (f m, s)) = some x → Canonical x.2 := by
    intro m f x e
    obtain ⟨y, _, rfl⟩ := Option.map_eq_some_iff.mp e
    exact h
  have ht : ∀ (q : Bool) (g : Move × State → Move × State), (∀ x, (g x).2 = x.2) →
      ∀ x, (t3Place s p (page s p).part q).map g = some x → Canonical x.2 := by
    intro q g hg x e
    obtain ⟨y, hy, rfl⟩ := Option.map_eq_some_iff.mp e
    rw [hg]
    exact t3Place_keeps s p _ q h y hy
  have ho : ∀ a b : Option (Move × State), (∀ x, a = some x → Canonical x.2) → (∀ x, b = some x → Canonical x.2) →
      ∀ x, (a <|> b) = some x → Canonical x.2 := by
    intro a b ha hb x e
    cases a with
    | some y => exact ha x e
    | none => exact hb x e
  unfold moveDest
  dsimp only
  split
  · exact ho _ _ (hs _ _) (ho _ _ (hs _ _) (ht _ _ fun _ => rfl))
  · exact ho _ _ (hs _ _) (hs _ _)
  · refine ho _ _ (hs _ _) ?_
    split
    · exact hs _ _
    · simp
  · split
    · exact ho _ _ (hs _ _) (ht _ _ fun _ => rfl)
    · exact ht _ _ fun _ => rfl

theorem pageForWrite_keeps_wait (p : ℕ) (s : State) (h_s : Canonical s) : ∀ t, pageForWrite p s = .wait t → Canonical t := by
  unfold pageForWrite; grind [moveDest_keeps, requestMove_keeps, foldl_keeps, foldl_keeps_snd, Canonical.of_mk, Canonical.parts, FsKept.st, FsKept.after, FsKept.mk]

theorem pageForWrite_keeps_answer (p : ℕ) (s : State) (h_s : Canonical s) : ∀ k t, pageForWrite p s = .answer k t → Canonical t := by
  unfold pageForWrite; grind [moveDest_keeps, requestMove_keeps, foldl_keeps, foldl_keeps_snd, Canonical.of_mk, Canonical.parts, FsKept.st, FsKept.after, FsKept.mk]

theorem queueUp_keeps (w : SetWrite) (ls : List ℕ) (s : State) (h_s : Canonical s) : ∀ t, queueUp w ls s = some t → Canonical t := by
  unfold queueUp; grind [updateItem_keeps, State.onHome_keeps, foldl_keeps, foldl_keeps_snd, Canonical.of_mk, Canonical.parts, FsKept.st, FsKept.after, FsKept.mk]

theorem waitAt_keeps_wait (w : SetWrite) (ls : List Nat) (o : Option State) (s : State) (ho : ∀ t, o = some t → Canonical t) (h : Canonical s) :
    ∀ t, waitAt w ls o s = .wait (some t) → Canonical t := by
  unfold waitAt
  intro t e
  split at e
  · cases e
    exact OptKept.getD (queueUp_keeps _ _ _ (ho _ rfl)) (ho _ rfl)
  · have e' := EngR.wait.inj e
    exact queueUp_keeps _ _ _ h _ e'

theorem waitAt_keeps_bad (w : SetWrite) (ls : List Nat) (o : Option State) (s : State) (ho : ∀ t, o = some t → Canonical t) (h : Canonical s) :
    ∀ k t, waitAt w ls o s = .bad k t → Canonical t := by
  unfold waitAt
  intro k t e
  split at e <;> cases e

theorem takeArmed_keeps (kind : ℕ) (unit : ℕ) (faults : List ℕ) (s : State) (h_s : Canonical s) : Canonical (takeArmed kind unit faults s).2 := by
  unfold takeArmed; grind [State.onGov_keeps, foldl_keeps, foldl_keeps_snd, Canonical.of_mk, Canonical.parts, FsKept.st, FsKept.after, FsKept.mk]

theorem countEvent_keeps (k : EvKind) (kind : ℕ) (unit : ℕ) (addr : ℕ) (inj : Bool) (s : State) (h_s : Canonical s) : Canonical (countEvent k kind unit addr inj s) := by
  unfold countEvent; grind [bump_keeps, setUnitH_keeps, event_keeps, foldl_keeps, foldl_keeps_snd, Canonical.of_mk, Canonical.parts, FsKept.st, FsKept.after, FsKept.mk]

theorem poisonLine_keeps (line : ℕ) (u : Option (ℕ × ℕ)) (inj : Bool) (s : State) (h_s : Canonical s) : Canonical (poisonLine line u inj s) := by
  unfold poisonLine; grind [bump_keeps, setPoison_keeps, event_keeps, foldl_keeps, foldl_keeps_snd, Canonical.of_mk, Canonical.parts, FsKept.st, FsKept.after, FsKept.mk]

theorem noteDevice_keeps (k : ℕ) (u : ℕ) (e : SymErr) (s : State) (h_s : Canonical s) : Canonical (noteDevice k u e s) := by
  unfold noteDevice; grind [setUnitH_keeps, foldl_keeps, foldl_keeps_snd, Canonical.of_mk, Canonical.parts, FsKept.st, FsKept.after, FsKept.mk]

theorem tierRead_keeps (line : ℕ) (syms : SymErr) (s : State) (h_s : Canonical s) : Canonical (tierRead line syms s).2 := by
  unfold tierRead; grind [takeArmed_keeps, countEvent_keeps, poisonLine_keeps, noteDevice_keeps, foldl_keeps, foldl_keeps_snd, Canonical.of_mk, Canonical.parts, FsKept.st, FsKept.after, FsKept.mk]

theorem fetchLine_keeps (line : ℕ) (syms : SymErr) (s : State) (h_s : Canonical s) : Canonical (fetchLine line syms s).2 := by
  unfold fetchLine; grind [tierRead_keeps, lcTouch_keeps, foldl_keeps, foldl_keeps_snd, Canonical.of_mk, Canonical.parts, FsKept.st, FsKept.after, FsKept.mk]

theorem drainComb_keeps (line : ℕ) (s : State) (h_s : Canonical s) : Canonical (drainComb line s) := by
  unfold drainComb; grind [fetchLine_keeps, State.onHome_keeps, putLines_keeps, foldl_keeps, foldl_keeps_snd, Canonical.of_mk, Canonical.parts, FsKept.st, FsKept.after, FsKept.mk]

theorem prepAll_keeps (f : Nat → State → Prep) (ls : List Nat) (s : State)
    (hf : ∀ l s, Canonical s → ∀ t, f l s = .go t → Canonical t) (h : Canonical s) : ∀ t, prepAll f ls s = .go t → Canonical t := by
  unfold prepAll
  split
  · intro t e
    cases e
    exact foldl_keeps _ _ _ (fun s l h => drainComb_keeps l s h) h
  · suffices k : ∀ (ls : List Nat) (r : Prep), (∀ t, r = .go t → Canonical t) → ∀ t, ls.foldl (fun r l => match r with
        | .ready => f l s
        | .wait => (match f l s with | .go s' => .go s' | _ => .wait)
        | .go s1 => (match f l s1 with | .go s2 => .go s2 | _ => .go s1)) r = .go t → Canonical t from k ls .ready (by simp)
    intro ls
    induction ls with
    | nil => exact fun r hr t e => hr t e
    | cons a ls ih =>
      intro r hr
      rw [List.foldl_cons]
      apply ih
      intro t e
      split at e
      · exact hf a s h t e
      · split at e
        · next e' => cases e; exact hf a s h _ e'
        · cases e
      · split at e
        · next e' => cases e; exact hf a _ (hr _ rfl) _ e'
        · cases e; exact hr _ rfl

theorem sendSnoop_keeps (n : ℕ) (op : ℕ) (line : ℕ) (param : ℕ) (s : State) (h_s : Canonical s) : Canonical (sendSnoop n op line param s).2 := by
  unfold sendSnoop; grind [bump_keeps, State.onHome_keeps, sendRec_keeps, foldl_keeps, foldl_keeps_snd, Canonical.of_mk, Canonical.parts, FsKept.st, FsKept.after, FsKept.mk]

theorem sendSnoops_keeps (op : ℕ) (line : ℕ) (ns : List ℕ) (s : State) (h_s : Canonical s) : Canonical (sendSnoops op line ns s).2 := by
  unfold sendSnoops; grind [sendSnoop_keeps, foldl_keeps, foldl_keeps_snd, Canonical.of_mk, Canonical.parts, FsKept.st, FsKept.after, FsKept.mk]

theorem setDir_keeps (line : ℕ) (f : DirEnt → DirEnt) (s : State) (h_s : Canonical s) : Canonical (setDir line f s) := by
  unfold setDir; grind [State.onHome_keeps, foldl_keeps, foldl_keeps_snd, Canonical.of_mk, Canonical.parts, FsKept.st, FsKept.after, FsKept.mk]

theorem startXR_keeps (line : ℕ) (down : Bool) (s : State) (h_s : Canonical s) : Canonical (startXR line down s) := by
  unfold startXR; grind [sendSnoops_keeps, setDir_keeps, foldl_keeps, foldl_keeps_snd, Canonical.of_mk, Canonical.parts, FsKept.st, FsKept.after, FsKept.mk]

theorem prepRead_keeps (line : ℕ) (s : State) (h_s : Canonical s) : ∀ t, prepRead line s = .go t → Canonical t := by
  unfold prepRead; grind [startXR_keeps, foldl_keeps, foldl_keeps_snd, Canonical.of_mk, Canonical.parts, FsKept.st, FsKept.after, FsKept.mk]

theorem freeDir_keeps (line : ℕ) (s : State) (h_s : Canonical s) : Canonical (freeDir line s) := by
  unfold freeDir; grind [State.onHome_keeps, foldl_keeps, foldl_keeps_snd, Canonical.of_mk, Canonical.parts, FsKept.st, FsKept.after, FsKept.mk]

theorem endTxn_keeps (line : ℕ) (s : State) (h_s : Canonical s) : Canonical (endTxn line s) := by
  unfold endTxn; grind [freeDir_keeps, setDir_keeps, foldl_keeps, foldl_keeps_snd, Canonical.of_mk, Canonical.parts, FsKept.st, FsKept.after, FsKept.mk]

theorem startSI_keeps (line : ℕ) (but : Option ℕ) (s : State) (h_s : Canonical s) : Canonical (startSI line but s) := by
  unfold startSI; grind [sendSnoops_keeps, bump_keeps, endTxn_keeps, setDir_keeps, foldl_keeps, foldl_keeps_snd, Canonical.of_mk, Canonical.parts, FsKept.st, FsKept.after, FsKept.mk]

theorem prepWrite_keeps (line : ℕ) (own : Option ℕ) (s : State) (h_s : Canonical s) : ∀ t, prepWrite line own s = .go t → Canonical t := by
  unfold prepWrite; grind [startXR_keeps, startSI_keeps, foldl_keeps, foldl_keeps_snd, Canonical.of_mk, Canonical.parts, FsKept.st, FsKept.after, FsKept.mk]

theorem startBI_keeps (line : ℕ) (room : ℕ) (s : State) (h_s : Canonical s) : Canonical (startBI line room s) := by
  unfold startBI; grind [sendSnoops_keeps, bump_keeps, endTxn_keeps, setDir_keeps, foldl_keeps, foldl_keeps_snd, Canonical.of_mk, Canonical.parts, FsKept.st, FsKept.after, FsKept.mk]

theorem prepHolds_keeps (ls : List Nat) (s : State) (h : Canonical s) : ∀ t, prepHolds ls s = .go t → Canonical t := by
  unfold prepHolds
  generalize hf : (fun (r : Prep) (l : Nat) => _) = f
  have step : ∀ r l, (∀ t, r = .go t → Canonical t) → ∀ t, f r l = .go t → Canonical t := by
    intro r l hr t e
    subst hf
    dsimp only at e
    split at e
    · repeat' split at e
      all_goals first
        | (cases e; done)
        | (cases e; exact startBI_keeps _ _ _ h)
    · exact hr t e
  clear hf
  suffices k : ∀ (l : List Nat) (r : Prep), (∀ t, r = .go t → Canonical t) → ∀ t, l.foldl f r = .go t → Canonical t from k ls .ready (by simp)
  intro l
  induction l with
  | nil => exact fun r hr t e => hr t e
  | cons a l ih => exact fun r hr => ih _ (step r a hr)

theorem stopAll_keeps (s : State) (h : Canonical s) (ps : List Nat) (r : Stop)
    (hr : (∀ t, r = .wait t → Canonical t) ∧ ∀ k t, r = .answer k t → Canonical t) :
    (∀ t, ps.foldl (fun r p => match r with | .go => pageForWrite p s | r => r) r = .wait t → Canonical t)
    ∧ ∀ k t, ps.foldl (fun r p => match r with | .go => pageForWrite p s | r => r) r = .answer k t → Canonical t := by
  induction ps generalizing r with
  | nil => exact hr
  | cons p ps ih =>
    rw [List.foldl_cons]
    apply ih
    split
    · exact ⟨pageForWrite_keeps_wait p s h, pageForWrite_keeps_answer p s h⟩
    · exact hr

theorem stopAll_line_keeps (s : State) (h : Canonical s) (ls : List Nat) (r : Stop)
    (hr : (∀ t, r = .wait t → Canonical t) ∧ ∀ k t, r = .answer k t → Canonical t) :
    (∀ t, ls.foldl (fun r l => match r with | .go => pageForWrite (l / 1024) s | r => r) r = .wait t → Canonical t)
    ∧ ∀ k t, ls.foldl (fun r l => match r with | .go => pageForWrite (l / 1024) s | r => r) r = .answer k t → Canonical t := by
  induction ls generalizing r with
  | nil => exact hr
  | cons p ps ih =>
    rw [List.foldl_cons]
    apply ih
    split
    · exact ⟨pageForWrite_keeps_wait _ s h, pageForWrite_keeps_answer _ s h⟩
    · exact hr

theorem engReady_both (w : SetWrite) (reads writes : List Nat) (s : State) (h : Canonical s) :
    (∀ o, engReady w reads writes s = .wait o → OptKept o) ∧ (∀ k t, engReady w reads writes s = .bad k t → Canonical t) := by
  have hs := stopAll_keeps s h (writes.map (· / 1024)).dedup .go (by simp)
  have hn : ∀ l, (∀ o, waitAt w l none s = .wait o → OptKept o) ∧ ∀ k t, waitAt w l none s = .bad k t → Canonical t := fun l =>
    ⟨fun o e t et => waitAt_keeps_wait w l none s (by simp) h t (et ▸ e), waitAt_keeps_bad w l none s (by simp) h⟩
  have hy : ∀ l u, Canonical u → (∀ o, waitAt w l (some u) s = .wait o → OptKept o) ∧ ∀ k t, waitAt w l (some u) s = .bad k t → Canonical t :=
    fun l u hu => ⟨fun o e t et => waitAt_keeps_wait w l _ s (by rintro _ ⟨⟩; exact hu) h t (et ▸ e),
      waitAt_keeps_bad w l _ s (by rintro _ ⟨⟩; exact hu) h⟩
  have hr : ∀ st u, Canonical u → (∀ o, EngR.bad st u = .wait o → OptKept o) ∧ ∀ k t, EngR.bad st u = .bad k t → Canonical t := by
    intro st u hu
    constructor
    · intro o e; cases e
    · intro k t e; cases e; exact hu
  have hw : (∀ o, EngR.wait none = .wait o → OptKept o) ∧ ∀ k t, EngR.wait none = .bad k t → Canonical t := by
    constructor
    · intro o e; cases e; exact OptKept.of_none
    · intro k t e; cases e
  unfold engReady
  extract_lets ls
  split
  · exact hr _ _ h
  · split
    · exact hw
    · split
      · exact hw
      · split
        · next e =>
          split
          · exact hn _
          · exact hy _ _ (hs.1 _ e)
        · next e => exact hr _ _ (hs.2 _ _ e)
        · split
          · exact hn _
          · split
            · exact hn _
            · split
              · exact hn _
              · next e => exact hy _ _ (prepAll_keeps _ _ s (fun l s h => prepRead_keeps l s h) h _ e)
              · split
                · exact hn _
                · next e => exact hy _ _ (prepAll_keeps _ _ s (fun l s h => prepWrite_keeps l none s h) h _ e)
                · split
                  · exact hn _
                  · next e =>
                    refine hy _ _ ?_
                    split at e
                    · exact prepHolds_keeps _ _ h _ e
                    · cases e
                  · exact ⟨(by intro o e; cases e), (by intro k t e; cases e)⟩

theorem engReady_keeps_wait (w : SetWrite) (reads writes : List Nat) (s : State) (h : Canonical s) :
    ∀ t, engReady w reads writes s = .wait (some t) → Canonical t := fun t e => (engReady_both w reads writes s h).1 _ e t rfl

theorem engReady_keeps_bad (w : SetWrite) (reads writes : List Nat) (s : State) (h : Canonical s) :
    ∀ k t, engReady w reads writes s = .bad k t → Canonical t := (engReady_both w reads writes s h).2

theorem engReady_wait_kept {w : SetWrite} {reads writes : List Nat} {s : State} {o : Option State}
    (e : engReady w reads writes s = .wait o) (h : Canonical s) : OptKept o := (engReady_both w reads writes s h).1 _ e

theorem engReady_bad_kept {w : SetWrite} {reads writes : List Nat} {s t : State} {k : Nat}
    (e : engReady w reads writes s = .bad k t) (h : Canonical s) : Canonical t := (engReady_both w reads writes s h).2 _ _ e

theorem accessLine_keeps (line : ℕ) (syms : SymErr) (s : State) (h_s : Canonical s) : Canonical (accessLine line syms s).2 := by
  unfold accessLine; grind [fetchLine_keeps, touchPage_keeps, foldl_keeps, foldl_keeps_snd, Canonical.of_mk, Canonical.parts, FsKept.st, FsKept.after, FsKept.mk]

theorem engHold_keeps (line : ℕ) (s : State) (h_s : Canonical s) : Canonical (engHold line s) := by
  unfold engHold; grind [State.onStore_keeps, setDir_keeps, foldl_keeps, foldl_keeps_snd, Canonical.of_mk, Canonical.parts, FsKept.st, FsKept.after, FsKept.mk]

theorem unwant_keeps (w : SetWrite) (ls : List ℕ) (s : State) (h_s : Canonical s) : Canonical (unwant w ls s) := by
  unfold unwant; grind [updateItem_keeps, foldl_keeps, foldl_keeps_snd, Canonical.of_mk, Canonical.parts, FsKept.st, FsKept.after, FsKept.mk]

theorem engAccess_keeps (w : SetWrite) (ls : List ℕ) (s : State) (h_s : Canonical s) : Canonical (engAccess w ls s).2 := by
  unfold engAccess; grind [accessLine_keeps, engHold_keeps, unwant_keeps, foldl_keeps, foldl_keeps_snd, Canonical.of_mk, Canonical.parts, FsKept.st, FsKept.after, FsKept.mk]

theorem allocPage_keeps (pg prt : Nat) (w : List (Nat × List Byte)) (s : State) (h : Canonical s) : Canonical (allocPage pg prt w s).2 := by
  unfold allocPage
  extract_lets new q1 q2 n q3
  have hnew : ∀ t f c s, Canonical s → Canonical (new t f c s) := fun _ _ _ _ hs => editPage_keeps _ _ _ hs
  cases (if q1 then freeFrame s (pageBay pg) else none) with
  | some f => exact hnew _ _ _ _ h
  | none => cases (if q2 then freeRun s 16 else none) with
    | some u => exact hnew _ _ _ _ h
    | none => cases e : (if q3 then placeT3 s pg (pageQuarter pg) n else none) with
      | none => exact h
      | some x =>
        refine hnew _ _ _ _ (State.onStore_keeps _ _ rfl ?_)
        by_cases q : q3 = true
        · rw [if_pos q] at e
          exact placeT3_keeps s pg (pageQuarter pg) n h x e
        · rw [if_neg q] at e
          cases e

theorem allocFor_keeps (prt : ℕ) (ws : List (ℕ × List Byte)) (s : State) (h_s : Canonical s) : Canonical (allocFor prt ws s).2 := by
  unfold allocFor; grind [allocPage_keeps, foldl_keeps, foldl_keeps_snd, Canonical.of_mk, Canonical.parts, FsKept.st, FsKept.after, FsKept.mk]

theorem engPut_keeps (prt : ℕ) (w : SetWrite) (ws : List (ℕ × List Byte)) (s : State) (h_s : Canonical s) : Canonical (engPut prt w ws s).2.2 := by
  unfold engPut; grind [allocFor_keeps, putLines_keeps, unwant_keeps, foldl_keeps, foldl_keeps_snd, Canonical.of_mk, Canonical.parts, FsKept.st, FsKept.after, FsKept.mk]

theorem addForwards_keeps (id : ℕ) (fw : List (ℕ × ℕ)) (s : State) (h_s : Canonical s) : Canonical (addForwards id fw s) := by
  unfold addForwards; grind [updateItem_keeps, foldl_keeps, foldl_keeps_snd, Canonical.of_mk, Canonical.parts, FsKept.st, FsKept.after, FsKept.mk]

theorem copyLine_keeps_wait (it : Item) (w : Issued) (i : ℕ) (moved : Bool) (s : State) (h_s : Canonical s) : ∀ t, copyLine it w i moved s = .wait (some t) → Canonical t := by
  unfold copyLine; grind [srcFail_keeps, engReady_keeps_wait, engReady_keeps_bad, engAccess_keeps, bump_keeps, spWrite_keeps, engPut_keeps, addForwards_keeps, foldl_keeps, foldl_keeps_snd, Canonical.of_mk, Canonical.parts, FsKept.st, FsKept.after, FsKept.mk]

theorem copyLine_keeps_fail (it : Item) (w : Issued) (i : ℕ) (moved : Bool) (s : State) (h_s : Canonical s) : ∀ k t, copyLine it w i moved s = .fail k t → Canonical t := by
  unfold copyLine; grind [srcFail_keeps, engReady_keeps_wait, engReady_keeps_bad, engAccess_keeps, bump_keeps, spWrite_keeps, engPut_keeps, addForwards_keeps, foldl_keeps, foldl_keeps_snd, Canonical.of_mk, Canonical.parts, FsKept.st, FsKept.after, FsKept.mk]

theorem copyLine_keeps_next (it : Item) (w : Issued) (i : ℕ) (moved : Bool) (s : State) (h_s : Canonical s) : ∀ t, copyLine it w i moved s = .next t → Canonical t := by
  unfold copyLine; grind [srcFail_keeps, engReady_keeps_wait, engReady_keeps_bad, engAccess_keeps, bump_keeps, spWrite_keeps, engPut_keeps, addForwards_keeps, foldl_keeps, foldl_keeps_snd, Canonical.of_mk, Canonical.parts, FsKept.st, FsKept.after, FsKept.mk]

theorem copyGo_kept (n i : Nat) (moved : Bool) (it : Item) (w : Issued) (s : State) (h : Canonical s) : OptKept (copyGo n i moved it w s).2.2 := by
  induction n generalizing i moved s with
  | zero => unfold copyGo; exact OptKept.of_some h
  | succ n ih =>
    unfold copyGo
    split
    · next e =>
      have k := copyLine_keeps_next it w i moved s h _ e
      split
      · exact OptKept.of_some k
      · split
        · exact OptKept.of_some k
        · exact ih _ _ _ k
    · next o e =>
      have k : OptKept o := fun t et => copyLine_keeps_wait it w i moved s h t (et ▸ e)
      dsimp only
      split
      · exact OptKept.of_some (k.getD h)
      · exact k
    · next e => exact OptKept.of_some (copyLine_keeps_fail it w i moved s h _ _ e)

theorem copyGo_keeps (y0 : ℕ) (y1 : ℕ) (y2 : Bool) (y3 : Item) (y4 : Issued) (y5 : State) (h_y5 : Canonical y5) : ∀ t, (copyGo y0 y1 y2 y3 y4 y5).2.2 = some t → Canonical t := copyGo_kept y0 y1 y2 y3 y4 y5 h_y5

theorem endForwarded_keeps (it : Item) (bad : Bool) (status : ℕ) (value : ℕ) (payload : List Byte) (s : State) (h_s : Canonical s) : Canonical (endForwarded it bad status value payload s) := by
  unfold endForwarded; grind [endItem_keeps, foldl_keeps, foldl_keeps_snd, Canonical.of_mk, Canonical.parts, FsKept.st, FsKept.after, FsKept.mk]

theorem endWrite_keeps (it : Item) (fw : List (ℕ × ℕ)) (status : ℕ) (value : ℕ) (payload : List Byte) (s : State) (h_s : Canonical s) : Canonical (endWrite it fw status value payload s) := by
  unfold endWrite; grind [addForwards_keeps, endItem_keeps, endForwarded_keeps, updateItem_keeps, foldl_keeps, foldl_keeps_snd, Canonical.of_mk, Canonical.parts, FsKept.st, FsKept.after, FsKept.mk]

theorem serveCopy_keeps (it : Item) (sid : ℕ) (num : ℕ) (s : State) (h_s : Canonical s) : ∀ t, serveCopy it sid num s = some t → Canonical t := by
  unfold serveCopy; grind [removeItem_keeps, endItem_keeps, denyItem_keeps, firstLook_keeps, copyGo_keeps, updateItem_keeps, endWrite_keeps, foldl_keeps, foldl_keeps_snd, Canonical.of_mk, Canonical.parts, FsKept.st, FsKept.after, FsKept.mk]

theorem fetchEnd_keeps (it : Item) (sid : ℕ) (bad : Option ℕ) (s : State) (h_s : Canonical s) : Canonical (fetchEnd it sid bad s) := by
  unfold fetchEnd; grind [poisonConsumed_keeps, setStream_keeps, removeItem_keeps, foldl_keeps, foldl_keeps_snd, Canonical.of_mk, Canonical.parts, FsKept.st, FsKept.after, FsKept.mk]

theorem serveFetch_keeps (it : Item) (sid : ℕ) (s : State) (h_s : Canonical s) : ∀ t, serveFetch it sid s = some t → Canonical t := by
  unfold serveFetch; grind [engReady_keeps_wait, engReady_keeps_bad, fetchEnd_keeps, engAccess_keeps, foldl_keeps, foldl_keeps_snd, Canonical.of_mk, Canonical.parts, FsKept.st, FsKept.after, FsKept.mk]

theorem serveLd_keeps (it : Item) (s : State) (h_s : Canonical s) : ∀ t, serveLd it s = some t → Canonical t := by
  unfold serveLd; grind [engReady_keeps_wait, engReady_keeps_bad, endItem_keeps, engAccess_keeps, bump_keeps, foldl_keeps, foldl_keeps_snd, Canonical.of_mk, Canonical.parts, FsKept.st, FsKept.after, FsKept.mk]

theorem refuseWrite_keeps (it : Item) (st : ℕ) (s : State) (h_s : Canonical s) : Canonical (refuseWrite it st s) := by
  unfold refuseWrite; grind [endItem_keeps, bump_keeps, foldl_keeps, foldl_keeps_snd, Canonical.of_mk, Canonical.parts, FsKept.st, FsKept.after, FsKept.mk]

theorem setSet_keeps (i : ℕ) (f : SetSt → SetSt) (s : State) (h_s : Canonical s) : Canonical (setSet i f s) := by
  unfold setSet; grind [State.onMach_keeps, foldl_keeps, foldl_keeps_snd, Canonical.of_mk, Canonical.parts, FsKept.st, FsKept.after, FsKept.mk]

theorem applyControl_keeps (off : ℕ) (data : List Byte) (s : State) (h_s : Canonical s) : Canonical (applyControl off data s) := by
  unfold applyControl
  repeat' (first | extract_lets | split)
  all_goals grind [setSet_keeps, foldl_keeps, foldl_keeps_snd, Canonical.of_mk, Canonical.parts, FsKept.st, FsKept.after, FsKept.mk]

theorem writeStat_keeps (op : ℕ) (status : ℕ) (s : State) (h_s : Canonical s) : Canonical (writeStat op status s) := by
  unfold writeStat; grind [bump_keeps, foldl_keeps, foldl_keeps_snd, Canonical.of_mk, Canonical.parts, FsKept.st, FsKept.after, FsKept.mk]

theorem serveWrite_keeps (it : Item) (line : ℕ) (s : State) (h_s : Canonical s) : ∀ t, serveWrite it line s = some t → Canonical t := by
  suffices h : OptKept (serveWrite it line s) from h
  unfold serveWrite
  repeat' (first | extract_lets | split)
  all_goals first
    | exact OptKept.of_none
    | (refine OptKept.of_some ?_; grind [endItem_keeps, bump_keeps, pageForWrite_keeps_wait, pageForWrite_keeps_answer, refuseWrite_keeps, prepWrite_keeps, fetchLine_keeps, touchPage_keeps, allocFor_keeps, putLines_keeps, applyControl_keeps, addForwards_keeps, updateItem_keeps, endWrite_keeps, writeStat_keeps, foldl_keeps, foldl_keeps_snd, Canonical.of_mk, Canonical.parts, FsKept.st, FsKept.after, FsKept.mk])
    | (intro t e; grind [endItem_keeps, bump_keeps, pageForWrite_keeps_wait, pageForWrite_keeps_answer, refuseWrite_keeps, prepWrite_keeps, fetchLine_keeps, touchPage_keeps, allocFor_keeps, putLines_keeps, applyControl_keeps, addForwards_keeps, updateItem_keeps, endWrite_keeps, writeStat_keeps, foldl_keeps, foldl_keeps_snd, Canonical.of_mk, Canonical.parts, FsKept.st, FsKept.after, FsKept.mk])

theorem serveSt_keeps (it : Item) (s : State) (h_s : Canonical s) : ∀ t, serveSt it s = some t → Canonical t := by
  unfold serveSt; grind [drainComb_keeps, serveWrite_keeps, foldl_keeps, foldl_keeps_snd, Canonical.of_mk, Canonical.parts, FsKept.st, FsKept.after, FsKept.mk]

theorem serveStream_keeps (it : Item) (s : State) (h_s : Canonical s) : ∀ t, serveStream it s = some t → Canonical t := by
  unfold serveStream; grind [serveCopy_keeps, firstLook_keeps, fetchEnd_keeps, srcFail_keeps, denyItem_keeps, serveFetch_keeps, serveLd_keeps, serveSt_keeps, foldl_keeps, foldl_keeps_snd, Canonical.of_mk, Canonical.parts, FsKept.st, FsKept.after, FsKept.mk]

theorem serveCall_keeps (it : Item) (s : State) (h_s : Canonical s) : ∀ t, serveCall it s = some t → Canonical t := by
  unfold serveCall; grind [endItem_keeps, denyItem_keeps, updateItem_keeps, foldl_keeps, foldl_keeps_snd, Canonical.of_mk, Canonical.parts, FsKept.st, FsKept.after, FsKept.mk]

theorem keepRead_keeps (it : Item) (bs : List Byte) (s : State) (h_s : Canonical s) : Canonical (keepRead it bs s) := by
  unfold keepRead; grind [updateItem_keeps, foldl_keeps, foldl_keeps_snd, Canonical.of_mk, Canonical.parts, FsKept.st, FsKept.after, FsKept.mk]

theorem readOnce_keeps (it : Item) (off : ℕ) (n : ℕ) (s : State) (h_s : Canonical s) : ∀ t, readOnce it off n s = some t → Canonical t := by
  unfold readOnce; grind [engReady_keeps_wait, engReady_keeps_bad, endItem_keeps, engAccess_keeps, keepRead_keeps, foldl_keeps, foldl_keeps_snd, Canonical.of_mk, Canonical.parts, FsKept.st, FsKept.after, FsKept.mk]

theorem endCheck_keeps (it : Item) (st : ℕ) (s : State) (h_s : Canonical s) : Canonical (endCheck it st s) := by
  unfold endCheck; grind [endItem_keeps, srcFail_keeps, foldl_keeps, foldl_keeps_snd, Canonical.of_mk, Canonical.parts, FsKept.st, FsKept.after, FsKept.mk]

theorem engRetry_keeps (it : Item) (s : State) (h_s : Canonical s) : ∀ t, engRetry it s = some t → Canonical t := by
  unfold engRetry; grind [endItem_keeps, bump_keeps, foldl_keeps, foldl_keeps_snd, Canonical.of_mk, Canonical.parts, FsKept.st, FsKept.after, FsKept.mk]

theorem engRetry_kept (it : Item) (s : State) (h : Canonical s) : OptKept (engRetry it s) := engRetry_keeps it s h

theorem respondMore_keeps (it : Item) (status : ℕ) (value : ℕ) (interim : Bool) (payload : List Byte) (s : State) (h_s : Canonical s) : Canonical (respondMore it status value interim payload s) := by
  unfold respondMore; grind [bump_keeps, sendRec_keeps, foldl_keeps, foldl_keeps_snd, Canonical.of_mk, Canonical.parts, FsKept.st, FsKept.after, FsKept.mk]

theorem engInterim_keeps (it : Item) (s : State) (h_s : Canonical s) : Canonical (engInterim it s) := by
  unfold engInterim; grind [respondMore_keeps, updateItem_keeps, foldl_keeps, foldl_keeps_snd, Canonical.of_mk, Canonical.parts, FsKept.st, FsKept.after, FsKept.mk]

theorem serveQExec_keeps (it : Item) (s : State) (h_s : Canonical s) : ∀ t, serveQExec it s = some t → Canonical t := by
  suffices h : OptKept (serveQExec it s) from h
  unfold serveQExec
  repeat' (first | extract_lets | split)
  all_goals first
    | exact OptKept.of_none
    | (refine OptKept.of_some ?_; grind [readOnce_keeps, endItem_keeps, endCheck_keeps, engRetry_keeps, State.onEng_keeps, engInterim_keeps, foldl_keeps, foldl_keeps_snd, Canonical.of_mk, Canonical.parts, FsKept.st, FsKept.after, FsKept.mk])
    | (intro t e; grind [readOnce_keeps, endItem_keeps, endCheck_keeps, engRetry_keeps, State.onEng_keeps, engInterim_keeps, foldl_keeps, foldl_keeps_snd, Canonical.of_mk, Canonical.parts, FsKept.st, FsKept.after, FsKept.mk])

theorem setGroup_keeps (off : ℕ) (f : QGroup → QGroup) (s : State) (h_s : Canonical s) : Canonical (setGroup off f s) := by
  unfold setGroup; grind [State.onEng_keeps, foldl_keeps, foldl_keeps_snd, Canonical.of_mk, Canonical.parts, FsKept.st, FsKept.after, FsKept.mk]

theorem serveQContrib_keeps (it : Item) (s : State) (h_s : Canonical s) : ∀ t, serveQContrib it s = some t → Canonical t := by
  unfold serveQContrib; grind [endCheck_keeps, endItem_keeps, bump_keeps, engReady_keeps_wait, engReady_keeps_bad, engAccess_keeps, takeArmed_keeps, engPut_keeps, setGroup_keeps, bumpBy_keeps, endWrite_keeps, foldl_keeps, foldl_keeps_snd, Canonical.of_mk, Canonical.parts, FsKept.st, FsKept.after, FsKept.mk]

theorem countSum_keeps (g : QGroup) (s : State) (h_s : Canonical s) : Canonical (countSum g s) := by
  unfold countSum; grind [bumpBy_keeps, foldl_keeps, foldl_keeps_snd, Canonical.of_mk, Canonical.parts, FsKept.st, FsKept.after, FsKept.mk]

theorem serveQOpen_kept (it : Item) (s : State) (h : Canonical s) : OptKept (serveQOpen it s) := by
  have hs2 : Canonical (if it.flash = true then s else engInterim it s) := ite_keeps h (engInterim_keeps it s h)
  unfold serveQOpen
  repeat' (first | extract_lets | split)
  all_goals repeat' first
    | with_reducible assumption
    | with_reducible exact OptKept.of_none
    | with_reducible apply OptKept.of_some
    | with_reducible apply endItem_keeps
    | with_reducible apply endWrite_keeps
    | with_reducible apply endCheck_keeps
    | with_reducible apply bump_keeps
    | with_reducible apply setGroup_keeps
    | with_reducible apply countSum_keeps
    | with_reducible apply engInterim_keeps
    | with_reducible refine engReady_wait_kept ‹_› ?_
    | with_reducible refine engReady_bad_kept ‹_› ?_
    | with_reducible refine Canonical.of_pair ‹_› (engAccess_keeps _ _ _ ?_)
    | with_reducible refine Canonical.of_triple ‹_› (engPut_keeps _ _ _ _ ?_)
    | with_reducible apply OptKept.getD
    | refine @ite_keeps _ _ _ _ ?_ ?_
    | split

theorem serveQOpen_keeps (it : Item) (s : State) (h_s : Canonical s) : ∀ t, serveQOpen it s = some t → Canonical t := serveQOpen_kept it s h_s

theorem freeVal_keeps (s : State) (h_s : Canonical s) : Canonical (freeVal s).2 := by
  unfold freeVal; grind [foldl_keeps, foldl_keeps_snd, Canonical.of_mk, Canonical.parts, FsKept.st, FsKept.after, FsKept.mk]

theorem closeGroup_keeps (off : ℕ) (g : QGroup) (ok : Bool) (s : State) (h_s : Canonical s) : Canonical (closeGroup off g ok s).2 := by
  unfold closeGroup; grind [engPut_keeps, bump_keeps, setGroup_keeps, event_keeps, foldl_keeps, foldl_keeps_snd, Canonical.of_mk, Canonical.parts, FsKept.st, FsKept.after, FsKept.mk]

theorem serveQDone_keeps (it : Item) (s : State) (h_s : Canonical s) : ∀ t, serveQDone it s = some t → Canonical t := by
  unfold serveQDone; grind [endItem_keeps, setGroup_keeps, engReady_keeps_wait, engReady_keeps_bad, engAccess_keeps, freeVal_keeps, closeGroup_keeps, countSum_keeps, endWrite_keeps, foldl_keeps, foldl_keeps_snd, Canonical.of_mk, Canonical.parts, FsKept.st, FsKept.after, FsKept.mk]

theorem abandonFrom_keeps (num : ℕ) (p : ℕ → QGroup → Bool) (fl : ℕ) (s : State) (h_s : Canonical s) : Canonical (abandonFrom num p fl s) := by
  unfold abandonFrom; grind [State.onEng_keeps, foldl_keeps, foldl_keeps_snd, Canonical.of_mk, Canonical.parts, FsKept.st, FsKept.after, FsKept.mk]

theorem closeAbandoned_keeps (off : ℕ) (s : State) (h_s : Canonical s) : Canonical (closeAbandoned off s).2 := by
  unfold closeAbandoned; grind [closeGroup_keeps, foldl_keeps, foldl_keeps_snd, Canonical.of_mk, Canonical.parts, FsKept.st, FsKept.after, FsKept.mk]

theorem serveQAbandon_keeps (it : Item) (s : State) (h_s : Canonical s) : ∀ t, serveQAbandon it s = some t → Canonical t := by
  unfold serveQAbandon; grind [endItem_keeps, abandonFrom_keeps, engReady_keeps_wait, engReady_keeps_bad, closeAbandoned_keeps, endWrite_keeps, foldl_keeps, foldl_keeps_snd, Canonical.of_mk, Canonical.parts, FsKept.st, FsKept.after, FsKept.mk]

theorem serveEcDelta_keeps (it : Item) (s : State) (h_s : Canonical s) : ∀ t, serveEcDelta it s = some t → Canonical t := by
  suffices h : OptKept (serveEcDelta it s) from h
  unfold serveEcDelta
  repeat' (first | extract_lets | split)
  all_goals first
    | exact OptKept.of_none
    | (refine OptKept.of_some ?_; grind [endItem_keeps, bump_keeps, engReady_keeps_wait, engReady_keeps_bad, engAccess_keeps, engPut_keeps, poisonLine_keeps, bumpBy_keeps, endWrite_keeps, foldl_keeps, foldl_keeps_snd, Canonical.of_mk, Canonical.parts, FsKept.st, FsKept.after, FsKept.mk])
    | (intro t e; grind [endItem_keeps, bump_keeps, engReady_keeps_wait, engReady_keeps_bad, engAccess_keeps, engPut_keeps, poisonLine_keeps, bumpBy_keeps, endWrite_keeps, foldl_keeps, foldl_keeps_snd, Canonical.of_mk, Canonical.parts, FsKept.st, FsKept.after, FsKept.mk])

theorem serveQuern_keeps (it : Item) (s : State) (h_s : Canonical s) : ∀ t, serveQuern it s = some t → Canonical t := by
  unfold serveQuern; grind [serveQExec_keeps, serveQContrib_keeps, serveQOpen_keeps, serveQDone_keeps, serveQAbandon_keeps, serveEcDelta_keeps, foldl_keeps, foldl_keeps_snd, Canonical.of_mk, Canonical.parts, FsKept.st, FsKept.after, FsKept.mk]

theorem bufRoom_keeps (n b k : Nat) (s : State) (h : Canonical s) : Canonical (bufRoom n b k s) := by
  induction n generalizing s with
  | zero => unfold bufRoom; exact h
  | succ n ih =>
    unfold bufRoom
    extract_lets
    split
    · exact h
    · split
      · exact ih _ (State.onEng_keeps _ _ h)
      · exact h

theorem bufHold_keeps (off : ℕ) (n : ℕ) (s : State) (h_s : Canonical s) : Canonical (bufHold off n s) := by
  unfold bufHold; grind [bufRoom_keeps, State.onEng_keeps, State.onStore_keeps, foldl_keeps, foldl_keeps_snd, Canonical.of_mk, Canonical.parts, FsKept.st, FsKept.after, FsKept.mk]

theorem performLookup_keeps (it : Item) (x : Tables) (l : LDesc) (lists : List ℕ) (s : State) (h_s : Canonical s) : Canonical (performLookup it x l lists s) := by
  unfold performLookup; grind [engAccess_keeps, bumpBy_keeps, bufHold_keeps, endItem_keeps, engPut_keeps, endWrite_keeps, foldl_keeps, foldl_keeps_snd, Canonical.of_mk, Canonical.parts, FsKept.st, FsKept.after, FsKept.mk]

theorem readTables_kept (it : Item) (own tab : Nat) (s : State) (h : Canonical s) : ∀ o, readTables it own tab s = some o → OptKept o := by
  unfold readTables
  intro o e
  split at e
  · cases e
    exact OptKept.ite (OptKept.of_some (endCheck_keeps _ _ _ h)) (readOnce_keeps _ _ _ _ h)
  · cases e
    exact OptKept.ite (OptKept.of_some (endItem_keeps _ _ _ _ _ h)) (OptKept.ite (OptKept.of_some (keepRead_keeps _ _ _ h))
      (OptKept.ite (OptKept.of_some (endCheck_keeps _ _ _ h)) (readOnce_keeps _ _ _ _ h)))
  · cases e

theorem runLookup_keeps (it : Item) (l : LDesc) (x : Tables) (s : State) (h_s : Canonical s) : ∀ t, runLookup it l x s = some t → Canonical t := by
  unfold runLookup; grind [endItem_keeps, endCheck_keeps, engInterim_keeps, engReady_keeps_wait, engReady_keeps_bad, performLookup_keeps, foldl_keeps, foldl_keeps_snd, Canonical.of_mk, Canonical.parts, FsKept.st, FsKept.after, FsKept.mk]

theorem serveLookup_kept (it : Item) (s : State) (h : Canonical s) : OptKept (serveLookup it s) := by
  unfold serveLookup
  split
  · exact readOnce_keeps _ _ _ _ h
  · extract_lets l
    split
    · exact OptKept.of_some (endItem_keeps _ _ _ _ _ h)
    · split
      · exact readTables_kept _ _ _ _ h _ ‹_›
      · exact runLookup_keeps _ _ _ _ h

theorem serveLookup_keeps (it : Item) (s : State) (h_s : Canonical s) : ∀ t, serveLookup it s = some t → Canonical t := serveLookup_kept it s h_s

theorem setHstep_keeps (tab : ℕ) (f : HStep → HStep) (s : State) (h_s : Canonical s) : Canonical (setHstep tab f s) := by
  unfold setHstep; grind [State.onEng_keeps, foldl_keeps, foldl_keeps_snd, Canonical.of_mk, Canonical.parts, FsKept.st, FsKept.after, FsKept.mk]

theorem pendRoom_kept (n b k : Nat) (s : State) (h : Canonical s) : OptKept (pendRoom n b k s) := by
  induction n generalizing s with
  | zero => unfold pendRoom; exact OptKept.of_some h
  | succ n ih =>
    unfold pendRoom
    split
    · exact OptKept.of_some h
    · extract_lets
      split
      · exact OptKept.of_some h
      · extract_lets
        split
        · exact OptKept.of_none
        · refine ih _ (bumpBy_keeps _ _ _ (setHstep_keeps _ _ _ (putLines_keeps _ _ _ _ _ ?_)))
          exact ⟨h.1, h.2, h.3, h.4⟩

theorem pendRoom_keeps (y0 : ℕ) (y1 : ℕ) (y2 : ℕ) (y3 : State) (h_y3 : Canonical y3) : ∀ t, pendRoom y0 y1 y2 y3 = some t → Canonical t := pendRoom_kept y0 y1 y2 y3 h_y3

theorem mergeRow_keeps (tab : ℕ) (key : ℕ) (cs : List (List FV × Bool)) (s : State) (h_s : Canonical s) : ∀ t, mergeRow tab key cs s = some t → Canonical t := by
  unfold mergeRow; grind [pendRoom_keeps, bumpBy_keeps, setHstep_keeps, foldl_keeps, foldl_keeps_snd, Canonical.of_mk, Canonical.parts, FsKept.st, FsKept.after, FsKept.mk]

theorem mergeAll_kept (tab : Nat) (cs : List (Nat × List FV × Bool)) (s : State) (h : Canonical s) : OptKept (mergeAll tab cs s) := by
  unfold mergeAll
  suffices k : ∀ (l : List Nat) (o : Option State), OptKept o → OptKept (l.foldl (fun r key => r.bind fun s =>
    mergeRow tab key ((cs.filter fun c => c.1 = key).map (·.2)) s) o) from k _ _ (OptKept.of_some h)
  intro l
  induction l with
  | nil => exact fun o ho => ho
  | cons a l ih =>
    intro o ho
    rw [List.foldl_cons]
    apply ih
    cases o with
    | none => exact OptKept.of_none
    | some t => exact mergeRow_keeps _ _ _ _ (ho t rfl)

theorem mergeAll_keeps (tab : ℕ) (cs : List (ℕ × List FV × Bool)) (s : State) (h_s : Canonical s) : ∀ t, mergeAll tab cs s = some t → Canonical t := mergeAll_kept tab cs s h_s

theorem serveGrad_kept (it : Item) (s : State) (h : Canonical s) : OptKept (serveGrad it s) := by
  unfold serveGrad
  extract_lets stop
  have hs : ∀ st, OptKept (stop st) := fun st => OptKept.of_some (endItem_keeps _ _ _ _ _ h)
  clear_value stop
  have hb : ∀ {w r w' st s'}, engReady w r w' s = .bad st s' → OptKept (some (endItem it st 0 [] s')) := fun e =>
    OptKept.of_some (endItem_keeps _ _ _ _ _ (engReady_bad_kept e h))
  split
  · exact readOnce_keeps _ _ _ _ h
  · extract_lets l tab hh x dim rs c lists
    clear_value hh x dim rs c lists
    refine OptKept.ite (hs _) (OptKept.ite (hs _) (OptKept.ite (OptKept.of_some (endCheck_keeps _ _ _ h)) ?_))
    split
    · exact OptKept.ite (engRetry_kept _ _ h) (hs _)
    · refine OptKept.ite (OptKept.of_some (engInterim_keeps _ _ h)) ?_
      split
      · exact engReady_wait_kept ‹_› h
      · exact hb ‹_›
      · refine OptKept.ite (hs _) ?_
        dsimp only
        split
        · exact engReady_wait_kept ‹_› h
        · exact hb ‹_›
        · have h2 := fun n r l => bumpBy_keeps (aHS 3) n _ (engAccess_keeps (holdFor it) r _ (engAccess_keeps (readFor it) l s h))
          split
          · exact OptKept.of_some (endItem_keeps _ _ _ _ _ (setHstep_keeps _ _ _ (h2 _ _ _)))
          · exact OptKept.of_some (endItem_keeps _ _ _ _ _ (OptKept.of_eq ‹_› (mergeAll_kept _ _ _ (h2 _ _ _))))

theorem serveGrad_keeps (it : Item) (s : State) (h_s : Canonical s) : ∀ t, serveGrad it s = some t → Canonical t := serveGrad_kept it s h_s

theorem serveRowGrad_keeps (it : Item) (s : State) (h_s : Canonical s) : ∀ t, serveRowGrad it s = some t → Canonical t := by
  suffices h : OptKept (serveRowGrad it s) from h
  unfold serveRowGrad
  repeat' (first | extract_lets | split)
  all_goals first
    | exact OptKept.of_none
    | (refine OptKept.of_some ?_; grind [endCheck_keeps, engRetry_keeps, endItem_keeps, mergeAll_keeps, setHstep_keeps, foldl_keeps, foldl_keeps_snd, Canonical.of_mk, Canonical.parts, FsKept.st, FsKept.after, FsKept.mk])
    | (intro t e; grind [endCheck_keeps, engRetry_keeps, endItem_keeps, mergeAll_keeps, setHstep_keeps, foldl_keeps, foldl_keeps_snd, Canonical.of_mk, Canonical.parts, FsKept.st, FsKept.after, FsKept.mk])

theorem serveStepOpen_kept (it : Item) (s : State) (h : Canonical s) : OptKept (serveStepOpen it s) := by
  unfold serveStepOpen
  extract_lets stop
  have hs : ∀ st, OptKept (stop st) := fun st => OptKept.of_some (endItem_keeps _ _ _ _ _ h)
  clear_value stop
  split
  · exact readTables_kept _ _ _ _ h _ ‹_›
  · exact OptKept.ite (hs _) (OptKept.ite (OptKept.of_some (endCheck_keeps _ _ _ h)) (OptKept.ite (hs _) (OptKept.ite (hs _)
      (OptKept.of_some (endItem_keeps _ _ _ _ _ (setHstep_keeps _ _ _ h))))))

theorem serveStepOpen_keeps (it : Item) (s : State) (h_s : Canonical s) : ∀ t, serveStepOpen it s = some t → Canonical t := serveStepOpen_kept it s h_s

theorem nextStep_keeps (tab : ℕ) (s : State) (h_s : Canonical s) : Canonical (nextStep tab s) := by
  unfold nextStep; grind [setHstep_keeps, foldl_keeps, foldl_keeps_snd, Canonical.of_mk, Canonical.parts, FsKept.st, FsKept.after, FsKept.mk]

theorem serveStepOther_kept (it : Item) (s : State) (h : Canonical s) : OptKept (serveStepOther it s) := by
  unfold serveStepOther
  extract_lets x tag closes c
  clear_value tag closes c
  refine OptKept.ite OptKept.of_none (OptKept.ite (OptKept.of_some (endCheck_keeps _ _ _ h)) ?_)
  split
  · exact OptKept.ite (engRetry_kept _ _ h) (OptKept.of_some (endItem_keeps _ _ _ _ _ h))
  · split
    · exact OptKept.ite (OptKept.of_some (endItem_keeps _ _ _ _ _ (setHstep_keeps _ _ _ h)))
        (OptKept.of_some (engInterim_keeps _ _ (setHstep_keeps _ _ _ h)))
    · exact OptKept.of_some (endItem_keeps _ _ _ _ _ (nextStep_keeps _ _ (bump_keeps _ _ h)))
    · exact OptKept.of_some (endItem_keeps _ _ _ _ _ (State.onEng_keeps _ _ (bump_keeps _ _ h)))

theorem serveStepOther_keeps (it : Item) (s : State) (h_s : Canonical s) : ∀ t, serveStepOther it s = some t → Canonical t := serveStepOther_kept it s h_s

theorem serveHoist_keeps (it : Item) (s : State) (h_s : Canonical s) : ∀ t, serveHoist it s = some t → Canonical t := by
  unfold serveHoist; grind [serveLookup_keeps, serveGrad_keeps, serveRowGrad_keeps, serveStepOpen_keeps, serveStepOther_keeps, foldl_keeps, foldl_keeps_snd, Canonical.of_mk, Canonical.parts, FsKept.st, FsKept.after, FsKept.mk]

theorem withIndex_kept (it : Item) (addr : Nat) (write : Bool) (extra : IDesc → List (Nat × Nat × Bool)) (s : State)
    (k : IDesc → Option State) (hk : ∀ i, OptKept (k i)) (h : Canonical s) : OptKept (withIndex it addr write extra s k) := by
  unfold withIndex
  repeat' (first | extract_lets | split)
  all_goals first
    | exact hk _
    | exact engReady_wait_kept ‹_› h
    | exact OptKept.of_some (endItem_keeps _ _ _ _ _ (engReady_bad_kept ‹_› h))
    | (refine OptKept.of_some ?_; first | exact endItem_keeps _ _ _ _ _ h | exact endCheck_keeps _ _ _ h)

theorem withIndex_keeps (it : Item) (addr : ℕ) (write : Bool) (extra : IDesc → List (ℕ × ℕ × Bool)) (s : State) (k : IDesc → Option State) (h_s : Canonical s) (h_k : ∀ x0, ∀ t, k x0 = some t → Canonical t) : ∀ t, withIndex it addr write extra s k = some t → Canonical t := withIndex_kept it addr write extra s k h_k h_s

theorem indexEnter_keeps (it : Item) (ix : ℕ) (i : IDesc) (s : State) (h_s : Canonical s) : ∀ t, indexEnter it ix i s = some t → Canonical t := by
  unfold indexEnter; grind [updateItem_keeps, engInterim_keeps, foldl_keeps, foldl_keeps_snd, Canonical.of_mk, Canonical.parts, FsKept.st, FsKept.after, FsKept.mk]

theorem indexEnter_kept (it : Item) (ix : Nat) (i : IDesc) (s : State) (h : Canonical s) : OptKept (indexEnter it ix i s) := indexEnter_keeps it ix i s h

theorem searchStats_keeps (f : SFound) (exh : Bool) (short : Bool) (s : State) (h_s : Canonical s) : Canonical (searchStats f exh short s) := by
  unfold searchStats; grind [bumpBy_keeps, foldl_keeps, foldl_keeps_snd, Canonical.of_mk, Canonical.parts, FsKept.st, FsKept.after, FsKept.mk]

theorem runSearchItem_keeps (it : Item) (q : QDesc) (i : IDesc) (st : SearchSt) (s : State) (h_s : Canonical s) : ∀ t, runSearchItem it q i st s = some t → Canonical t := by
  unfold runSearchItem; grind [engReady_keeps_wait, engReady_keeps_bad, endItem_keeps, engAccess_keeps, engPut_keeps, endWrite_keeps, searchStats_keeps, foldl_keeps, foldl_keeps_snd, Canonical.of_mk, Canonical.parts, FsKept.st, FsKept.after, FsKept.mk]

theorem serveSearch_kept (it : Item) (s : State) (h : Canonical s) : OptKept (serveSearch it s) := by
  unfold serveSearch
  split
  · exact readOnce_keeps _ _ _ _ h
  · extract_lets q
    refine OptKept.ite (OptKept.of_some (endItem_keeps _ _ _ _ _ h)) (withIndex_kept _ _ _ _ _ _ (fun i => ?_) h)
    split
    · split
      · exact OptKept.of_some (OptKept.of_eq ‹_› (indexEnter_keeps _ _ _ _ h))
      · exact engRetry_keeps _ _ h
    · exact runSearchItem_keeps _ _ _ _ _ h

theorem serveSearch_keeps (it : Item) (s : State) (h_s : Canonical s) : ∀ t, serveSearch it s = some t → Canonical t := serveSearch_kept it s h_s

theorem newReady_keeps_wait (it : Item) (i : IDesc) (v : NewVec) (s : State) (h_s : Canonical s) : ∀ t, newReady it i v s = .wait (some t) → Canonical t := by
  unfold newReady; grind [engReady_keeps_wait, engReady_keeps_bad, foldl_keeps, foldl_keeps_snd, Canonical.of_mk, Canonical.parts, FsKept.st, FsKept.after, FsKept.mk]

theorem newReady_keeps_bad (it : Item) (i : IDesc) (v : NewVec) (s : State) (h_s : Canonical s) : ∀ k t, newReady it i v s = .bad k t → Canonical t := by
  unfold newReady; grind [engReady_keeps_wait, engReady_keeps_bad, foldl_keeps, foldl_keeps_snd, Canonical.of_mk, Canonical.parts, FsKept.st, FsKept.after, FsKept.mk]

theorem engPutFor_keeps (it : Item) (w : SetWrite) (ws : List (ℕ × List Byte)) (s : State) (h_s : Canonical s) : Canonical (engPutFor it w ws s).2 := by
  unfold engPutFor; grind [engPut_keeps, addForwards_keeps, foldl_keeps, foldl_keeps_snd, Canonical.of_mk, Canonical.parts, FsKept.st, FsKept.after, FsKept.mk]

theorem insertOne_keeps (it : Item) (i : IDesc) (bookBad : Bool) (v : NewVec) (s : State) (h_s : Canonical s) : Canonical (insertOne it i bookBad v s).2 := by
  unfold insertOne; grind [engPutFor_keeps, newReady_keeps_wait, newReady_keeps_bad, engAccess_keeps, foldl_keeps, foldl_keeps_snd, Canonical.of_mk, Canonical.parts, FsKept.st, FsKept.after, FsKept.mk]

theorem serveInsert_kept (it : Item) (s : State) (h : Canonical s) : OptKept (serveInsert it s) := by
  unfold serveInsert
  extract_lets vecs attrs cnt addr
  refine withIndex_kept _ _ _ _ _ _ (fun i => ?_) h
  split
  · split
    · exact OptKept.of_some (endItem_keeps _ _ _ _ _ h)
    · split
      · exact engRetry_kept _ _ h
      · split
        · exact OptKept.of_some (indexEnter_kept _ _ _ _ h _ ‹_›)
        · exact engRetry_kept _ _ h
  · extract_lets book vs wr
    split
    · exact engReady_wait_kept ‹_› h
    · exact OptKept.of_some (endItem_keeps _ _ _ _ _ (engReady_bad_kept ‹_› h))
    · split
      · next e =>
        obtain ⟨v, -, hv⟩ := List.exists_of_findSome?_eq_some e
        split at hv
        · next e' =>
          cases hv
          exact engReady_wait_kept e' h
        · cases hv
      · split
        next e =>
        have h0 := Canonical.of_pair e (engAccess_keeps _ _ _ h)
        split
        next e =>
        have h1 := Canonical.of_pair e (foldl_keeps_snd _ _ _ (fun r k hr => insertOne_keeps _ _ _ _ _ hr) h0)
        exact OptKept.of_some (endWrite_keeps _ _ _ _ _ _ (bumpBy_keeps _ _ _ h1))

theorem serveInsert_keeps (it : Item) (s : State) (h_s : Canonical s) : ∀ t, serveInsert it s = some t → Canonical t := serveInsert_kept it s h_s

theorem serveDelete_kept (it : Item) (s : State) (h : Canonical s) : OptKept (serveDelete it s) := by
  unfold serveDelete
  extract_lets cnt slots
  refine withIndex_kept _ _ _ _ _ _ (fun i => ?_) h
  split
  · exact OptKept.of_some (endItem_keeps _ _ _ _ _ h)
  · split
    · split
      · exact engRetry_kept _ _ h
      · split
        · exact OptKept.of_some (indexEnter_kept _ _ _ _ h _ ‹_›)
        · exact engRetry_kept _ _ h
    · extract_lets ls wr nx
      split
      · exact engReady_wait_kept ‹_› h
      · exact OptKept.of_some (endItem_keeps _ _ _ _ _ (engReady_bad_kept ‹_› h))
      · split
        next e =>
        have h0 := Canonical.of_pair e (engAccess_keeps _ _ _ h)
        extract_lets one
        have hone : ∀ r k, Canonical r.2.2 → Canonical (one r k).2.2 := by
          intro r k hr
          dsimp only [one]
          exact engPutFor_keeps _ _ _ _ hr
        split
        next e =>
        have h1 := Canonical.of_triple e (foldl_keeps_triple one _ _ hone h0)
        split
        next e =>
        exact OptKept.of_some (endWrite_keeps _ _ _ _ _ _ (bumpBy_keeps _ _ _ (Canonical.of_triple e (engPut_keeps _ _ _ _ h1))))

theorem serveDelete_keeps (it : Item) (s : State) (h_s : Canonical s) : ∀ t, serveDelete it s = some t → Canonical t := serveDelete_kept it s h_s

theorem mergeGo_keeps (n c : Nat) (it : Item) (s : State) (h : Canonical s) : Canonical (mergeGo n c it s).2.2 := by
  induction n generalizing c s with
  | zero => unfold mergeGo; exact h
  | succ n ih =>
    unfold mergeGo
    extract_lets i hz st a
    split
    · exact h
    · split
      · exact h
      · split
        split
        · exact OptKept.getD (engReady_wait_kept ‹_› h) h
        · exact engReady_bad_kept ‹_› h
        · split
          · exact h
          · split
            next e =>
            have h1 := Canonical.of_pair e (engAccess_keeps _ _ _ h)
            split
            next e =>
            have h2 := Canonical.of_pair e (engPutFor_keeps _ _ _ _ h1)
            split
            · exact h2
            · exact ih _ _ (bump_keeps _ _ h2)

theorem serveMerge_keeps (it : Item) (s : State) (h_s : Canonical s) : ∀ t, serveMerge it s = some t → Canonical t := by
  unfold serveMerge; grind [withIndex_keeps, indexEnter_keeps, engRetry_keeps, mergeGo_keeps, endWrite_keeps, updateItem_keeps, foldl_keeps, foldl_keeps_snd, Canonical.of_mk, Canonical.parts, FsKept.st, FsKept.after, FsKept.mk]

theorem serveBolter_keeps (it : Item) (s : State) (h_s : Canonical s) : ∀ t, serveBolter it s = some t → Canonical t := by
  unfold serveBolter; grind [serveSearch_keeps, serveInsert_keeps, serveDelete_keeps, serveMerge_keeps, foldl_keeps, foldl_keeps_snd, Canonical.of_mk, Canonical.parts, FsKept.st, FsKept.after, FsKept.mk]

theorem serveInvocation_keeps (it : Item) (s : State) (h_s : Canonical s) : ∀ t, serveInvocation it s = some t → Canonical t := by
  unfold serveInvocation; grind [serveCall_keeps, takeArmed_keeps, updateItem_keeps, serveQuern_keeps, serveHoist_keeps, serveBolter_keeps, foldl_keeps, foldl_keeps_snd, Canonical.of_mk, Canonical.parts, FsKept.st, FsKept.after, FsKept.mk]

theorem atLine_keeps (it : Item) (serve : State → Option State) (line : ℕ) (s : State) (h_serve : ∀ x0, Canonical x0 → ∀ t, serve x0 = some t → Canonical t) (h_s : Canonical s) : ∀ t, atLine it serve line s = some t → Canonical t := by
  unfold atLine; grind [drainComb_keeps, foldl_keeps, foldl_keeps_snd, Canonical.of_mk, Canonical.parts, FsKept.st, FsKept.after, FsKept.mk]

theorem loadLinesAnswer_keeps (it : Item) (s : State) (h_s : Canonical s) : Canonical (loadLinesAnswer it s) := by
  unfold loadLinesAnswer; grind [respondMore_keeps, endItem_keeps, bump_keeps, foldl_keeps, foldl_keeps_snd, Canonical.of_mk, Canonical.parts, FsKept.st, FsKept.after, FsKept.mk]

theorem serveLoadLine_keeps (it : Item) (line : ℕ) (s : State) (h_s : Canonical s) : ∀ t, serveLoadLine it line s = some t → Canonical t := by
  unfold serveLoadLine; grind [updateItem_keeps, loadLinesAnswer_keeps, endItem_keeps, bump_keeps, prepRead_keeps, accessLine_keeps, foldl_keeps, foldl_keeps_snd, Canonical.of_mk, Canonical.parts, FsKept.st, FsKept.after, FsKept.mk]

theorem serveLoad_keeps (it : Item) (s : State) (h_s : Canonical s) : ∀ t, serveLoad it s = some t → Canonical t := by
  unfold serveLoad; grind [endItem_keeps, bump_keeps, prepRead_keeps, accessLine_keeps, foldl_keeps, foldl_keeps_snd, Canonical.of_mk, Canonical.parts, FsKept.st, FsKept.after, FsKept.mk]

theorem prepEntry_keeps (line : ℕ) (s : State) (h_s : Canonical s) : ∀ t, prepEntry line s = .go t → Canonical t := by
  unfold prepEntry; grind [startBI_keeps, foldl_keeps, foldl_keeps_snd, Canonical.of_mk, Canonical.parts, FsKept.st, FsKept.after, FsKept.mk]

theorem addSharer_keeps (line : ℕ) (n : ℕ) (s : State) (h_s : Canonical s) : Canonical (addSharer line n s) := by
  unfold addSharer; grind [setDir_keeps, bump_keeps, foldl_keeps, foldl_keeps_snd, Canonical.of_mk, Canonical.parts, FsKept.st, FsKept.after, FsKept.mk]

theorem grantLine_keeps (it : Item) (n : ℕ) (line : ℕ) (g : ℕ) (value : ℕ) (data : List Byte) (s : State) (h_s : Canonical s) : Canonical (grantLine it n line g value data s) := by
  unfold grantLine; grind [addSharer_keeps, setDir_keeps, finish_keeps, State.onStore_keeps, foldl_keeps, foldl_keeps_snd, Canonical.of_mk, Canonical.parts, FsKept.st, FsKept.after, FsKept.mk]

theorem serveCoh_kept (it : Item) (s : State) (h : Canonical s) : OptKept (serveCoh it s) := by
  have he : ∀ st d, OptKept (some (endItem it st 0 d s)) := fun st d => OptKept.of_some (endItem_keeps _ _ _ _ _ h)
  have hd : ∀ (r : SetRule), Canonical (match r with | .denied true => bump (aSET 7) s | _ => s) := by
    intro r
    split
    · exact bump_keeps _ _ h
    · exact h
  unfold serveCoh
  extract_lets line p n e own pr data g listed
  have hp : ∀ t, pr = .go t → Canonical t := by
    intro t et
    dsimp only [pr] at et
    split at et
    · exact prepWrite_keeps _ _ _ h t et
    · split at et
      · split at et
        · cases et
        · split at et
          · cases et
          · cases et
            exact updateItem_keeps _ _ _ (startXR_keeps _ _ _ h)
      · cases et
  clear_value pr
  refine OptKept.ite OptKept.of_none (OptKept.ite (he _ _) (OptKept.ite (OptKept.of_some (endItem_keeps _ _ _ _ _ (hd _)))
    (OptKept.ite (OptKept.of_some (endItem_keeps _ _ _ _ _ (bump_keeps _ _ h))) (OptKept.ite OptKept.of_none ?_))))
  split
  · exact OptKept.of_none
  · exact OptKept.of_some (hp _ rfl)
  · split
    · exact OptKept.of_none
    · exact OptKept.of_some (prepEntry_keeps _ _ h _ ‹_›)
    · refine OptKept.ite OptKept.of_none ?_
      split
      next e =>
      have h0 : Canonical _ := Canonical.of_pair e (by split <;> [exact allocFor_keeps _ _ _ h; exact h])
      refine OptKept.ite (he _ _) ?_
      split
      next e =>
      have h1 := Canonical.of_pair e (accessLine_keeps _ _ _ (State.onStore_keeps _ _ rfl h0))
      have h2 := removeItem_keeps it.id _ h1
      exact OptKept.ite (OptKept.of_some (endItem_keeps _ _ _ _ _ h2))
        (OptKept.ite (OptKept.of_some (grantLine_keeps _ _ _ _ _ _ _ h2))
          (OptKept.ite (OptKept.of_some (grantLine_keeps _ _ _ _ _ _ _ h2)) (OptKept.of_some (grantLine_keeps _ _ _ _ _ _ _ h2))))

theorem serveCoh_keeps (it : Item) (s : State) (h_s : Canonical s) : ∀ t, serveCoh it s = some t → Canonical t := serveCoh_kept it s h_s

theorem dropSharer_keeps (n : ℕ) (line : ℕ) (s : State) (h_s : Canonical s) : Canonical (dropSharer n line s) := by
  unfold dropSharer; grind [freeDir_keeps, setDir_keeps, foldl_keeps, foldl_keeps_snd, Canonical.of_mk, Canonical.parts, FsKept.st, FsKept.after, FsKept.mk]

theorem serveEvict_keeps (it : Item) (s : State) (h_s : Canonical s) : ∀ t, serveEvict it s = some t → Canonical t := by
  unfold serveEvict; grind [freeDir_keeps, dropSharer_keeps, endItem_keeps, foldl_keeps, foldl_keeps_snd, Canonical.of_mk, Canonical.parts, FsKept.st, FsKept.after, FsKept.mk]

theorem serveAppend_kept (it : Item) (s : State) (h : Canonical s) : OptKept (serveAppend it s) := by
  unfold serveAppend
  extract_lets cl len size r node c addrs bytes data ws ls
  split
  · exact OptKept.of_none
  · exact OptKept.of_some (prepWrite_keeps _ _ _ h _ ‹_›)
  · refine OptKept.ite (OptKept.of_some (endItem_keeps _ _ _ _ _ h)) (OptKept.ite OptKept.of_none ?_)
    split
    next e =>
    have h0 := Canonical.of_pair e (fetchLine_keeps _ _ _ h)
    extract_lets seen stop
    have hn : Canonical seen := touchPage_keeps _ _ h0
    have he : ∀ st, OptKept (some (endItem it st 0 [] seen)) := fun st => OptKept.of_some (endItem_keeps _ _ _ _ _ hn)
    clear_value seen
    refine OptKept.ite (he _) (OptKept.ite (he _) (OptKept.ite (OptKept.of_some (denyItem_keeps _ _ _ hn)) (OptKept.ite (he _)
      (OptKept.ite (he _) ?_))))
    split
    · exact OptKept.of_none
    · exact OptKept.of_some (prepAll_keeps _ _ _ (fun l s h => prepWrite_keeps l none s h) h0 _ ‹_›)
    · refine OptKept.ite (he _) ?_
      have hs := stopAll_line_keeps _ h0 ls .go (by simp)
      change (∀ t, stop = .wait t → Canonical t) ∧ ∀ k t, stop = .answer k t → Canonical t at hs
      clear_value stop
      split
      · split
        · exact OptKept.of_none
        · exact OptKept.of_some (hs.1 _ rfl)
      · exact OptKept.of_some (endItem_keeps _ _ _ _ _ (touchPage_keeps _ _ (hs.2 _ _ rfl)))
      · split
        next e =>
        split
        · exact he _
        · split
          next e' =>
          exact OptKept.of_some (endWrite_keeps _ _ _ _ _ _
            (Canonical.of_pair e' (putLines_keeps _ _ _ _ _ (Canonical.of_pair e (allocFor_keeps _ _ _ h0)))))

theorem serveAppend_keeps (it : Item) (s : State) (h_s : Canonical s) : ∀ t, serveAppend it s = some t → Canonical t := serveAppend_kept it s h_s

theorem serveTake_kept (it : Item) (s : State) (h : Canonical s) : OptKept (serveTake it s) := by
  unfold serveTake
  extract_lets cl r c hl len size room ml msg extra
  split
  · exact OptKept.of_none
  · exact OptKept.of_some (prepWrite_keeps _ _ _ h _ ‹_›)
  · refine OptKept.ite (OptKept.of_some (endItem_keeps _ _ _ _ _ h)) (OptKept.ite OptKept.of_none ?_)
    split
    next e =>
    have h0 := Canonical.of_pair e (fetchLine_keeps _ _ _ h)
    extract_lets seen
    have hn : Canonical seen := touchPage_keeps _ _ h0
    have he : ∀ st, OptKept (some (endItem it st 0 [] seen)) := fun st => OptKept.of_some (endItem_keeps _ _ _ _ _ hn)
    clear_value seen
    refine OptKept.ite (he _) (OptKept.ite (he _) (OptKept.ite (OptKept.of_some (denyItem_keeps _ _ _ hn)) (OptKept.ite (he _) ?_)))
    split
    · exact OptKept.of_none
    · exact OptKept.of_some (prepAll_keeps _ _ _ (fun l s h => prepRead_keeps l s h) h0 _ ‹_›)
    · refine OptKept.ite (he _) (OptKept.ite OptKept.of_none ?_)
      split
      next e =>
      have h1 := Canonical.of_pair e (foldl_keeps_snd _ _ _ (fun x l hs => fetchLine_keeps _ _ _ hs) h0)
      extract_lets done
      have hdn : ∀ st, OptKept (some (done st)) := fun st => OptKept.of_some (endItem_keeps _ _ _ _ _ (touchPage_keeps _ _ h1))
      clear_value done
      refine OptKept.ite (hdn _) (OptKept.ite (hdn _) (OptKept.ite (hdn _) ?_))
      split
      · exact OptKept.of_none
      · exact OptKept.of_some (prepAll_keeps _ _ _ (fun l s h => prepRead_keeps l s h) h1 _ ‹_›)
      · refine OptKept.ite OptKept.of_none ?_
        split
        · exact OptKept.ite OptKept.of_none (OptKept.of_some (pageForWrite_keeps_wait _ _ h1 _ ‹_›))
        · exact OptKept.of_some (endItem_keeps _ _ _ _ _ (touchPage_keeps _ _ (pageForWrite_keeps_answer _ _ h1 _ _ ‹_›)))
        · split
          next e =>
          have h2 := Canonical.of_pair e (foldl_keeps_snd _ _ _ (fun x l hs => accessLine_keeps _ _ _ hs) h1)
          split
          next e =>
          have h3 := Canonical.of_pair e (putLines_keeps _ _ _ _ _ h2)
          extract_lets s3
          refine OptKept.of_some (endWrite_keeps _ _ _ _ _ _ ?_)
          show Canonical (match it.src with
            | .agent n => _
            | _ => _)
          split
          · exact setCtx_keeps _ _ _ h3
          · exact h3

theorem serveTake_keeps (it : Item) (s : State) (h_s : Canonical s) : ∀ t, serveTake it s = some t → Canonical t := serveTake_kept it s h_s

theorem refuseNow_keeps (it : Item) (s : State) (h_s : Canonical s) : Canonical (refuseNow it s) := by
  unfold refuseNow; grind [finishQ_keeps, removeItem_keeps, bump_keeps, setCtx_keeps, foldl_keeps, foldl_keeps_snd, Canonical.of_mk, Canonical.parts, FsKept.st, FsKept.after, FsKept.mk]

theorem tryItem_kept (s : State) (it : Item) (h : Canonical s) : OptKept (tryItem s it) := by
  have ha : ∀ f line, OptKept (f s) → OptKept (atLine it f line s) := fun f line hf => by
    unfold atLine
    repeat' split
    all_goals first
      | exact OptKept.of_none
      | exact hf
      | grind [OptKept, drainComb_keeps]
  unfold tryItem
  refine OptKept.ite OptKept.of_none (OptKept.ite (OptKept.of_some (endItem_keeps _ _ _ _ _ (bump_keeps _ _ h)))
    (OptKept.ite OptKept.of_none (OptKept.ite (serveStream_keeps _ _ h) (OptKept.ite (serveInvocation_keeps _ _ h) ?_))))
  split
  · exact OptKept.findSome fun l => ha _ _ (serveLoadLine_keeps _ _ _ h)
  · exact OptKept.findSome fun l => ha _ _ (serveWrite_keeps _ _ _ h)
  · refine ha _ _ ?_
    split
    · exact serveLoad_keeps _ _ h
    · exact serveCoh_keeps _ _ h
    · exact serveCoh_keeps _ _ h
    · exact serveCoh_keeps _ _ h
    · exact serveEvict_keeps _ _ h
    · exact serveAppend_kept _ _ h
    · exact serveTake_kept _ _ h
    · exact OptKept.ite (OptKept.of_some (refuseNow_keeps _ _ h)) (serveWrite_keeps _ _ _ h)

theorem tryItem_keeps (s : State) (it : Item) (h_s : Canonical s) : ∀ t, tryItem s it = some t → Canonical t := tryItem_kept s it h_s

theorem closeReady_keeps (off : ℕ) (s : State) (h_s : Canonical s) : ∀ t, closeReady off s = some t → Canonical t := by
  unfold closeReady; grind [engReady_keeps_wait, engReady_keeps_bad, closeAbandoned_keeps, foldl_keeps, foldl_keeps_snd, Canonical.of_mk, Canonical.parts, FsKept.st, FsKept.after, FsKept.mk]

theorem closeMarked_kept (s : State) (h : Canonical s) : OptKept (closeMarked s) := by
  unfold closeMarked
  refine OptKept.findSome fun x => OptKept.ite (closeReady_keeps _ _ h) OptKept.of_none

theorem closeMarked_keeps (s : State) (h_s : Canonical s) : ∀ t, closeMarked s = some t → Canonical t := closeMarked_kept s h_s

theorem sweepRevoked_keeps (line : ℕ) (s : State) (h_s : Canonical s) : Canonical (sweepRevoked line s) := by
  unfold sweepRevoked; grind [startXR_keeps, startSI_keeps, foldl_keeps, foldl_keeps_snd, Canonical.of_mk, Canonical.parts, FsKept.st, FsKept.after, FsKept.mk]

theorem sweepDrained_keeps (line : ℕ) (s : State) (h_s : Canonical s) : Canonical (sweepDrained line s) := by
  unfold sweepDrained; grind [setDir_keeps, startXR_keeps, sendSnoops_keeps, foldl_keeps, foldl_keeps_snd, Canonical.of_mk, Canonical.parts, FsKept.st, FsKept.after, FsKept.mk]

theorem sweepOne_kept (s : State) (h : Canonical s) : OptKept (sweepOne s) := by
  unfold sweepOne
  extract_lets stable
  split
  · exact OptKept.of_some (beginSweep_keeps _ _ h)
  · split
    · exact OptKept.of_some (sweepRevoked_keeps _ _ h)
    · exact OptKept.map fun p => sweepDrained_keeps _ _ h

theorem sweepOne_keeps (s : State) (h_s : Canonical s) : ∀ t, sweepOne s = some t → Canonical t := sweepOne_kept s h_s

theorem pumpGo_keeps (n : Nat) (s : State) (h : Canonical s) : Canonical (pumpGo n s) := by
  induction n generalizing s with
  | zero => unfold pumpGo; exact h
  | succ k ih =>
    have ht : OptKept (s.home.waitq.findSome? (tryItem s)) := OptKept.findSome fun it => tryItem_keeps s it h
    unfold pumpGo
    split
    · next e => exact ih _ (ht _ e)
    · split
      · next e => exact ih _ (closeMarked_keeps s h _ e)
      · split
        · next e => exact ih _ (sweepOne_keeps s h _ e)
        · exact h

theorem pump_keeps (s : State) (h_s : Canonical s) : Canonical (pump s) := by
  unfold pump; grind [afterPump_keeps, pumpGo_keeps, foldl_keeps, foldl_keeps_snd, Canonical.of_mk, Canonical.parts, FsKept.st, FsKept.after, FsKept.mk]

theorem settlePump_keeps (sid : ℕ) (s : State) (h_s : Canonical s) : Canonical (settlePump sid s) := by
  unfold settlePump; grind [settle_keeps, pump_keeps, foldl_keeps, foldl_keeps_snd, Canonical.of_mk, Canonical.parts, FsKept.st, FsKept.after, FsKept.mk]

theorem answerWord_keeps (ok : BitVec 256 → Bool) (eff : Nat → Issued → Nat × Nat → State → State) (sid num : Nat) (s : State)
    (he : ∀ a b c s, Canonical s → Canonical (eff a b c s)) (h : Canonical s) : Canonical (answerWord ok eff sid num s) := by
  unfold answerWord
  split
  · exact h
  · split
    · exact h
    · split
      · exact h
      · next e => exact settlePump_keeps _ _ (he _ _ _ _ (wordAnswer_keeps _ _ _ s h _ e))

theorem rangeEnd_keeps (done : ℕ → Issued → ℕ → State → State) (sid : ℕ) (w : Issued) (v : ℕ × ℕ) (s : State) (h_done : ∀ x0 x1 x2 x3, Canonical x3 → Canonical (done x0 x1 x2 x3)) (h_s : Canonical s) : Canonical (rangeEnd done sid w v s) := by
  unfold rangeEnd; grind [completeWord_keeps, failWord_keeps, foldl_keeps, foldl_keeps_snd, Canonical.of_mk, Canonical.parts, FsKept.st, FsKept.after, FsKept.mk]

theorem abandonStep_keeps (tab : ℕ) (s : State) (h_s : Canonical s) : Canonical (abandonStep tab s) := by
  unfold abandonStep; grind [endItem_keeps, nextStep_keeps, bump_keeps, foldl_keeps, foldl_keeps_snd, Canonical.of_mk, Canonical.parts, FsKept.st, FsKept.after, FsKept.mk]

theorem loseHoist_keeps (kind : ℕ) (b : ℕ) (s : State) (h_s : Canonical s) : Canonical (loseHoist kind b s) := by
  unfold loseHoist; grind [abandonStep_keeps, State.onEng_keeps, itemsFailed_keeps, foldl_keeps, foldl_keeps_snd, Canonical.of_mk, Canonical.parts, FsKept.st, FsKept.after, FsKept.mk]

theorem unitEvent_keeps (code : ℕ) (kind : ℕ) (unit : ℕ) (detail : ℕ) (s : State) (h_s : Canonical s) : Canonical (unitEvent code kind unit detail s) := by
  unfold unitEvent; grind [event_keeps, foldl_keeps, foldl_keeps_snd, Canonical.of_mk, Canonical.parts, FsKept.st, FsKept.after, FsKept.mk]

theorem setHist_keeps (k : ℕ) (f : Hist → Hist) (s : State) (h_s : Canonical s) : Canonical (setHist k f s) := by
  unfold setHist; grind [State.onNor_keeps, foldl_keeps, foldl_keeps_snd, Canonical.of_mk, Canonical.parts, FsKept.st, FsKept.after, FsKept.mk]

theorem setHealth_keeps (kind : ℕ) (unit : ℕ) (h : Health) (s : State) (h_s : Canonical s) : Canonical (setHealth kind unit h s) := by
  unfold setHealth; grind [setUnitH_keeps, foldl_keeps, foldl_keeps_snd, Canonical.of_mk, Canonical.parts, FsKept.st, FsKept.after, FsKept.mk]

theorem markRetired_keeps (kind : ℕ) (unit : ℕ) (s : State) (h_s : Canonical s) : Canonical (markRetired kind unit s) := by
  unfold markRetired; grind [unitEvent_keeps, bump_keeps, setHist_keeps, setHealth_keeps, foldl_keeps, foldl_keeps_snd, Canonical.of_mk, Canonical.parts, FsKept.st, FsKept.after, FsKept.mk]

theorem retireHoist_keeps (b : ℕ) (s : State) (h_s : Canonical s) : Canonical (retireHoist b s) := by
  unfold retireHoist; grind [loseHoist_keeps, markRetired_keeps, State.onEng_keeps, foldl_keeps, foldl_keeps_snd, Canonical.of_mk, Canonical.parts, FsKept.st, FsKept.after, FsKept.mk]

theorem setRail_keeps (q : ℕ) (f : Rail → Rail) (s : State) (h_s : Canonical s) : Canonical (setRail q f s) := by
  unfold setRail; grind [State.onPwr_keeps, foldl_keeps, foldl_keeps_snd, Canonical.of_mk, Canonical.parts, FsKept.st, FsKept.after, FsKept.mk]

theorem noteBoot_keeps (kind : ℕ) (unit : ℕ) (step : ℕ) (s : State) (h_s : Canonical s) : Canonical (noteBoot kind unit step s) := by
  unfold noteBoot; grind [setHist_keeps, foldl_keeps, foldl_keeps_snd, Canonical.of_mk, Canonical.parts, FsKept.st, FsKept.after, FsKept.mk]

theorem applyRails_keeps (s : State) (h_s : Canonical s) : Canonical (applyRails s) := by
  unfold applyRails; grind [setRail_keeps, foldl_keeps, foldl_keeps_snd, Canonical.of_mk, Canonical.parts, FsKept.st, FsKept.after, FsKept.mk]

theorem takeVstep_keeps (kind : ℕ) (unit : ℕ) (q : ℕ) (window : ℕ) (s : State) (h_s : Canonical s) : Canonical (takeVstep kind unit q window s) := by
  unfold takeVstep; grind [setRail_keeps, unitEvent_keeps, bump_keeps, noteBoot_keeps, applyRails_keeps, foldl_keeps, foldl_keeps_snd, Canonical.of_mk, Canonical.parts, FsKept.st, FsKept.after, FsKept.mk]

theorem issueWord_keeps (op : ℕ) (eff : ℕ → Issued → State → State) (s : State) (h_eff : ∀ x0 x1 x2, Canonical x2 → Canonical (eff x0 x1 x2)) (h_s : Canonical s) : Canonical (issueWord op eff s) := by
  unfold issueWord; grind [setStream_keeps, bump_keeps, settle_keeps, foldl_keeps, foldl_keeps_snd, Canonical.of_mk, Canonical.parts, FsKept.st, FsKept.after, FsKept.mk]

theorem issueReq_keeps (op : ℕ) (eff : ℕ → Issued → State → State) (s : State) (h_eff : ∀ x0 x1 x2, Canonical x2 → Canonical (eff x0 x1 x2)) (h_s : Canonical s) : Canonical (issueReq op eff s) := by
  unfold issueReq; grind [settlePump_keeps, issueWord_keeps, foldl_keeps, foldl_keeps_snd, Canonical.of_mk, Canonical.parts, FsKept.st, FsKept.after, FsKept.mk]

theorem copyEffect_keeps (go : ℕ → Issued → State → State) (sid : ℕ) (i : Issued) (s : State) (h_go : ∀ x0 x1 x2, Canonical x2 → Canonical (go x0 x1 x2)) (h_s : Canonical s) : Canonical (copyEffect go sid i s) := by
  unfold copyEffect; grind [failWord_keeps, foldl_keeps, foldl_keeps_snd, Canonical.of_mk, Canonical.parts, FsKept.st, FsKept.after, FsKept.mk]

theorem launchOrHold_keeps (sid : ℕ) (i : Issued) (s : State) (h_s : Canonical s) : Canonical (launchOrHold sid i s) := by
  unfold launchOrHold; grind [setStream_keeps, launch_keeps, foldl_keeps, foldl_keeps_snd, Canonical.of_mk, Canonical.parts, FsKept.st, FsKept.after, FsKept.mk]

theorem scalarWord_keeps (eff : ℕ → Issued → State → State) (sid : ℕ) (i : Issued) (s : State) (h_eff : ∀ x0 x1 x2, Canonical x2 → Canonical (eff x0 x1 x2)) (h_s : Canonical s) : Canonical (scalarWord eff sid i s) := by
  unfold scalarWord; grind [failWord_keeps, foldl_keeps, foldl_keeps_snd, Canonical.of_mk, Canonical.parts, FsKept.st, FsKept.after, FsKept.mk]

theorem atIssue_keeps (f : Issued → Stream → Stream) (op : ℕ) (s : State) (h_s : Canonical s) : Canonical (atIssue f op s) := by
  unfold atIssue; grind [issueWord_keeps, scalarWord_keeps, completeWord_keeps, setStream_keeps, foldl_keeps, foldl_keeps_snd, Canonical.of_mk, Canonical.parts, FsKept.st, FsKept.after, FsKept.mk]

theorem fsOk_keeps (s : State) (data : optParam (List Byte) []) (h_s : Canonical s) : FsKept (fsOk s data) := by
  unfold fsOk; grind [foldl_keeps, foldl_keeps_snd, Canonical.of_mk, Canonical.parts, FsKept.st, FsKept.after, FsKept.mk]

theorem setInv_keeps (id : ℕ) (f : QInv → QInv) (s : State) (h_s : Canonical s) : Canonical (setInv id f s) := by
  unfold setInv; grind [State.onEng_keeps, foldl_keeps, foldl_keeps_snd, Canonical.of_mk, Canonical.parts, FsKept.st, FsKept.after, FsKept.mk]

theorem beginPortions_keeps (id : ℕ) (ps : List ℕ) (s : State) (h_s : Canonical s) : Canonical (beginPortions id ps s) := by
  unfold beginPortions; grind [setInv_keeps, foldl_keeps, foldl_keeps_snd, Canonical.of_mk, Canonical.parts, FsKept.st, FsKept.after, FsKept.mk]

theorem setPortion_keeps (id : ℕ) (page : ℕ) (f : QPortion → QPortion) (s : State) (h_s : Canonical s) : Canonical (setPortion id page f s) := by
  unfold setPortion; grind [setInv_keeps, foldl_keeps, foldl_keeps_snd, Canonical.of_mk, Canonical.parts, FsKept.st, FsKept.after, FsKept.mk]

theorem lineFailed_keeps (id : ℕ) (at_ : ℕ) (st : ℕ) (s : State) (h_s : Canonical s) : Canonical (lineFailed id at_ st s) := by
  unfold lineFailed; grind [setInv_keeps, foldl_keeps, foldl_keeps_snd, Canonical.of_mk, Canonical.parts, FsKept.st, FsKept.after, FsKept.mk]

theorem countLines_keeps (q : QInv) (ls : List ℕ) (s : State) (h_s : Canonical s) : Canonical (countLines q ls s) := by
  unfold countLines; grind [bump_keeps, foldl_keeps, foldl_keeps_snd, Canonical.of_mk, Canonical.parts, FsKept.st, FsKept.after, FsKept.mk]

theorem qlines_keeps (n i : Nat) (it : Item) (s : State) (h : Canonical s) : Canonical (qlines n i it s).2 := by
  induction n generalizing i s with
  | zero => unfold qlines; exact h
  | succ n ih =>
    unfold qlines
    extract_lets w q0
    clear_value w q0
    split
    · exact OptKept.getD (engReady_wait_kept ‹_› h) h
    · exact ih _ _ (lineFailed_keeps _ _ _ _ (engReady_bad_kept ‹_› h))
    · have h0 := fun ls => beginPortions_keeps it.id ls s h
      split
      next e =>
      have h1 := Canonical.of_pair e (engAccess_keeps _ _ _ (h0 _))
      split
      · exact ih _ _ (countLines_keeps _ _ _ (setPortion_keeps _ _ _ _ h1))
      · split
        next e =>
        have h2 := Canonical.of_triple e (engPut_keeps _ _ _ _ h1)
        split
        · exact ih _ _ (lineFailed_keeps _ _ _ _ h2)
        · refine ih _ _ (countLines_keeps _ _ _ (ite_keeps (bumpBy_keeps _ _ _ (addForwards_keeps _ _ _ ?_)) (addForwards_keeps _ _ _ ?_)))
          all_goals exact ite_keeps h2 (setInv_keeps _ _ _ (foldl_keeps _ _ _ (fun s l hs => poisonLine_keeps _ _ _ _ hs) h2))

theorem endQExec_keeps (it : Item) (st : ℕ) (v : ℕ) (pl : List Byte) (s : State) (h_s : Canonical s) : Canonical (endQExec it st v pl s) := by
  unfold endQExec; grind [State.onEng_keeps, endWrite_keeps, foldl_keeps, foldl_keeps_snd, Canonical.of_mk, Canonical.parts, FsKept.st, FsKept.after, FsKept.mk]

theorem finishQExec_keeps (it : Item) (s : State) (h_s : Canonical s) : Canonical (finishQExec it s) := by
  unfold finishQExec; grind [endQExec_keeps, bump_keeps, foldl_keeps, foldl_keeps_snd, Canonical.of_mk, Canonical.parts, FsKept.st, FsKept.after, FsKept.mk]

theorem qportion_keeps (id : ℕ) (k : ℕ) (s : State) (h_s : Canonical s) : Canonical (qportion id k s) := by
  unfold qportion; grind [beginPortions_keeps, takeArmed_keeps, setPortion_keeps, qlines_keeps, setInv_keeps, finishQExec_keeps, foldl_keeps, foldl_keeps_snd, Canonical.of_mk, Canonical.parts, FsKept.st, FsKept.after, FsKept.mk]

theorem setIsland_keeps (i : ℕ) (f : Island → Island) (s : State) (h_s : Canonical s) : Canonical (setIsland i f s) := by
  unfold setIsland; grind [State.onPwr_keeps, foldl_keeps, foldl_keeps_snd, Canonical.of_mk, Canonical.parts, FsKept.st, FsKept.after, FsKept.mk]

theorem lockIsland_keeps (i : ℕ) (s : State) (h_s : Canonical s) : Canonical (lockIsland i s) := by
  unfold lockIsland; grind [setIsland_keeps, foldl_keeps, foldl_keeps_snd, Canonical.of_mk, Canonical.parts, FsKept.st, FsKept.after, FsKept.mk]

theorem lockIslands_keeps (is : List ℕ) (s : State) (h_s : Canonical s) : Canonical (lockIslands is s) := by
  unfold lockIslands; grind [lockIsland_keeps, foldl_keeps, foldl_keeps_snd, Canonical.of_mk, Canonical.parts, FsKept.st, FsKept.after, FsKept.mk]

theorem setLane_keeps (l : ℕ) (x : LaneState) (s : State) (h_s : Canonical s) : Canonical (setLane l x s) := by
  unfold setLane; grind [State.onKt_keeps, foldl_keeps, foldl_keeps_snd, Canonical.of_mk, Canonical.parts, FsKept.st, FsKept.after, FsKept.mk]

theorem lanesOn_keeps (p : ℕ) (s : State) (h_s : Canonical s) : Canonical (lanesOn p s) := by
  unfold lanesOn; grind [setLane_keeps, foldl_keeps, foldl_keeps_snd, Canonical.of_mk, Canonical.parts, FsKept.st, FsKept.after, FsKept.mk]

theorem setLink_keeps (l : ℕ) (x : Link) (s : State) (h_s : Canonical s) : Canonical (setLink l x s) := by
  unfold setLink; grind [State.onKt_keeps, foldl_keeps, foldl_keeps_snd, Canonical.of_mk, Canonical.parts, FsKept.st, FsKept.after, FsKept.mk]

theorem linkUp_keeps (l : ℕ) (s : State) (h_s : Canonical s) : Canonical (linkUp l s) := by
  unfold linkUp; grind [setLink_keeps, foldl_keeps, foldl_keeps_snd, Canonical.of_mk, Canonical.parts, FsKept.st, FsKept.after, FsKept.mk]

theorem reformLink_keeps (l : ℕ) (s : State) (h_s : Canonical s) : Canonical (reformLink l s) := by
  unfold reformLink; grind [setLink_keeps, linkUp_keeps, foldl_keeps, foldl_keeps_snd, Canonical.of_mk, Canonical.parts, FsKept.st, FsKept.after, FsKept.mk]

theorem portOn_keeps (s : State) (p : ℕ) (h_s : Canonical s) : Canonical (portOn s p) := by
  unfold portOn; grind [lanesOn_keeps, reformLink_keeps, foldl_keeps, foldl_keeps_snd, Canonical.of_mk, Canonical.parts, FsKept.st, FsKept.after, FsKept.mk]

theorem startStep10_keeps (s : State) (h_s : Canonical s) : Canonical (startStep10 s).1 := by
  unfold startStep10; grind [lockIslands_keeps, portOn_keeps, foldl_keeps, foldl_keeps_snd, Canonical.of_mk, Canonical.parts, FsKept.st, FsKept.after, FsKept.mk]

theorem grantDone_keeps (line : ℕ) (s : State) (h_s : Canonical s) : Canonical (grantDone line s) := by
  unfold grantDone; grind [freeDir_keeps, setDir_keeps, foldl_keeps, foldl_keeps_snd, Canonical.of_mk, Canonical.parts, FsKept.st, FsKept.after, FsKept.mk]

theorem returnedData_keeps (line : ℕ) (data : List Byte) (poison : Bool) (s : State) (h_s : Canonical s) : Canonical (returnedData line data poison s) := by
  unfold returnedData; grind [putLines_keeps, poisonLine_keeps, foldl_keeps, foldl_keeps_snd, Canonical.of_mk, Canonical.parts, FsKept.st, FsKept.after, FsKept.mk]

theorem snoopAnswered_keeps (line : ℕ) (r : SnpResp) (down : Bool) (s : State) (h_s : Canonical s) : Canonical (snoopAnswered line r down s) := by
  unfold snoopAnswered; grind [returnedData_keeps, endTxn_keeps, setDir_keeps, foldl_keeps, foldl_keeps_snd, Canonical.of_mk, Canonical.parts, FsKept.st, FsKept.after, FsKept.mk]

theorem finishFlush_keeps (b : ℕ) (s : State) (h_s : Canonical s) : Canonical (finishFlush b s) := by
  unfold finishFlush; grind [poisonLine_keeps, State.onEng_keeps, State.onHome_keeps, foldl_keeps, foldl_keeps_snd, Canonical.of_mk, Canonical.parts, FsKept.st, FsKept.after, FsKept.mk]

theorem startFlush_keeps (b : ℕ) (s : State) (h_s : Canonical s) : Canonical (startFlush b s) := by
  unfold startFlush; grind [sendSnoop_keeps, bump_keeps, State.onHome_keeps, finishFlush_keeps, foldl_keeps, foldl_keeps_snd, Canonical.of_mk, Canonical.parts, FsKept.st, FsKept.after, FsKept.mk]

theorem stepped_keeps (n : ℕ) (s : State) (h_s : Canonical s) : Canonical (stepped n s) := by
  unfold stepped; grind [State.onPwr_keeps, foldl_keeps, foldl_keeps_snd, Canonical.of_mk, Canonical.parts, FsKept.st, FsKept.after, FsKept.mk]

theorem startStep6_keeps (s : State) (h : Canonical s) : Canonical (startStep6 s).1 :=
  applyRails_keeps _ ⟨h.1, rfl, h.3, h.4⟩

theorem applyHist_keeps (powerUp : Bool) (s : State) (p : Nat × Hist) (h : Canonical s) : Canonical (applyHist powerUp s p) := by
  unfold applyHist
  extract_lets k u hh gone s1 s2 s3 st s4
  have h1 : Canonical s1 := ite_keeps (State.onGov_keeps _ _ (setHealth_keeps _ _ _ _ h)) (ite_keeps (setHealth_keeps _ _ _ _ h)
    (ite_keeps (setHealth_keeps _ _ _ _ h) h))
  have h2 : Canonical s2 := ite_keeps h1 (ite_keeps (State.onEng_keeps _ _ h1) (ite_keeps (State.onEng_keeps _ _ h1)
    (ite_keeps (State.onEng_keeps _ _ h1) (ite_keeps (setMillpond_keeps _ _ _ h1) (ite_keeps (setLane_keeps _ _ _ h1)
    (ite_keeps (setIsland_keeps _ _ _ h1) (ite_keeps (setHist_keeps _ _ _ h1) h1)))))))
  have h3 : Canonical s3 := State.onHome_keeps _ _ (setUnitH_keeps _ _ _ h2)
  have h4 : Canonical s4 := by
    unfold s4
    split
    · exact setRail_keeps _ _ _ h3
    · exact h3
  refine ite_keeps h3 ?_
  split
  · exact setIsland_keeps _ _ _ h4
  · exact h4

theorem startStep5_keeps (powerUp : Bool) (s : State) (h_s : Canonical s) : Canonical (startStep5 powerUp s).1 := by
  unfold startStep5; grind [State.onGov_keeps, applyHist_keeps, foldl_keeps, foldl_keeps_snd, Canonical.of_mk, Canonical.parts, FsKept.st, FsKept.after, FsKept.mk]

theorem startStep4_keeps (powerUp : Bool) (s : State) (h_s : Canonical s) : Canonical (startStep4 powerUp s).1 := by
  unfold startStep4; grind [loadStraps_keeps, foldl_keeps, foldl_keeps_snd, Canonical.of_mk, Canonical.parts, FsKept.st, FsKept.after, FsKept.mk]

theorem startStep3_keeps (powerUp : Bool) (s : State) (h_s : Canonical s) : Canonical (startStep3 powerUp s).1 := by
  unfold startStep3; grind [lockIsland_keeps, checkSlots_keeps, drbgBytes_keeps, State.onSec_keeps, State.onNor_keeps, foldl_keeps, foldl_keeps_snd, Canonical.of_mk, Canonical.parts, FsKept.st, FsKept.after, FsKept.mk]

theorem startStep2_keeps (s0 : State) (h_s0 : Canonical s0) : Canonical (startStep2 s0).1 := by
  unfold startStep2; grind [lockIslands_keeps, State.onMach_keeps, foldl_keeps, foldl_keeps_snd, Canonical.of_mk, Canonical.parts, FsKept.st, FsKept.after, FsKept.mk]

theorem startStep1_keeps (s : State) (h_s : Canonical s) : Canonical (startStep1 s).1 := by
  unfold startStep1; grind [lockIslands_keeps, foldl_keeps, foldl_keeps_snd, Canonical.of_mk, Canonical.parts, FsKept.st, FsKept.after, FsKept.mk]

theorem findTargets_keeps (s : State) (h_s : Canonical s) : Canonical (findTargets s) := by
  unfold findTargets; grind [setMillpond_keeps, foldl_keeps, foldl_keeps_snd, Canonical.of_mk, Canonical.parts, FsKept.st, FsKept.after, FsKept.mk]

theorem reportTargets_keeps (s : State) (h_s : Canonical s) : Canonical (reportTargets s) := by
  unfold reportTargets; grind [freeVal_keeps, event_keeps, foldl_keeps, foldl_keeps_snd, Canonical.of_mk, Canonical.parts, FsKept.st, FsKept.after, FsKept.mk]

theorem startStep9_keeps (s : State) (h_s : Canonical s) : Canonical (startStep9 s).1 := by
  unfold startStep9; grind [findTargets_keeps, lockIslands_keeps, setMillpond_keeps, reportTargets_keeps, foldl_keeps, foldl_keeps_snd, Canonical.of_mk, Canonical.parts, FsKept.st, FsKept.after, FsKept.mk]

theorem startStep8_keeps (s : State) (h_s : Canonical s) : Canonical (startStep8 s).1 := by
  unfold startStep8; grind [lockIslands_keeps, setIsland_keeps, State.onStore_keeps, findTargets_keeps, event_keeps, cwSetField_keeps, foldl_keeps, foldl_keeps_snd, Canonical.of_mk, Canonical.parts, FsKept.st, FsKept.after, FsKept.mk]

theorem startStep7_keeps (s : State) (h_s : Canonical s) : Canonical (startStep7 s).1 := by
  unfold startStep7; grind [lockIslands_keeps, State.onEng_keeps, foldl_keeps, foldl_keeps_snd, Canonical.of_mk, Canonical.parts, FsKept.st, FsKept.after, FsKept.mk]

theorem startTail_keeps (s : State) (h : Canonical s) : Canonical (startTail s) := by
  unfold startTail
  extract_lets go
  have hg : ∀ n f s, (∀ s, Canonical s → Canonical (f s).1) → Canonical s → Canonical (go n f s) := fun n f s hf hs =>
    ite_keeps hs (ite_keeps (stepped_keeps _ _ (State.onPwr_keeps _ _ (hf s hs))) (hf s hs))
  exact hg _ _ _ startStep10_keeps (hg _ _ _ startStep9_keeps (hg _ _ _ startStep8_keeps (hg _ _ _ startStep7_keeps h)))

theorem runStart_keeps (s : State) (h : Canonical s) : Canonical (runStart s) := by
  unfold runStart
  extract_lets pu go r
  have hg : ∀ n f (x : State × Bool), (∀ s, Canonical s → Canonical (f s).1) → Canonical x.1 → Canonical (go n f x).1 := by
    intro n f x hf hx
    dsimp only [go]
    split
    · exact hx
    · split
      · exact stepped_keeps _ _ (hf _ hx)
      · exact hf _ hx
  have hr : Canonical r.1 := hg _ _ _ startStep6_keeps (hg _ _ _ (startStep5_keeps _) (hg _ _ _ (startStep4_keeps _)
    (hg _ _ _ (startStep3_keeps _) (hg _ _ _ startStep2_keeps (hg _ _ _ startStep1_keeps h)))))
  exact ite_keeps (startTail_keeps _ hr) hr

theorem startGoesOn_keeps (s : State) (h_s : Canonical s) : Canonical (startGoesOn s) := by
  unfold startGoesOn; grind [runStart_keeps, foldl_keeps, foldl_keeps_snd, Canonical.of_mk, Canonical.parts, FsKept.st, FsKept.after, FsKept.mk]

theorem endT3_keeps (key : ℕ) (s : State) (h_s : Canonical s) : Canonical (endT3 key s) := by
  unfold endT3; grind [setMillpond_keeps, State.onStore_keeps, foldl_keeps, foldl_keeps_snd, Canonical.of_mk, Canonical.parts, FsKept.st, FsKept.after, FsKept.mk]

theorem checkSpares_keeps (q : ℕ) (s : State) (h_s : Canonical s) : Canonical (checkSpares q s) := by
  unfold checkSpares; grind [setMillpond_keeps, foldl_keeps, foldl_keeps_snd, Canonical.of_mk, Canonical.parts, FsKept.st, FsKept.after, FsKept.mk]

theorem freeT3_keeps (f : ℕ) (s : State) (h_s : Canonical s) : Canonical (freeT3 f s) := by
  unfold freeT3; grind [setMillpond_keeps, foldl_keeps, foldl_keeps_snd, Canonical.of_mk, Canonical.parts, FsKept.st, FsKept.after, FsKept.mk]

theorem abandonMove_keeps (p : ℕ) (s : State) (h_s : Canonical s) : Canonical (abandonMove p s) := by
  unfold abandonMove; grind [freeT3_keeps, editPage_keeps, State.onStore_keeps, requestMove_keeps, foldl_keeps, foldl_keeps_snd, Canonical.of_mk, Canonical.parts, FsKept.st, FsKept.after, FsKept.mk]

theorem endReads_keeps (q : ℕ) (s : State) (h_s : Canonical s) : Canonical (endReads q s) := by
  unfold endReads; grind [endT3_keeps, foldl_keeps, foldl_keeps_snd, Canonical.of_mk, Canonical.parts, FsKept.st, FsKept.after, FsKept.mk]

theorem retireMillpond_keeps (q : ℕ) (s : State) (h_s : Canonical s) : Canonical (retireMillpond q s) := by
  unfold retireMillpond; grind [markRetired_keeps, setMillpond_keeps, abandonMove_keeps, endReads_keeps, foldl_keeps, foldl_keeps_snd, Canonical.of_mk, Canonical.parts, FsKept.st, FsKept.after, FsKept.mk]

theorem retireNand_keeps (n : ℕ) (s : State) (h_s : Canonical s) : Canonical (retireNand n s) := by
  unfold retireNand; grind [setMillpond_keeps, markRetired_keeps, retireMillpond_keeps, foldl_keeps, foldl_keeps_snd, Canonical.of_mk, Canonical.parts, FsKept.st, FsKept.after, FsKept.mk]

theorem blockBad_keeps (q : ℕ) (b : ℕ) (s : State) (h_s : Canonical s) : Canonical (blockBad q b s) := by
  unfold blockBad; grind [checkSpares_keeps, setMillpond_keeps, retireNand_keeps, foldl_keeps, foldl_keeps_snd, Canonical.of_mk, Canonical.parts, FsKept.st, FsKept.after, FsKept.mk]

theorem fetchWanted_keeps (p : ℕ) (k : ℕ) (s : State) (h_s : Canonical s) : Canonical (fetchWanted p k s) := by
  unfold fetchWanted; grind [fetchLine_keeps, foldl_keeps, foldl_keeps_snd, Canonical.of_mk, Canonical.parts, FsKept.st, FsKept.after, FsKept.mk]

theorem lcDrop_keeps (line : ℕ) (s : State) (h_s : Canonical s) : Canonical (lcDrop line s) := by
  unfold lcDrop; grind [State.onStore_keeps, foldl_keeps, foldl_keeps_snd, Canonical.of_mk, Canonical.parts, FsKept.st, FsKept.after, FsKept.mk]

theorem failedHere_keeps (p : ℕ) (k : ℕ) (ch : ℕ) (s : State) (h_s : Canonical s) : Canonical (failedHere p k ch s) := by
  unfold failedHere; grind [setPoison_keeps, poisonLine_keeps, pump_keeps, State.onStore_keeps, fetchWanted_keeps, lcDrop_keeps, foldl_keeps, foldl_keeps_snd, Canonical.of_mk, Canonical.parts, FsKept.st, FsKept.after, FsKept.mk]

theorem blockFailed_keeps (p : ℕ) (k : ℕ) (ch : ℕ) (s : State) (h_s : Canonical s) : Canonical (blockFailed p k ch s) := by
  unfold blockFailed; grind [requestMove_keeps, poisonLine_keeps, foldl_keeps, foldl_keeps_snd, Canonical.of_mk, Canonical.parts, FsKept.st, FsKept.after, FsKept.mk]

theorem serveRead_keeps (r : NandRead) (s : State) (h : Canonical s) : Canonical (serveRead r s) := by
  unfold serveRead
  cases readSource r s with
  | none => exact h
  | some x =>
    obtain ⟨q, b⟩ := x
    dsimp only
    have h0 := takeArmed_keeps kNand (blkChannel q b) [0x13] _ (endT3_keeps (r.page * 16 + r.block) s h)
    generalize takeArmed kNand (blkChannel q b) [0x13] (endT3 (r.page * 16 + r.block) s) = x at h0 ⊢
    obtain ⟨arm, s0⟩ := x
    generalize he : (List.range _).foldl _ s0 = s1
    have h1 : Canonical s1 := he ▸ foldl_keeps _ _ _ (fun s _ hs => countEvent_keeps _ _ _ _ _ _ hs) h0
    clear he
    generalize he : (if 4 ≤ r.retries then blockBad q b s1 else s1) = s2
    have h2 : Canonical s2 := he ▸ ite_keeps (blockBad_keeps _ _ _ h1) h1
    clear he
    split
    · exact pump_keeps _ h2
    · split
      · exact failedHere_keeps _ _ _ _ h2
      · refine t3Ready_keeps _ _ (pump_keeps _ (t3Ready_keeps _ _ (fetchWanted_keeps _ _ _ ?_)))
        split
        · exact blockFailed_keeps _ _ _ _ h2
        · exact foldl_keeps _ _ _ (fun s l hs => writeBytes_keeps _ _ _ hs) h2

theorem crossReads_keeps (i : ℕ) (s : State) (h_s : Canonical s) : Canonical (crossReads i s) := by
  unfold crossReads; grind [serveRead_keeps, setIsland_keeps, foldl_keeps, foldl_keeps_snd, Canonical.of_mk, Canonical.parts, FsKept.st, FsKept.after, FsKept.mk]

theorem reopened_keeps (i : ℕ) (s : State) (h_s : Canonical s) : Canonical (reopened i s) := by
  unfold reopened; grind [pump_keeps, crossReads_keeps, setIsland_keeps, foldl_keeps, foldl_keeps_snd, Canonical.of_mk, Canonical.parts, FsKept.st, FsKept.after, FsKept.mk]

theorem decideMapOut_keeps (b : ℕ) (s : State) (h_s : Canonical s) : Canonical (decideMapOut b s) := by
  unfold decideMapOut; grind [unitEvent_keeps, State.onCore_keeps, foldl_keeps, foldl_keeps_snd, Canonical.of_mk, Canonical.parts, FsKept.st, FsKept.after, FsKept.mk]

theorem abandonGroups_keeps (p : ℕ → QGroup → Bool) (fl : ℕ) (s : State) (h_s : Canonical s) : Canonical (abandonGroups p fl s) := by
  unfold abandonGroups; grind [abandonFrom_keeps, foldl_keeps, foldl_keeps_snd, Canonical.of_mk, Canonical.parts, FsKept.st, FsKept.after, FsKept.mk]

theorem loseQuern_keeps (u : ℕ) (s : State) (h_s : Canonical s) : Canonical (loseQuern u s) := by
  unfold loseQuern; grind [State.onEng_keeps, endQExec_keeps, abandonGroups_keeps, itemsFailed_keeps, foldl_keeps, foldl_keeps_snd, Canonical.of_mk, Canonical.parts, FsKept.st, FsKept.after, FsKept.mk]

theorem retireLane_keeps (evacuate : Bool) (l : ℕ) (s : State) (h_s : Canonical s) : Canonical (retireLane evacuate l s) := by
  unfold retireLane; grind [markRetired_keeps, loseQuern_keeps, abandonMove_keeps, requestMove_keeps, setPage_keeps, foldl_keeps, foldl_keeps_snd, Canonical.of_mk, Canonical.parts, FsKept.st, FsKept.after, FsKept.mk]

theorem bolterLost_keeps (b : ℕ) (s : State) (h_s : Canonical s) : Canonical (bolterLost b s) := by
  unfold bolterLost; grind [endItem_keeps, foldl_keeps, foldl_keeps_snd, Canonical.of_mk, Canonical.parts, FsKept.st, FsKept.after, FsKept.mk]

theorem loseBolter_keeps (kind : ℕ) (b : ℕ) (s : State) (h_s : Canonical s) : Canonical (loseBolter kind b s) := by
  unfold loseBolter; grind [itemsFailed_keeps, bolterLost_keeps, foldl_keeps, foldl_keeps_snd, Canonical.of_mk, Canonical.parts, FsKept.st, FsKept.after, FsKept.mk]

theorem retireBolter_keeps (b : ℕ) (s : State) (h_s : Canonical s) : Canonical (retireBolter b s) := by
  unfold retireBolter; grind [loseBolter_keeps, markRetired_keeps, State.onEng_keeps, foldl_keeps, foldl_keeps_snd, Canonical.of_mk, Canonical.parts, FsKept.st, FsKept.after, FsKept.mk]

theorem pendDdr_keeps (d : ℕ) (s : State) (h_s : Canonical s) : Canonical (pendDdr d s) := by
  unfold pendDdr; grind [unitEvent_keeps, bump_keeps, setHist_keeps, setHealth_keeps, foldl_keeps, foldl_keeps_snd, Canonical.of_mk, Canonical.parts, FsKept.st, FsKept.after, FsKept.mk]

theorem retireSluice_keeps (q : ℕ) (s : State) (h_s : Canonical s) : Canonical (retireSluice q s) := by
  unfold retireSluice; grind [abandonMove_keeps, markRetired_keeps, foldl_keeps, foldl_keeps_snd, Canonical.of_mk, Canonical.parts, FsKept.st, FsKept.after, FsKept.mk]

theorem retirePortIfDead_keeps (p : ℕ) (s : State) (h_s : Canonical s) : Canonical (retirePortIfDead p s) := by
  unfold retirePortIfDead; grind [markRetired_keeps, foldl_keeps, foldl_keeps_snd, Canonical.of_mk, Canonical.parts, FsKept.st, FsKept.after, FsKept.mk]

theorem resendAll_keeps (n : ℕ) (plane : ℕ) (s : State) (h_s : Canonical s) : Canonical (resendAll n plane s) := by
  unfold resendAll; grind [sendHeld_keeps, foldl_keeps, foldl_keeps_snd, Canonical.of_mk, Canonical.parts, FsKept.st, FsKept.after, FsKept.mk]

theorem planeSwitch_keeps (n : ℕ) (plane : ℕ) (timeout : Bool) (s : State) (h_s : Canonical s) : Canonical (planeSwitch n plane timeout s) := by
  unfold planeSwitch; grind [setCtx_keeps, resendAll_keeps, bump_keeps, foldl_keeps, foldl_keeps_snd, Canonical.of_mk, Canonical.parts, FsKept.st, FsKept.after, FsKept.mk]

theorem leavePlane_keeps (plane : ℕ) (s : State) (h_s : Canonical s) : Canonical (leavePlane plane s) := by
  unfold leavePlane; grind [planeSwitch_keeps, foldl_keeps, foldl_keeps_snd, Canonical.of_mk, Canonical.parts, FsKept.st, FsKept.after, FsKept.mk]

theorem retireSerdes_keeps (l : ℕ) (s : State) (h_s : Canonical s) : Canonical (retireSerdes l s) := by
  unfold retireSerdes; grind [setLane_keeps, markRetired_keeps, retirePortIfDead_keeps, leavePlane_keeps, reformLink_keeps, foldl_keeps, foldl_keeps_snd, Canonical.of_mk, Canonical.parts, FsKept.st, FsKept.after, FsKept.mk]

theorem retirePort_keeps (p : ℕ) (s : State) (h_s : Canonical s) : Canonical (retirePort p s) := by
  unfold retirePort; grind [retireSerdes_keeps, markRetired_keeps, foldl_keeps, foldl_keeps_snd, Canonical.of_mk, Canonical.parts, FsKept.st, FsKept.after, FsKept.mk]

theorem moveToken_keeps (s : State) (h_s : Canonical s) : Canonical (moveToken s) := by
  unfold moveToken; grind [State.onMach_keeps, foldl_keeps, foldl_keeps_snd, Canonical.of_mk, Canonical.parts, FsKept.st, FsKept.after, FsKept.mk]

theorem tokenAfterIsland_keeps (s : State) (h_s : Canonical s) : Canonical (tokenAfterIsland s) := by
  unfold tokenAfterIsland; grind [moveToken_keeps, foldl_keeps, foldl_keeps_snd, Canonical.of_mk, Canonical.parts, FsKept.st, FsKept.after, FsKept.mk]

theorem retireHalf_keeps (h : ℕ) (s : State) (h_s : Canonical s) : Canonical (retireHalf h s) := by
  unfold retireHalf; grind [tokenAfterIsland_keeps, markRetired_keeps, foldl_keeps, foldl_keeps_snd, Canonical.of_mk, Canonical.parts, FsKept.st, FsKept.after, FsKept.mk]

theorem retireIsland_keeps (i : ℕ) (s : State) (h_s : Canonical s) : Canonical (retireIsland i s) := by
  unfold retireIsland; grind [markRetired_keeps, setIsland_keeps, retirePort_keeps, retireLane_keeps, pendDdr_keeps, retireMillpond_keeps, retireNand_keeps, retireHalf_keeps, foldl_keeps, foldl_keeps_snd, Canonical.of_mk, Canonical.parts, FsKept.st, FsKept.after, FsKept.mk]

theorem retireUnit_keeps (kind unit : Nat) (s : State) (h : Canonical s) : Canonical (retireUnit kind unit s) := by
  unfold retireUnit
  refine pump_keeps _ ?_
  exact ite_keeps (decideMapOut_keeps _ _ h) (ite_keeps (retireLane_keeps _ _ _ h) (ite_keeps (retireHoist_keeps _ _ h)
    (ite_keeps (retireBolter_keeps _ _ h) (ite_keeps (pendDdr_keeps _ _ h) (ite_keeps (retireNand_keeps _ _ h)
    (ite_keeps (retireSluice_keeps _ _ h) (ite_keeps (retireMillpond_keeps _ _ h) (ite_keeps (retirePort_keeps _ _ h)
    (ite_keeps (retireSerdes_keeps _ _ h) (ite_keeps (retireIsland_keeps _ _ h) (ite_keeps (retireHalf_keeps _ _ h) h)))))))))))

theorem failedRelock_keeps (i : ℕ) (s : State) (h_s : Canonical s) : Canonical (failedRelock i s) := by
  unfold failedRelock; grind [retireUnit_keeps, foldl_keeps, foldl_keeps_snd, Canonical.of_mk, Canonical.parts, FsKept.st, FsKept.after, FsKept.mk]

theorem foldInto_keeps (it : Item) (s : State) (h_s : Canonical s) : Canonical (foldInto it s) := by
  unfold foldInto; grind [State.onHome_keeps, finish_keeps, touchPage_keeps, bump_keeps, foldl_keeps, foldl_keeps_snd, Canonical.of_mk, Canonical.parts, FsKept.st, FsKept.after, FsKept.mk]

theorem refreshHot_keeps (i : Nat) (s : State) (h : Canonical s) : Canonical (refreshHot i s) := by
  unfold refreshHot
  extract_lets tab lst n done fail prt okAt off ll t rows rest others fit ls
  have hd : ∀ s, Canonical s → Canonical (done s) := fun s hs => State.onEng_keeps _ _ hs
  have hf : ∀ s, Canonical s → Canonical (fail s) := fun s hs => event_keeps _ _ (hd s hs)
  clear_value done fail
  refine ite_keeps (hf _ h) ?_
  split
  · exact OptKept.getD (engReady_wait_kept ‹_› h) h
  · exact hf _ h
  · refine ite_keeps (hf _ h) ?_
    split
    · exact OptKept.getD (engReady_wait_kept ‹_› h) h
    · exact hf _ h
    · split
      next e =>
      have h1 := Canonical.of_pair e (engAccess_keeps _ _ _ (engAccess_keeps _ _ _ h))
      exact bump_keeps _ _ (hd _ (foldl_keeps _ _ _ (fun s o hs => bufHold_keeps _ _ _ hs) (State.onEng_keeps _ _ h1)))

theorem wakeOpen_keeps (s : State) (h_s : Canonical s) : Canonical (wakeOpen s) := by
  unfold wakeOpen; grind [State.onPwr_keeps, State.onKt_keeps, State.onStore_keeps, portOn_keeps, fsReply_keeps, pump_keeps, refreshHot_keeps, foldl_keeps, foldl_keeps_snd, Canonical.of_mk, Canonical.parts, FsKept.st, FsKept.after, FsKept.mk]

theorem cwPlaced_keeps (es : List CwEnt) (s : State) (h_s : Canonical s) : Canonical (cwPlaced es s) := by
  unfold cwPlaced; grind [cwStore_keeps, foldl_keeps, foldl_keeps_snd, Canonical.of_mk, Canonical.parts, FsKept.st, FsKept.after, FsKept.mk]

theorem wearEvents_keeps (q : ℕ) (s : State) (h_s : Canonical s) : Canonical (wearEvents q s) := by
  unfold wearEvents; grind [event_keeps, setMillpond_keeps, foldl_keeps, foldl_keeps_snd, Canonical.of_mk, Canonical.parts, FsKept.st, FsKept.after, FsKept.mk]

theorem lanesOff_keeps (p : ℕ) (s : State) (h_s : Canonical s) : Canonical (lanesOff p s) := by
  unfold lanesOff; grind [setLane_keeps, foldl_keeps, foldl_keeps_snd, Canonical.of_mk, Canonical.parts, FsKept.st, FsKept.after, FsKept.mk]

theorem reformPort_keeps (p : ℕ) (s : State) (h_s : Canonical s) : Canonical (reformPort p s) := by
  unfold reformPort; grind [lanesOff_keeps, lanesOn_keeps, leavePlane_keeps, reformLink_keeps, foldl_keeps, foldl_keeps_snd, Canonical.of_mk, Canonical.parts, FsKept.st, FsKept.after, FsKept.mk]

theorem stopRebuild_keeps (i : ℕ) (s : State) (h_s : Canonical s) : Canonical (stopRebuild i s) := by
  unfold stopRebuild; grind [setSet_keeps, foldl_keeps, foldl_keeps_snd, Canonical.of_mk, Canonical.parts, FsKept.st, FsKept.after, FsKept.mk]

theorem refreshSets_keeps (s : State) (h_s : Canonical s) : Canonical (refreshSets s) := by
  unfold refreshSets; grind [State.onMach_keeps, foldl_keeps, foldl_keeps_snd, Canonical.of_mk, Canonical.parts, FsKept.st, FsKept.after, FsKept.mk]

theorem fenceSets_keeps (n : ℕ) (s : State) (h_s : Canonical s) : Canonical (fenceSets n s) := by
  unfold fenceSets; grind [setSet_keeps, stopRebuild_keeps, refreshSets_keeps, foldl_keeps, foldl_keeps_snd, Canonical.of_mk, Canonical.parts, FsKept.st, FsKept.after, FsKept.mk]

theorem emitClose_keeps (n : ℕ) (reason : ℕ) (s : State) (h_s : Canonical s) : Canonical (emitClose n reason s) := by
  unfold emitClose; grind [emit_keeps, foldl_keeps, foldl_keeps_snd, Canonical.of_mk, Canonical.parts, FsKept.st, FsKept.after, FsKept.mk]

theorem flushAll_keeps (s : State) (h_s : Canonical s) : Canonical (flushAll s) := by
  unfold flushAll; grind [flushCtx_keeps, foldl_keeps, foldl_keeps_snd, Canonical.of_mk, Canonical.parts, FsKept.st, FsKept.after, FsKept.mk]

theorem freeCtx_keeps (n : ℕ) (s : State) (h_s : Canonical s) : Canonical (freeCtx n s) := by
  unfold freeCtx; grind [State.onKt_keeps, State.onHome_keeps, flushAll_keeps, State.onSec_keeps, foldl_keeps, foldl_keeps_snd, Canonical.of_mk, Canonical.parts, FsKept.st, FsKept.after, FsKept.mk]

theorem ownPump_keeps (n k : Nat) (s : State) (h : Canonical s) : Canonical (ownPump n k s) := by
  induction k generalizing s with
  | zero => exact h
  | succ k ih =>
    unfold ownPump
    extract_lets c
    split
    · split
      · exact ih _ (sendRec_keeps _ _ _ _ _ (setCtx_keeps _ _ _ h))
      · exact h
    · exact h

theorem rebuildAnswered_keeps (i : ℕ) (node : ℕ) (tag : ℕ) (status : ℕ) (data : List Byte) (s : State) (h_s : Canonical s) : Canonical (rebuildAnswered i node tag status data s) := by
  unfold rebuildAnswered; grind [setCtx_keeps, ownPump_keeps, setSet_keeps, foldl_keeps, foldl_keeps_snd, Canonical.of_mk, Canonical.parts, FsKept.st, FsKept.after, FsKept.mk]

theorem answerForwarded_keeps (s : State) (h_s : Canonical s) : Canonical (answerForwarded s) := by
  unfold answerForwarded; grind [endForwarded_keeps, foldl_keeps, foldl_keeps_snd, Canonical.of_mk, Canonical.parts, FsKept.st, FsKept.after, FsKept.mk]

theorem forwardDone_keeps (node : ℕ) (tag : ℕ) (status : ℕ) (s : State) (h_s : Canonical s) : Canonical (forwardDone node tag status s) := by
  unfold forwardDone; grind [setCtx_keeps, staleUnit_keeps, State.onHome_keeps, pump_keeps, answerForwarded_keeps, ownPump_keeps, foldl_keeps, foldl_keeps_snd, Canonical.of_mk, Canonical.parts, FsKept.st, FsKept.after, FsKept.mk]

theorem ownAnswered_keeps (node : ℕ) (tag : ℕ) (status : ℕ) (data : List Byte) (s : State) (h_s : Canonical s) : Canonical (ownAnswered node tag status data s) := by
  unfold ownAnswered; grind [rebuildAnswered_keeps, forwardDone_keeps, foldl_keeps, foldl_keeps_snd, Canonical.of_mk, Canonical.parts, FsKept.st, FsKept.after, FsKept.mk]

theorem ownDead_keeps (node : ℕ) (tag : ℕ) (s : State) (h_s : Canonical s) : Canonical (ownDead node tag s) := by
  unfold ownDead; grind [ownAnswered_keeps, event_keeps, bump_keeps, foldl_keeps, foldl_keeps_snd, Canonical.of_mk, Canonical.parts, FsKept.st, FsKept.after, FsKept.mk]

theorem ownAllDead_keeps (n : ℕ) (s : State) (h_s : Canonical s) : Canonical (ownAllDead n s) := by
  unfold ownAllDead; grind [ownDead_keeps, foldl_keeps, foldl_keeps_snd, Canonical.of_mk, Canonical.parts, FsKept.st, FsKept.after, FsKept.mk]

theorem ownerLost_keeps (line : ℕ) (s : State) (h_s : Canonical s) : Canonical (ownerLost line s) := by
  unfold ownerLost; grind [freeDir_keeps, bump_keeps, poisonLine_keeps, foldl_keeps, foldl_keeps_snd, Canonical.of_mk, Canonical.parts, FsKept.st, FsKept.after, FsKept.mk]

theorem dropFromEntry_keeps (n : ℕ) (line : ℕ) (s : State) (h_s : Canonical s) : Canonical (dropFromEntry n line s) := by
  unfold dropFromEntry; grind [ownerLost_keeps, setDir_keeps, freeDir_keeps, dropSharer_keeps, bump_keeps, poisonLine_keeps, endTxn_keeps, foldl_keeps, foldl_keeps_snd, Canonical.of_mk, Canonical.parts, FsKept.st, FsKept.after, FsKept.mk]

theorem dropAgent_keeps (n : ℕ) (s : State) (h_s : Canonical s) : Canonical (dropAgent n s) := by
  unfold dropAgent; grind [dropFromEntry_keeps, foldl_keeps, foldl_keeps_snd, Canonical.of_mk, Canonical.parts, FsKept.st, FsKept.after, FsKept.mk]

theorem dropHeld_keeps (n : ℕ) (s : State) (h_s : Canonical s) : Canonical (dropHeld n s) := by
  unfold dropHeld; grind [removeItem_keeps, dropWork_keeps, foldl_keeps, foldl_keeps_snd, Canonical.of_mk, Canonical.parts, FsKept.st, FsKept.after, FsKept.mk]

theorem losePeer_keeps (n : ℕ) (s : State) (h_s : Canonical s) : Canonical (losePeer n s) := by
  unfold losePeer; grind [emitClose_keeps, freeCtx_keeps, ownAllDead_keeps, dropAgent_keeps, dropHeld_keeps, State.onKt_keeps, foldl_keeps, foldl_keeps_snd, Canonical.of_mk, Canonical.parts, FsKept.st, FsKept.after, FsKept.mk]

theorem reachChanged_keeps (n : ℕ) (old : ℕ) (new : ℕ) (s : State) (h_s : Canonical s) : Canonical (reachChanged n old new s) := by
  unfold reachChanged; grind [pump_keeps, fenceSets_keeps, losePeer_keeps, State.onMach_keeps, foldl_keeps, foldl_keeps_snd, Canonical.of_mk, Canonical.parts, FsKept.st, FsKept.after, FsKept.mk]

theorem endQueued_keeps (test : Stream → Bool) (cause : ℕ) (s : State) (h_s : Canonical s) : Canonical (endQueued test cause s) := by
  unfold endQueued; grind [endStream_keeps, setStream_keeps, foldl_keeps, foldl_keeps_snd, Canonical.of_mk, Canonical.parts, FsKept.st, FsKept.after, FsKept.mk]

theorem shareWritten_keeps (n : ℕ) (a : ℕ) (new : ℕ) (s : State) (h_s : Canonical s) : Canonical (shareWritten n a new s) := by
  unfold shareWritten; grind [accrue_keeps, cwStore_keeps, endQueued_keeps, foldl_keeps, foldl_keeps_snd, Canonical.of_mk, Canonical.parts, FsKept.st, FsKept.after, FsKept.mk]

theorem handOver_keeps (s : State) (h_s : Canonical s) : Canonical (handOver s) := by
  unfold handOver; grind [moveToken_keeps, foldl_keeps, foldl_keeps_snd, Canonical.of_mk, Canonical.parts, FsKept.st, FsKept.after, FsKept.mk]

theorem CwEnt.commit_keeps (e : CwEnt) (s : State) (h_s : Canonical s) : Canonical (CwEnt.commit e s) := by
  unfold CwEnt.commit; grind [cwStore_keeps, applyRails_keeps, wearEvents_keeps, retirePortIfDead_keeps, reformPort_keeps, reachChanged_keeps, windowMoved_keeps, shareWritten_keeps, State.onCore_keeps, State.onEng_keeps, pump_keeps, setSet_keeps, State.onGov_keeps, handOver_keeps, foldl_keeps, foldl_keeps_snd, Canonical.of_mk, Canonical.parts, FsKept.st, FsKept.after, FsKept.mk]

theorem cwWriteOp_keeps (c : FsCmd) : ∀ se s, Canonical s → FsKept ((cwWriteOp c).body se s) := by
  unfold cwWriteOp; grind [cwPlaced_keeps, fsFail_keeps, fsOk_keeps, CwEnt.commit_keeps, foldl_keeps, foldl_keeps_snd, Canonical.of_mk, Canonical.parts, FsKept.st, FsKept.after, FsKept.mk]

theorem beginMove_keeps (p : ℕ) (m : Move) (s : State) (h_s : Canonical s) : Canonical (beginMove p m s) := by
  unfold beginMove; grind [editPage_keeps, State.onStore_keeps, foldl_keeps, foldl_keeps_snd, Canonical.of_mk, Canonical.parts, FsKept.st, FsKept.after, FsKept.mk]

theorem startMove_keeps (p : Nat) (w : MoveWhy) (s : State) (h : Canonical s) : Canonical (startMove p w s).2 := by
  unfold startMove
  extract_lets
  split
  · exact h
  · split
    · next e => exact beginMove_keeps _ _ _ (moveDest_keeps p w s h _ e)
    · exact h

theorem refuse_keeps (it : Item) (st : ℕ) (s : State) (h_s : Canonical s) : Canonical (refuse it st s) := by
  unfold refuse; grind [finish_keeps, foldl_keeps, foldl_keeps_snd, Canonical.of_mk, Canonical.parts, FsKept.st, FsKept.after, FsKept.mk]

theorem serveWb_keeps (it : Item) (s : State) (h_s : Canonical s) : Canonical (serveWb it s) := by
  unfold serveWb; grind [putLines_keeps, poisonLine_keeps, bump_keeps, freeDir_keeps, setDir_keeps, endTxn_keeps, finish_keeps, endWrite_keeps, State.onHome_keeps, dropSharer_keeps, foldl_keeps, foldl_keeps_snd, Canonical.of_mk, Canonical.parts, FsKept.st, FsKept.after, FsKept.mk]

theorem foldFirst_keeps (it : Item) (s : State) (h_s : Canonical s) : Canonical (foldFirst it s).2 := by
  unfold foldFirst; grind [allocFor_keeps, putLines_keeps, foldl_keeps, foldl_keeps_snd, Canonical.of_mk, Canonical.parts, FsKept.st, FsKept.after, FsKept.mk]

theorem foldOrNot_keeps_fst (it : Item) (s : State) (h_s : Canonical s) : ∀ t, (foldOrNot it s).1 = some t → Canonical t := by
  unfold foldOrNot; grind [foldInto_keeps, drainComb_keeps, foldl_keeps, foldl_keeps_snd, Canonical.of_mk, Canonical.parts, FsKept.st, FsKept.after, FsKept.mk]

theorem foldOrNot_keeps (it : Item) (s : State) (h_s : Canonical s) : Canonical (foldOrNot it s).2 := by
  unfold foldOrNot; grind [foldInto_keeps, drainComb_keeps, foldl_keeps, foldl_keeps_snd, Canonical.of_mk, Canonical.parts, FsKept.st, FsKept.after, FsKept.mk]

theorem tellInterim_keeps (id : ℕ) (s : State) (h_s : Canonical s) : Canonical (tellInterim id s) := by
  unfold tellInterim; grind [engInterim_keeps, foldl_keeps, foldl_keeps_snd, Canonical.of_mk, Canonical.parts, FsKept.st, FsKept.after, FsKept.mk]

theorem putInQueue_keeps (it : Item) (s : State) (h_s : Canonical s) : Canonical (putInQueue it s) := by
  unfold putInQueue; grind [drainComb_keeps, State.onHome_keeps, respondMore_keeps, foldl_keeps, foldl_keeps_snd, Canonical.of_mk, Canonical.parts, FsKept.st, FsKept.after, FsKept.mk]

theorem enqueue_keeps (it : Item) (s : State) (h_s : Canonical s) : Canonical (enqueue it s) := by
  unfold enqueue; grind [tellInterim_keeps, pump_keeps, putInQueue_keeps, foldl_keeps, foldl_keeps_snd, Canonical.of_mk, Canonical.parts, FsKept.st, FsKept.after, FsKept.mk]

theorem admitted_keeps (it : Item) (s : State) (h_s : Canonical s) : Canonical (admitted it s) := by
  unfold admitted; grind [pump_keeps, serveWb_keeps, drainComb_keeps, finish_keeps, foldFirst_keeps, refuse_keeps, foldOrNot_keeps_fst, foldOrNot_keeps, enqueue_keeps, bump_keeps, foldl_keeps, foldl_keeps_snd, Canonical.of_mk, Canonical.parts, FsKept.st, FsKept.after, FsKept.mk]

theorem request_keeps (op : ℕ) (c : TxnReq) (syms : SymErr) (s : State) (h_s : Canonical s) : Canonical (request op c syms s) := by
  unfold request; grind [arrive_keeps, refuse_keeps, bump_keeps, weirAdmit_keeps, finish_keeps, partFail_keeps, admitted_keeps, foldl_keeps, foldl_keeps_snd, Canonical.of_mk, Canonical.parts, FsKept.st, FsKept.after, FsKept.mk]

theorem qnGroup_keeps (param : ℕ) (c : TxnReq) (s : State) (h_s : Canonical s) : Canonical (qnGroup param c s) := by
  unfold qnGroup; grind [request_keeps, foldl_keeps, foldl_keeps_snd, Canonical.of_mk, Canonical.parts, FsKept.st, FsKept.after, FsKept.mk]

theorem turns_keeps (n id : Nat) (s : State) (h : Canonical s) : Canonical (turns n id s) := by
  induction n generalizing s with
  | zero => exact h
  | succ n ih =>
    refine ih _ (OptKept.getD ?_ h)
    intro t e
    obtain ⟨y, _, e⟩ := Option.bind_eq_some_iff.mp e
    exact tryItem_keeps s y h t e

theorem atTurn_keeps (op : ℕ) (c : TxnReq) (syms : SymErr) (s : State) (n : ℕ) (h_s : Canonical s) : Canonical (atTurn op c syms s n).2 := by
  unfold atTurn; grind [reqIn_keeps, turns_keeps, putInQueue_keeps, foldl_keeps, foldl_keeps_snd, Canonical.of_mk, Canonical.parts, FsKept.st, FsKept.after, FsKept.mk]

theorem itemFault_keeps (node : ℕ) (tag : ℕ) (s : State) (h_s : Canonical s) : Canonical (itemFault node tag s) := by
  unfold itemFault; grind [pump_keeps, endItem_keeps, dropWork_keeps, foldl_keeps, foldl_keeps_snd, Canonical.of_mk, Canonical.parts, FsKept.st, FsKept.after, FsKept.mk]

theorem seedBays_keeps (s : State) (h_s : Canonical s) : Canonical (seedBays s) := by
  unfold seedBays; grind [drbgBytes_keeps, State.onCore_keeps, foldl_keeps, foldl_keeps_snd, Canonical.of_mk, Canonical.parts, FsKept.st, FsKept.after, FsKept.mk]

theorem beginStream_keeps (sid : ℕ) (s : State) (h_s : Canonical s) : Canonical (beginStream sid s) := by
  unfold beginStream; grind [setStream_keeps, seedBays_keeps, settlePump_keeps, State.onCore_keeps, foldl_keeps, foldl_keeps_snd, Canonical.of_mk, Canonical.parts, FsKept.st, FsKept.after, FsKept.mk]

theorem finalPlace_keeps (p : Nat) (m : Move) (s : State) (h : Canonical s) : ∀ x, finalPlace p m s = some x → Canonical x.2 := by
  unfold finalPlace
  extract_lets prt quota without found n comp
  have hw : ∀ s, Canonical s → Canonical (without s) := fun s hs => State.onStore_keeps _ _ rfl hs
  have hf : ∀ r, (∀ x, r = some x → Canonical x.2) → ∀ x, found r = some x → Canonical x.2 := by
    intro r hr x e
    obtain ⟨y, hy, rfl⟩ := Option.map_eq_some_iff.mp e
    exact hr y hy
  have hs : ∀ x, some (m, s) = some x → Canonical x.2 := by rintro _ ⟨⟩; exact h
  clear_value without found n comp
  split
  · split
    · exact hs
    · exact hf _ (t3Place_keeps _ _ _ _ (hw _ (freeT3_keeps _ _ h)))
  · split
    · split
      · exact hs
      · refine hf _ fun x e => ?_
        obtain ⟨y, _, rfl⟩ := Option.map_eq_some_iff.mp e
        exact hw _ h
    · exact hs

theorem branchTo_keeps (sid : ℕ) (i : Issued) (s : State) (h_s : Canonical s) : Canonical (branchTo sid i s) := by
  unfold branchTo; grind [completeWord_keeps, setStream_keeps, failWord_keeps, foldl_keeps, foldl_keeps_snd, Canonical.of_mk, Canonical.parts, FsKept.st, FsKept.after, FsKept.mk]

theorem allocated_keeps (it : Item) (line : ℕ) (ws : List (ℕ × List Byte)) (s : State) (h_s : Canonical s) : Canonical (allocated it line ws s).2 := by
  unfold allocated; grind [fetchLine_keeps, touchPage_keeps, allocFor_keeps, foldl_keeps, foldl_keeps_snd, Canonical.of_mk, Canonical.parts, FsKept.st, FsKept.after, FsKept.mk]

theorem setPart_keeps (n : ℕ) (f : Part → Part) (s : State) (h_s : Canonical s) : Canonical (setPart n f s) := by
  unfold setPart; grind [State.onSec_keeps, foldl_keeps, foldl_keeps_snd, Canonical.of_mk, Canonical.parts, FsKept.st, FsKept.after, FsKept.mk]

theorem setImg_keeps (k : ℕ) (f : ImgSlot → ImgSlot) (s : State) (h_s : Canonical s) : Canonical (setImg k f s) := by
  unfold setImg; grind [State.onNor_keeps, foldl_keeps, foldl_keeps_snd, Canonical.of_mk, Canonical.parts, FsKept.st, FsKept.after, FsKept.mk]

theorem permanentUnit_keeps (kind : ℕ) (unit : ℕ) (s : State) (h_s : Canonical s) : Canonical (permanentUnit kind unit s) := by
  unfold permanentUnit; grind [decideMapOut_keeps, retireUnit_keeps, foldl_keeps, foldl_keeps_snd, Canonical.of_mk, Canonical.parts, FsKept.st, FsKept.after, FsKept.mk]

theorem disableRow_keeps (e : SramError) (s : State) (h_s : Canonical s) : Canonical (disableRow e s) := by
  unfold disableRow; grind [unitEvent_keeps, State.onHome_keeps, setHist_keeps, decideMapOut_keeps, permanentUnit_keeps, foldl_keeps, foldl_keeps_snd, Canonical.of_mk, Canonical.parts, FsKept.st, FsKept.after, FsKept.mk]

theorem beforeReset_keeps (s : State) (h_s : Canonical s) : Canonical (beforeReset s) := by
  unfold beforeReset; grind [startFlush_keeps, emitClose_keeps, foldl_keeps, foldl_keeps_snd, Canonical.of_mk, Canonical.parts, FsKept.st, FsKept.after, FsKept.mk]

theorem restartOp_keeps (c : FsCmd) (kind : ℕ) (reset : State → State) (h_reset : ∀ x0, Canonical x0 → Canonical (reset x0)) : ∀ se s, Canonical s → FsKept ((restartOp c kind reset).body se s) := by
  unfold restartOp; grind [beforeReset_keeps, foldl_keeps, foldl_keeps_snd, Canonical.of_mk, Canonical.parts, FsKept.st, FsKept.after, FsKept.mk]

theorem stopStream_keeps (sid : ℕ) (status : ℕ) (cause : ℕ) (s : State) (h_s : Canonical s) : Canonical (stopStream sid status cause s) := by
  unfold stopStream; grind [setStream_keeps, foldl_keeps, foldl_keeps_snd, Canonical.of_mk, Canonical.parts, FsKept.st, FsKept.after, FsKept.mk]

theorem flushContext_keeps (n : ℕ) (s : State) (h_s : Canonical s) : Canonical (flushContext n s) := by
  unfold flushContext; grind [sendSnoop_keeps, setCtx_keeps, State.onHome_keeps, foldl_keeps, foldl_keeps_snd, Canonical.of_mk, Canonical.parts, FsKept.st, FsKept.after, FsKept.mk]

theorem abortHeld_keeps (n : ℕ) (s : State) (h_s : Canonical s) : Canonical (abortHeld n s) := by
  unfold abortHeld; grind [endItem_keeps, dropWork_keeps, foldl_keeps, foldl_keeps_snd, Canonical.of_mk, Canonical.parts, FsKept.st, FsKept.after, FsKept.mk]

theorem beginClose_keeps (n : ℕ) (reason : ℕ) (s : State) (h_s : Canonical s) : Canonical (beginClose n reason s) := by
  unfold beginClose; grind [dropAgent_keeps, abortHeld_keeps, pump_keeps, sendSeq_keeps, setCtx_keeps, foldl_keeps, foldl_keeps_snd, Canonical.of_mk, Canonical.parts, FsKept.st, FsKept.after, FsKept.mk]

theorem closeIdle_keeps (n : ℕ) (s : State) (h_s : Canonical s) : Canonical (closeIdle n s) := by
  unfold closeIdle; grind [flushContext_keeps, beginClose_keeps, foldl_keeps, foldl_keeps_snd, Canonical.of_mk, Canonical.parts, FsKept.st, FsKept.after, FsKept.mk]

theorem closeFsession_keeps (id : ℕ) (s : State) (h_s : Canonical s) : Canonical (closeFsession id s) := by
  unfold closeFsession; grind [State.onSec_keeps, foldl_keeps, foldl_keeps_snd, Canonical.of_mk, Canonical.parts, FsKept.st, FsKept.after, FsKept.mk]

theorem fenceNode_keeps (n : ℕ) (s : State) (h_s : Canonical s) : Canonical (fenceNode n s) := by
  unfold fenceNode; grind [State.onMach_keeps, bump_keeps, fenceSets_keeps, losePeer_keeps, pump_keeps, event_keeps, foldl_keeps, foldl_keeps_snd, Canonical.of_mk, Canonical.parts, FsKept.st, FsKept.after, FsKept.mk]

theorem throttleStep_keeps (s : State) (h_s : Canonical s) : Canonical (throttleStep s) := by
  unfold throttleStep
  repeat' (first | extract_lets | split)
  all_goals grind [State.onPwr_keeps, foldl_keeps, foldl_keeps_snd, Canonical.of_mk, Canonical.parts, FsKept.st, FsKept.after, FsKept.mk]

theorem closeNow_keeps (n : ℕ) (s : State) (h_s : Canonical s) : Canonical (closeNow n s) := by
  unfold closeNow; grind [pump_keeps, freeCtx_keeps, ownAllDead_keeps, dropAgent_keeps, abortHeld_keeps, foldl_keeps, foldl_keeps_snd, Canonical.of_mk, Canonical.parts, FsKept.st, FsKept.after, FsKept.mk]

theorem closeBootstrap_keeps (n : ℕ) (s : State) (h_s : Canonical s) : Canonical (closeBootstrap n s) := by
  unfold closeBootstrap; grind [freeVal_keeps, beginClose_keeps, closeNow_keeps, emitClose_keeps, foldl_keeps, foldl_keeps_snd, Canonical.of_mk, Canonical.parts, FsKept.st, FsKept.after, FsKept.mk]

theorem sendPlain_keeps (n : ℕ) (plane : ℕ) (sacks : List (ℕ × ℕ)) (rcd : Rec) (s : State) (h_s : Canonical s) : Canonical (sendPlain n plane sacks rcd s) := by
  unfold sendPlain; grind [acked_keeps, emit_keeps, foldl_keeps, foldl_keeps_snd, Canonical.of_mk, Canonical.parts, FsKept.st, FsKept.after, FsKept.mk]

theorem sendAck_keeps (n : ℕ) (s : State) (h_s : Canonical s) : Canonical (sendAck n s) := by
  unfold sendAck; grind [sendPlain_keeps, foldl_keeps, foldl_keeps_snd, Canonical.of_mk, Canonical.parts, FsKept.st, FsKept.after, FsKept.mk]

theorem tick_keeps (s : State) (h_s : Canonical s) : Canonical (tick s) := by
  unfold tick; grind [State.onPwr_keeps, State.onKt_keeps, foldl_keeps, foldl_keeps_snd, Canonical.of_mk, Canonical.parts, FsKept.st, FsKept.after, FsKept.mk]

theorem markSuspect_keeps (kind : ℕ) (unit : ℕ) (s : State) (h_s : Canonical s) : Canonical (markSuspect kind unit s) := by
  unfold markSuspect; grind [unitEvent_keeps, noteBoot_keeps, setHealth_keeps, foldl_keeps, foldl_keeps_snd, Canonical.of_mk, Canonical.parts, FsKept.st, FsKept.after, FsKept.mk]

theorem applyAck_keeps (n : ℕ) (ack : ℕ) (rwnd : ℕ) (delay : ℕ) (sacks : List (ℕ × ℕ)) (s : State) (h_s : Canonical s) : Canonical (applyAck n ack rwnd delay sacks s) := by
  unfold applyAck; grind [setCtx_keeps, flushCtx_keeps, flushAll_keeps, foldl_keeps, foldl_keeps_snd, Canonical.of_mk, Canonical.parts, FsKept.st, FsKept.after, FsKept.mk]

theorem askMember_keeps (i : ℕ) (n : ℕ) (op : ℕ) (param : ℕ) (w : ℕ) (payload : List Byte) (s : State) (h_s : Canonical s) : Canonical (askMember i n op param w payload s).2 := by
  unfold askMember; grind [setSet_keeps, ownRequestFor_keeps, foldl_keeps, foldl_keeps_snd, Canonical.of_mk, Canonical.parts, FsKept.st, FsKept.after, FsKept.mk]

theorem putUnit_keeps (i : ℕ) (n : ℕ) (u : ℕ) (bs : List Byte) (s : State) (h_s : Canonical s) : Canonical (putUnit i n u bs s) := by
  unfold putUnit; grind [askMember_keeps, foldl_keeps, foldl_keeps_snd, Canonical.of_mk, Canonical.parts, FsKept.st, FsKept.after, FsKept.mk]

theorem answerRec_keeps (n : ℕ) (st : ℕ) (r : Deliv) (s : State) (h_s : Canonical s) : Canonical (answerRec n st r s) := by
  unfold answerRec; grind [sendRec_keeps, foldl_keeps, foldl_keeps_snd, Canonical.of_mk, Canonical.parts, FsKept.st, FsKept.after, FsKept.mk]

theorem takeRec_keeps (n : ℕ) (r : Deliv) (s : State) (h_s : Canonical s) : Canonical (takeRec n r s) := by
  unfold takeRec; grind [bump_keeps, answerRec_keeps, unknownFop_keeps, setCtx_keeps, foldl_keeps, foldl_keeps_snd, Canonical.of_mk, Canonical.parts, FsKept.st, FsKept.after, FsKept.mk]

theorem releaseParked_keeps (n : ℕ) (s : State) (h_s : Canonical s) : Canonical (releaseParked n s) := by
  unfold releaseParked; grind [takeRec_keeps, setCtx_keeps, foldl_keeps, foldl_keeps_snd, Canonical.of_mk, Canonical.parts, FsKept.st, FsKept.after, FsKept.mk]

theorem drawKey_keeps (s : State) (h_s : Canonical s) : Canonical (drawKey s).2 := by
  unfold drawKey; grind [drbgBytes_keeps, foldl_keeps, foldl_keeps_snd, Canonical.of_mk, Canonical.parts, FsKept.st, FsKept.after, FsKept.mk]

theorem readRail_keeps (i : ℕ) (x : Option ℕ) (s : State) (h_s : Canonical s) : Canonical (readRail i x s) := by
  unfold readRail; grind [State.onPwr_keeps, foldl_keeps, foldl_keeps_snd, Canonical.of_mk, Canonical.parts, FsKept.st, FsKept.after, FsKept.mk]

theorem rangeCheck_keeps (q : ℕ) (s : State) (h_s : Canonical s) : Canonical (rangeCheck q s) := by
  unfold rangeCheck; grind [setRail_keeps, event_keeps, foldl_keeps, foldl_keeps_snd, Canonical.of_mk, Canonical.parts, FsKept.st, FsKept.after, FsKept.mk]

theorem sweepLate_keeps (line : ℕ) (s : State) (h_s : Canonical s) : Canonical (sweepLate line s) := by
  unfold sweepLate; grind [event_keeps, bump_keeps, poisonLine_keeps, endTxn_keeps, setDir_keeps, foldl_keeps, foldl_keeps_snd, Canonical.of_mk, Canonical.parts, FsKept.st, FsKept.after, FsKept.mk]

theorem sessionFail_keeps (n : ℕ) (s : State) (h_s : Canonical s) : Canonical (sessionFail n s) := by
  unfold sessionFail; grind [event_keeps, bump_keeps, foldl_keeps, foldl_keeps_snd, Canonical.of_mk, Canonical.parts, FsKept.st, FsKept.after, FsKept.mk]

theorem pickSession_keeps (s : State) (h_s : Canonical s) : Canonical (pickSession s).2 := by
  unfold pickSession; grind [drbgBytes_keeps, foldl_keeps, foldl_keeps_snd, Canonical.of_mk, Canonical.parts, FsKept.st, FsKept.after, FsKept.mk]

theorem newCtx_keeps (n : ℕ) (c : Ctx) (s : State) (h_s : Canonical s) : Canonical (newCtx n c s) := by
  unfold newCtx; grind [bump_keeps, State.onKt_keeps, sendRec_keeps, foldl_keeps, foldl_keeps_snd, Canonical.of_mk, Canonical.parts, FsKept.st, FsKept.after, FsKept.mk]

theorem acceptOpen_keeps (r : SessRec) (s1 : State) (h_s1 : Canonical s1) : Canonical (acceptOpen r s1) := by
  unfold acceptOpen; grind [sessionFail_keeps, pickSession_keeps, drbgBytes_keeps, newCtx_keeps, emitOpenFrame_keeps, foldl_keeps, foldl_keeps_snd, Canonical.of_mk, Canonical.parts, FsKept.st, FsKept.after, FsKept.mk]

theorem answerOpen_keeps (r : SessRec) (status : ℕ) (s : State) (h_s : Canonical s) : Canonical (answerOpen r status s) := by
  unfold answerOpen; grind [emitOpenFrame_keeps, foldl_keeps, foldl_keeps_snd, Canonical.of_mk, Canonical.parts, FsKept.st, FsKept.after, FsKept.mk]

theorem qnExec_keeps (op : ℕ) (c : TxnReq) (s : State) (h_s : Canonical s) : Canonical (qnExec op c s) := by
  unfold qnExec; grind [request_keeps, foldl_keeps, foldl_keeps_snd, Canonical.of_mk, Canonical.parts, FsKept.st, FsKept.after, FsKept.mk]

theorem faultNow_keeps (j : Inject) (s : State) (h_s : Canonical s) : Canonical (faultNow j s) := by
  unfold faultNow; grind [countEvent_keeps, leavePlane_keeps, setLink_keeps, setIsland_keeps, tokenAfterIsland_keeps, reopened_keeps, foldl_keeps, foldl_keeps_snd, Canonical.of_mk, Canonical.parts, FsKept.st, FsKept.after, FsKept.mk]

theorem setExtent_keeps (e : ℕ) (f : Extent → Extent) (s : State) (h_s : Canonical s) : Canonical (setExtent e f s) := by
  unfold setExtent; grind [State.onSec_keeps, foldl_keeps, foldl_keeps_snd, Canonical.of_mk, Canonical.parts, FsKept.st, FsKept.after, FsKept.mk]

theorem takeExtents_keeps (es : List ℕ) (s : State) (h_s : Canonical s) : Canonical (takeExtents es s) := by
  unfold takeExtents; grind [setExtent_keeps, bumpBy_keeps, abandonGroups_keeps, abandonStep_keeps, setSet_keeps, pump_keeps, refreshSets_keeps, foldl_keeps, foldl_keeps_snd, Canonical.of_mk, Canonical.parts, FsKept.st, FsKept.after, FsKept.mk]

theorem disablePart_keeps (n : ℕ) (s : State) (h_s : Canonical s) : Canonical (disablePart n s) := by
  unfold disablePart; grind [endQueued_keeps, settle_keeps, stopStream_keeps, takeExtents_keeps, setPart_keeps, foldl_keeps, foldl_keeps_snd, Canonical.of_mk, Canonical.parts, FsKept.st, FsKept.after, FsKept.mk]

theorem portOff_keeps (s : State) (p : ℕ) (h_s : Canonical s) : Canonical (portOff s p) := by
  unfold portOff; grind [setLink_keeps, lanesOff_keeps, foldl_keeps, foldl_keeps_snd, Canonical.of_mk, Canonical.parts, FsKept.st, FsKept.after, FsKept.mk]

theorem releaseStep_keeps (tab : ℕ) (s : State) (h_s : Canonical s) : Canonical (releaseStep tab s) := by
  unfold releaseStep; grind [State.onEng_keeps, bump_keeps, foldl_keeps, foldl_keeps_snd, Canonical.of_mk, Canonical.parts, FsKept.st, FsKept.after, FsKept.mk]

theorem freeSource_keeps (e : PageEnt) (s : State) (h_s : Canonical s) : Canonical (freeSource e s) := by
  unfold freeSource; grind [freeT3_keeps, foldl_keeps, foldl_keeps_snd, Canonical.of_mk, Canonical.parts, FsKept.st, FsKept.after, FsKept.mk]

theorem dropPage_keeps (p : ℕ) (s : State) (h_s : Canonical s) : Canonical (dropPage p s) := by
  unfold dropPage; grind [abandonMove_keeps, State.onStore_keeps, freeSource_keeps, eraseRange_keeps, editPage_keeps, foldl_keeps, foldl_keeps_snd, Canonical.of_mk, Canonical.parts, FsKept.st, FsKept.after, FsKept.mk]

theorem freeGrantsAt_keeps (e : ℕ) (s : State) (h_s : Canonical s) : Canonical (freeGrantsAt e s) := by
  unfold freeGrantsAt; grind [State.onSec_keeps, foldl_keeps, foldl_keeps_snd, Canonical.of_mk, Canonical.parts, FsKept.st, FsKept.after, FsKept.mk]

theorem closeAcked_keeps (n : ℕ) (s : State) (h_s : Canonical s) : Canonical (closeAcked n s) := by
  unfold closeAcked; grind [closeNow_keeps, foldl_keeps, foldl_keeps_snd, Canonical.of_mk, Canonical.parts, FsKept.st, FsKept.after, FsKept.mk]

theorem holdOwn_keeps (i lo hi v : Nat) (s : State) (h : Canonical s) : Canonical (holdOwn i lo hi v s).2 := by
  unfold holdOwn
  extract_lets line off w
  cases e : engReady w [] [off / 64] s with
  | wait o => exact OptKept.getD (engReady_wait_kept e h) h
  | bad k t => exact engReady_bad_kept e h
  | ready =>
    have k := engPut_keeps (slotPart s i) w [(off, line)] s h
    generalize engPut (slotPart s i) w [(off, line)] s = x at k
    obtain ⟨a, fw, s1⟩ := x
    cases a with
    | zero => exact applyControl_keeps _ _ _ k
    | succ n => exact h

theorem holdAll_keeps (i : ℕ) (lo : ℕ) (hi : ℕ) (valid : ℕ → ℕ) (s : State) (h_s : Canonical s) : Canonical (holdAll i lo hi valid s) := by
  unfold holdAll; grind [askMember_keeps, foldl_keeps, foldl_keeps_snd, Canonical.of_mk, Canonical.parts, FsKept.st, FsKept.after, FsKept.mk]

theorem getUnit_keeps (i : ℕ) (p : ℕ) (k : ℕ) (u : ℕ) (s : State) (h_s : Canonical s) : Canonical (getUnit i p k u s) := by
  unfold getUnit; grind [askMember_keeps, setSet_keeps, foldl_keeps, foldl_keeps_snd, Canonical.of_mk, Canonical.parts, FsKept.st, FsKept.after, FsKept.mk]

theorem readOwn_keeps (syms : SymErr) (ls : List Nat) (s : State) (h : Canonical s) : Canonical (readOwn syms ls s).2 := by
  cases ls with
  | nil => exact h
  | cons l ls => exact engAccess_keeps _ _ _ (accessLine_keeps _ _ _ h)

theorem batchWrite_keeps (i b e : Nat) (lost : List Nat) (syms : SymErr) (s : State) (h : Canonical s) : Canonical (batchWrite i b e lost syms s) := by
  unfold batchWrite
  extract_lets t w0 own mine w
  split
  · exact OptKept.getD (engReady_wait_kept ‹_› h) h
  · exact setSet_keeps _ _ _ (engReady_bad_kept ‹_› h)
  · split
    next e =>
    have h1 : Canonical _ := Canonical.of_pair e (by split <;> [exact h; exact readOwn_keeps _ _ _ h])
    refine ite_keeps (setSet_keeps _ _ _ h1) (foldl_keeps _ _ _ (fun s u hs => foldl_keeps _ _ _ (fun s x hs => ?_) hs) (setSet_keeps _ _ _ h1))
    exact ite_keeps (engPut_keeps _ _ _ _ hs) (putUnit_keeps _ _ _ _ _ hs)

theorem batchDone_keeps (i : ℕ) (b : ℕ) (e : ℕ) (s : State) (h_s : Canonical s) : Canonical (batchDone i b e s) := by
  unfold batchDone; grind [bumpBy_keeps, refreshSets_keeps, setSet_keeps, foldl_keeps, foldl_keeps_snd, Canonical.of_mk, Canonical.parts, FsKept.st, FsKept.after, FsKept.mk]

theorem furlAdvance_keeps (s : State) (h_s : Canonical s) : Canonical (furlAdvance s) := by
  unfold furlAdvance; grind [State.onPwr_keeps, pump_keeps, drainComb_keeps, startFlush_keeps, State.onEng_keeps, portOff_keeps, applyRails_keeps, leavePlane_keeps, foldl_keeps, foldl_keeps_snd, Canonical.of_mk, Canonical.parts, FsKept.st, FsKept.after, FsKept.mk]

theorem deliverRx_keeps (n : ℕ) (f : RxFrame) (s : State) (h_s : Canonical s) : Canonical (deliverRx n f s) := by
  unfold deliverRx; grind [bump_keeps, setCtx_keeps, takeRec_keeps, foldl_keeps, foldl_keeps_snd, Canonical.of_mk, Canonical.parts, FsKept.st, FsKept.after, FsKept.mk]

theorem freeBytes_keeps (n : ℕ) (s : State) (h_s : Canonical s) : Canonical (freeBytes n s).2 := by
  unfold freeBytes; grind [foldl_keeps, foldl_keeps_snd, Canonical.of_mk, Canonical.parts, FsKept.st, FsKept.after, FsKept.mk]

theorem loadLinesDead_keeps (it : Item) (s : State) (h_s : Canonical s) : Canonical (loadLinesDead it s) := by
  unfold loadLinesDead; grind [respondMore_keeps, endItem_keeps, foldl_keeps, foldl_keeps_snd, Canonical.of_mk, Canonical.parts, FsKept.st, FsKept.after, FsKept.mk]

theorem itemDead_keeps (it : Item) (s : State) (h_s : Canonical s) : Canonical (itemDead it s) := by
  unfold itemDead; grind [event_keeps, dropWork_keeps, pump_keeps, loadLinesDead_keeps, endItem_keeps, foldl_keeps, foldl_keeps_snd, Canonical.of_mk, Canonical.parts, FsKept.st, FsKept.after, FsKept.mk]

theorem noteFec_keeps (k : EvKind) (unit : ℕ) (reading : ℕ) (s : State) (h_s : Canonical s) : Canonical (noteFec k unit reading s) := by
  unfold noteFec; grind [setUnitH_keeps, bumpBy_keeps, event_keeps, foldl_keeps, foldl_keeps_snd, Canonical.of_mk, Canonical.parts, FsKept.st, FsKept.after, FsKept.mk]

theorem resetWindow_keeps (k : EvKind) (key : ℕ) (suspect : Bool) (s : State) (h_s : Canonical s) : Canonical (resetWindow k key suspect s) := by
  unfold resetWindow; grind [setUnitH_keeps, foldl_keeps, foldl_keeps_snd, Canonical.of_mk, Canonical.parts, FsKept.st, FsKept.after, FsKept.mk]

theorem markErased_keeps (kind : ℕ) (unit : ℕ) (s : State) (h_s : Canonical s) : Canonical (markErased kind unit s) := by
  unfold markErased; grind [unitEvent_keeps, setHist_keeps, foldl_keeps, foldl_keeps_snd, Canonical.of_mk, Canonical.parts, FsKept.st, FsKept.after, FsKept.mk]

theorem dryDecision_keeps (code : ℕ) (kind : ℕ) (unit : ℕ) (s : State) (h_s : Canonical s) : Canonical (dryDecision code kind unit s) := by
  unfold dryDecision; grind [hlogWrite_keeps, foldl_keeps, foldl_keeps_snd, Canonical.of_mk, Canonical.parts, FsKept.st, FsKept.after, FsKept.mk]

theorem takeRate_keeps (kind : ℕ) (unit : ℕ) (i : ℕ) (s : State) (h_s : Canonical s) : Canonical (takeRate kind unit i s) := by
  unfold takeRate; grind [unitEvent_keeps, bump_keeps, noteBoot_keeps, setIsland_keeps, foldl_keeps, foldl_keeps_snd, Canonical.of_mk, Canonical.parts, FsKept.st, FsKept.after, FsKept.mk]

theorem decideSuspect_keeps (kind : ℕ) (unit : ℕ) (window : ℕ) (perm : Bool) (inj : Bool) (s : State) (h_s : Canonical s) : Canonical (decideSuspect kind unit window perm inj s) := by
  unfold decideSuspect; grind [dryDecision_keeps, markSuspect_keeps, takeVstep_keeps, takeRate_keeps, permanentUnit_keeps, foldl_keeps, foldl_keeps_snd, Canonical.of_mk, Canonical.parts, FsKept.st, FsKept.after, FsKept.mk]

theorem leaveSuspect_keeps (kind : ℕ) (unit : ℕ) (s : State) (h_s : Canonical s) : Canonical (leaveSuspect kind unit s) := by
  unfold leaveSuspect; grind [setHealth_keeps, hlogWrite_keeps, foldl_keeps, foldl_keeps_snd, Canonical.of_mk, Canonical.parts, FsKept.st, FsKept.after, FsKept.mk]

theorem ackRx_keeps (n : ℕ) (gap : Bool) (s : State) (h_s : Canonical s) : Canonical (ackRx n gap s) := by
  unfold ackRx; grind [sendPlain_keeps, sendAck_keeps, foldl_keeps, foldl_keeps_snd, Canonical.of_mk, Canonical.parts, FsKept.st, FsKept.after, FsKept.mk]

theorem fsBefore_keeps (c : FsCmd) (s : State) (h_s : Canonical s) : Canonical (fsBefore c s) := by
  unfold fsBefore; grind [setFsession_keeps, takeFelset_keeps, foldl_keeps, foldl_keeps_snd, Canonical.of_mk, Canonical.parts, FsKept.st, FsKept.after, FsKept.mk]

theorem hsStep_keeps (param : ℕ) (c : TxnReq) (s : State) (h_s : Canonical s) : Canonical (hsStep param c s) := by
  unfold hsStep; grind [request_keeps, foldl_keeps, foldl_keeps_snd, Canonical.of_mk, Canonical.parts, FsKept.st, FsKept.after, FsKept.mk]

theorem heardFrom_keeps (n : ℕ) (s : State) (h_s : Canonical s) : Canonical (heardFrom n s) := by
  unfold heardFrom; grind [setCtx_keeps, foldl_keeps, foldl_keeps_snd, Canonical.of_mk, Canonical.parts, FsKept.st, FsKept.after, FsKept.mk]

theorem unqueue_keeps (q : ℕ) (r : MoveReq) (s : State) (h_s : Canonical s) : Canonical (unqueue q r s) := by
  unfold unqueue; grind [State.onStore_keeps, foldl_keeps, foldl_keeps_snd, Canonical.of_mk, Canonical.parts, FsKept.st, FsKept.after, FsKept.mk]

theorem startFirst_kept (q : Nat) (rs : List MoveReq) (s : State) (h : Canonical s) : OptKept (startFirst q rs s) := by
  induction rs generalizing s with
  | nil => unfold startFirst; exact OptKept.of_none
  | cons r rs ih =>
    unfold startFirst
    extract_lets s0
    have h0 : Canonical s0 := unqueue_keeps _ _ _ h
    split
    · next e => exact OptKept.of_some (Canonical.of_pair e (startMove_keeps _ _ _ h0))
    · exact ih s h

theorem startFirst_keeps (q : ℕ) (y1 : List MoveReq) (y2 : State) (h_y2 : Canonical y2) : ∀ t, startFirst q y1 y2 = some t → Canonical t := startFirst_kept q y1 y2 h_y2

theorem noteRx_keeps (n : ℕ) (seq : ℕ) (s : State) (h_s : Canonical s) : Canonical (noteRx n seq s) := by
  unfold noteRx; grind [setCtx_keeps, foldl_keeps, foldl_keeps_snd, Canonical.of_mk, Canonical.parts, FsKept.st, FsKept.after, FsKept.mk]

theorem forgetCopies_keeps (n : ℕ) (s : State) (h_s : Canonical s) : Canonical (forgetCopies n s) := by
  unfold forgetCopies; grind [freeDir_keeps, dropSharer_keeps, foldl_keeps, foldl_keeps_snd, Canonical.of_mk, Canonical.parts, FsKept.st, FsKept.after, FsKept.mk]

theorem relocate_keeps (q : ℕ) (k : ℕ) (s : State) (h_s : Canonical s) : Canonical (relocate q k s) := by
  unfold relocate; grind [setMillpond_keeps, foldl_keeps, foldl_keeps_snd, Canonical.of_mk, Canonical.parts, FsKept.st, FsKept.after, FsKept.mk]

theorem closeRows_keeps (n tab : Nat) (s : State) (h : Canonical s) : Canonical (closeRows n tab s) := by
  induction n generalizing s with
  | zero => unfold closeRows; exact h
  | succ n ih =>
    unfold closeRows
    generalize hstep s tab = hh
    dsimp only
    split
    · exact h
    · next key r rest _ =>
      generalize hh.tables = x
      generalize ht : (if key % 2 = 0 then x.t else x.p.getD x.t) = t
      clear ht
      generalize he : t.rowLines (key / 2) ++ _ = lines
      clear he
      generalize hw : SetWrite.mk _ _ _ _ _ _ _ _ = w
      clear hw
      split
      · exact OptKept.getD (engReady_wait_kept ‹_› h) h
      · exact setHstep_keeps _ _ _ (engReady_bad_kept ‹_› h)
      · have h1 := engAccess_keeps w lines s h
        generalize engAccess w lines s = y at h1 ⊢
        obtain ⟨bad, s1⟩ := y
        dsimp only at h1 ⊢
        split
        · exact ih _ (setHstep_keeps _ _ _ (setHstep_keeps _ _ _ (foldl_keeps _ _ _ (fun s l hs => poisonLine_keeps _ _ _ _ hs) h1)))
        · generalize he : optimize _ _ _ _ _ = ws
          clear he
          have h2 := engPut_keeps hh.part w ws { s1 with free := s1.free + 8 * t.dim } (Canonical.of_mk h1.parts)
          generalize engPut hh.part w ws { s1 with free := s1.free + 8 * t.dim } = z at h2 ⊢
          obtain ⟨a, fw, s2⟩ := z
          refine ite_keeps (setHstep_keeps _ _ _ h1) (ih _ (setHstep_keeps _ _ _ (setHstep_keeps _ _ _ (bump_keeps _ _ ?_))))
          split
          · exact addForwards_keeps _ _ _ h2
          · exact h2

theorem closeStep_keeps (tab : ℕ) (s : State) (h_s : Canonical s) : Canonical (closeStep tab s) := by
  unfold closeStep; grind [endItem_keeps, nextStep_keeps, bump_keeps, closeRows_keeps, endWrite_keeps, foldl_keeps, foldl_keeps_snd, Canonical.of_mk, Canonical.parts, FsKept.st, FsKept.after, FsKept.mk]

theorem streamFault_keeps (sid : ℕ) (s : State) (h_s : Canonical s) : Canonical (streamFault sid s) := by
  unfold streamFault; grind [settle_keeps, stopStream_keeps, foldl_keeps, foldl_keeps_snd, Canonical.of_mk, Canonical.parts, FsKept.st, FsKept.after, FsKept.mk]

theorem loseNovva_keeps (s : State) (h_s : Canonical s) : Canonical (loseNovva s) := by
  unfold loseNovva; grind [unitEvent_keeps, State.onSec_keeps, foldl_keeps, foldl_keeps_snd, Canonical.of_mk, Canonical.parts, FsKept.st, FsKept.after, FsKept.mk]

theorem sramOutcome_keeps (e : SramError) (inj : Bool) (s : State) (h_s : Canonical s) : Canonical (sramOutcome e inj s) := by
  unfold sramOutcome; grind [streamFault_keeps, poisonLine_keeps, lcDrop_keeps, State.onHome_keeps, pump_keeps, startFlush_keeps, State.onStore_keeps, closeNow_keeps, emitClose_keeps, State.onEng_keeps, setHstep_keeps, itemFault_keeps, loseNovva_keeps, foldl_keeps, foldl_keeps_snd, Canonical.of_mk, Canonical.parts, FsKept.st, FsKept.after, FsKept.mk]

theorem acceptRx_keeps (n : ℕ) (f : RxFrame) (s : State) (h_s : Canonical s) : Canonical (acceptRx n f s) := by
  unfold acceptRx; grind [closeAcked_keeps, applyAck_keeps, takeRec_keeps, bump_keeps, noteRx_keeps, ackRx_keeps, releaseParked_keeps, deliverRx_keeps, foldl_keeps, foldl_keeps_snd, Canonical.of_mk, Canonical.parts, FsKept.st, FsKept.after, FsKept.mk]

theorem endInjections_keeps (s : State) (h_s : Canonical s) : Canonical (endInjections s) := by
  unfold endInjections; grind [hlogWrite_keeps, foldl_keeps, foldl_keeps_snd, Canonical.of_mk, Canonical.parts, FsKept.st, FsKept.after, FsKept.mk]

theorem readDesc_keeps (n a : Nat) (s : State) (h : Canonical s) : FsKept (readDesc n a s).2 := by
  unfold readDesc
  extract_lets line t3 late
  clear_value late
  cases e : engReady noWrite [line] [] s with
  | wait o =>
    have ho : Canonical (o.getD s) := OptKept.getD (engReady_wait_kept e h) h
    dsimp only
    split
    · exact fsFail_keeps _ _ h
    · exact ⟨ite_keeps (beginT3_keeps _ _ ho) ho, fun s hs => hs⟩
  | bad k t => exact fsFail_keeps _ _ (engReady_bad_kept e h)
  | ready =>
    have h1 := engAccess_keeps noWrite [line] s h
    dsimp only
    split
    · exact fsOk_keeps _ _ h1
    · exact fsFail_keeps _ _ (poisonConsumed_keeps _ _ _ _ h1)

theorem admitChecks_keeps (n : ℕ) (d : List Byte) (s : State) (h_s : Canonical s) : FsKept (admitChecks n d s) := by
  unfold admitChecks; grind [fsFail_keeps, admitStream_keeps, fsOk_keeps, foldl_keeps, foldl_keeps_snd, Canonical.of_mk, Canonical.parts, FsKept.st, FsKept.after, FsKept.mk]

theorem runStreamBody_keeps (c : FsCmd) (s : State) (h : Canonical s) : FsKept (runStreamBody c s) := by
  unfold runStreamBody
  extract_lets n a mine
  split
  · exact fsFail_keeps _ _ h
  · split
    · exact fsFail_keeps _ _ h
    · split
      next d r e =>
      have hr : FsKept r := by have k := readDesc_keeps n a s h; rw [e] at k; exact k
      split
      · exact hr
      · split
        · exact fsBad_keeps _ _ hr.st
        · exact admitChecks_keeps _ _ _ hr.st

theorem mmEffect_keeps (sid : ℕ) (i : Issued) (s : State) (h_s : Canonical s) : Canonical (mmEffect sid i s) := by
  unfold mmEffect; grind [failWord_keeps, setStream_keeps, drawn_keeps, foldl_keeps, foldl_keeps_snd, Canonical.of_mk, Canonical.parts, FsKept.st, FsKept.after, FsKept.mk]

theorem bufDrop_keeps (line : ℕ) (s : State) (h_s : Canonical s) : Canonical (bufDrop line s) := by
  unfold bufDrop; grind [State.onEng_keeps, foldl_keeps, foldl_keeps_snd, Canonical.of_mk, Canonical.parts, FsKept.st, FsKept.after, FsKept.mk]

theorem bayEffect_keeps (sid : ℕ) (i : Issued) (s : State) (h_s : Canonical s) : Canonical (bayEffect sid i s) := by
  unfold bayEffect; grind [failWord_keeps, setStream_keeps, foldl_keeps, foldl_keeps_snd, Canonical.of_mk, Canonical.parts, FsKept.st, FsKept.after, FsKept.mk]

theorem cutItem_keeps (it : Item) (s : State) (h_s : Canonical s) : Canonical (cutItem it s) := by
  unfold cutItem; grind [pump_keeps, updateItem_keeps, foldl_keeps, foldl_keeps_snd, Canonical.of_mk, Canonical.parts, FsKept.st, FsKept.after, FsKept.mk]

theorem powerUpReset_keeps (cause : ℕ) (b : Board) (s : State) (h_s : Canonical s) : Canonical (powerUpReset cause b s) := by
  unfold powerUpReset; grind [blank_keeps, endInjections_keeps, State.onNor_keeps, State.onPwr_keeps, foldl_keeps, foldl_keeps_snd, Canonical.of_mk, Canonical.parts, FsKept.st, FsKept.after, FsKept.mk]

theorem switchMove_keeps (p : ℕ) (m : Move) (s : State) (h_s : Canonical s) : Canonical (switchMove p m s) := by
  unfold switchMove; grind [freeSource_keeps, editPage_keeps, bump_keeps, State.onStore_keeps, foldl_keeps, foldl_keeps_snd, Canonical.of_mk, Canonical.parts, FsKept.st, FsKept.after, FsKept.mk]

theorem notePn_keeps (n : ℕ) (f : RxFrame) (s : State) (h_s : Canonical s) : Canonical (notePn n f s) := by
  unfold notePn; grind [setCtx_keeps, foldl_keeps, foldl_keeps_snd, Canonical.of_mk, Canonical.parts, FsKept.st, FsKept.after, FsKept.mk]

theorem boundaryLost_keeps (i : ℕ) (s : State) (h_s : Canonical s) : Canonical (boundaryLost i s) := by
  unfold boundaryLost; grind [setIsland_keeps, State.onHome_keeps, crossReads_keeps, endReads_keeps, foldl_keeps, foldl_keeps_snd, Canonical.of_mk, Canonical.parts, FsKept.st, FsKept.after, FsKept.mk]

theorem takePromo_keeps (q : ℕ) (p : ℕ) (s : State) (h_s : Canonical s) : ∀ t, takePromo q p s = some t → Canonical t := by
  unfold takePromo; grind [State.onStore_keeps, startMove_keeps, foldl_keeps, foldl_keeps_snd, Canonical.of_mk, Canonical.parts, FsKept.st, FsKept.after, FsKept.mk]

theorem dropStuck_keeps (q : ℕ) (s : State) (h_s : Canonical s) : Canonical (dropStuck q s) := by
  unfold dropStuck; grind [State.onStore_keeps, foldl_keeps, foldl_keeps_snd, Canonical.of_mk, Canonical.parts, FsKept.st, FsKept.after, FsKept.mk]

theorem armedFailures_keeps (kind : ℕ) (unit : ℕ) (transient : ℕ) (persistent : ℕ) (failures : ℕ) (s : State) (h_s : Canonical s) : Canonical (armedFailures kind unit transient persistent failures s).2.2 := by
  unfold armedFailures; grind [takeArmed_keeps, foldl_keeps, foldl_keeps_snd, Canonical.of_mk, Canonical.parts, FsKept.st, FsKept.after, FsKept.mk]

theorem fsOpenBody_keeps (c : FsCmd) (s : State) (h_s : Canonical s) : FsKept (fsOpenBody c s) := by
  unfold fsOpenBody
  repeat' (first | extract_lets | split)
  all_goals grind [fsFail_keeps, setCtx_keeps, drbgBytes_keeps, fsOk_keeps, setFsession_keeps, foldl_keeps, foldl_keeps_snd, Canonical.of_mk, Canonical.parts, FsKept.st, FsKept.after, FsKept.mk]

theorem reportSilent_keeps (n : ℕ) (s : State) (h_s : Canonical s) : Canonical (reportSilent n s) := by
  unfold reportSilent; grind [setCtx_keeps, bump_keeps, event_keeps, fenceNode_keeps, foldl_keeps, foldl_keeps_snd, Canonical.of_mk, Canonical.parts, FsKept.st, FsKept.after, FsKept.mk]

theorem silentTimeout_keeps (n : ℕ) (s : State) (h_s : Canonical s) : Canonical (silentTimeout n s) := by
  unfold silentTimeout; grind [closeNow_keeps, reportSilent_keeps, sendHeld_keeps, foldl_keeps, foldl_keeps_snd, Canonical.of_mk, Canonical.parts, FsKept.st, FsKept.after, FsKept.mk]

theorem timeout_keeps (node : ℕ) (h : Held) (s : State) (h_s : Canonical s) : Canonical (timeout node h s) := by
  unfold timeout; grind [setCtx_keeps, sendHeld_keeps, planeSwitch_keeps, silentTimeout_keeps, foldl_keeps, foldl_keeps_snd, Canonical.of_mk, Canonical.parts, FsKept.st, FsKept.after, FsKept.mk]

theorem frameRx_keeps (f : RxFrame) (s : State) (h_s : Canonical s) : Canonical (frameRx f s) := by
  unfold frameRx; grind [notePn_keeps, event_keeps, bump_keeps, heardFrom_keeps, setCtx_keeps, acceptRx_keeps, foldl_keeps, foldl_keeps_snd, Canonical.of_mk, Canonical.parts, FsKept.st, FsKept.after, FsKept.mk]

theorem verified_keeps (k : ℕ) (bs : List Byte) (s : State) (h_s : Canonical s) : Canonical (verified k bs s) := by
  unfold verified; grind [setImg_keeps, foldl_keeps, foldl_keeps_snd, Canonical.of_mk, Canonical.parts, FsKept.st, FsKept.after, FsKept.mk]

theorem closeSlot_keeps (k : ℕ) (s : State) (h_s : Canonical s) : Canonical (closeSlot k s) := by
  unfold closeSlot; grind [closeFsession_keeps, foldl_keeps, foldl_keeps_snd, Canonical.of_mk, Canonical.parts, FsKept.st, FsKept.after, FsKept.mk]

theorem callEnd_keeps (sid : ℕ) (w : Issued) (v : ℕ × ℕ) (s : State) (h_s : Canonical s) : Canonical (callEnd sid w v s) := by
  unfold callEnd; grind [setStream_keeps, completeWord_keeps, failWord_keeps, foldl_keeps, foldl_keeps_snd, Canonical.of_mk, Canonical.parts, FsKept.st, FsKept.after, FsKept.mk]

theorem endInject_keeps (i : ℕ) (s : State) (h_s : Canonical s) : Canonical (endInject i s) := by
  unfold endInject; grind [event_keeps, State.onGov_keeps, foldl_keeps, foldl_keeps_snd, Canonical.of_mk, Canonical.parts, FsKept.st, FsKept.after, FsKept.mk]

theorem slowBayDecide_keeps (b : ℕ) (s : State) (h_s : Canonical s) : Canonical (slowBayDecide b s) := by
  unfold slowBayDecide; grind [markSuspect_keeps, State.onGov_keeps, takeVstep_keeps, decideMapOut_keeps, foldl_keeps, foldl_keeps_snd, Canonical.of_mk, Canonical.parts, FsKept.st, FsKept.after, FsKept.mk]

theorem slowBayJudge_keeps (b : ℕ) (slow : Bool) (inj : Bool) (s : State) (h_s : Canonical s) : Canonical (slowBayJudge b slow inj s) := by
  unfold slowBayJudge; grind [countEvent_keeps, resetWindow_keeps, leaveSuspect_keeps, dryDecision_keeps, slowBayDecide_keeps, foldl_keeps, foldl_keeps_snd, Canonical.of_mk, Canonical.parts, FsKept.st, FsKept.after, FsKept.mk]

theorem retireFailed_keeps (s : State) (h_s : Canonical s) : Canonical (retireFailed s) := by
  unfold retireFailed; grind [retireIsland_keeps, foldl_keeps, foldl_keeps_snd, Canonical.of_mk, Canonical.parts, FsKept.st, FsKept.after, FsKept.mk]

theorem wordIn_keeps (sid : ℕ) (w : BitVec 256) (s : State) (h_s : Canonical s) : Canonical (wordIn sid w s) := by
  unfold wordIn; grind [setStream_keeps, bump_keeps, foldl_keeps, foldl_keeps_snd, Canonical.of_mk, Canonical.parts, FsKept.st, FsKept.after, FsKept.mk]

theorem pace_keeps (node : ℕ) (part : ℕ) (level : ℕ) (s : State) (h_s : Canonical s) : Canonical (pace node part level s) := by
  unfold pace; grind [setCtx_keeps, foldl_keeps, foldl_keeps_snd, Canonical.of_mk, Canonical.parts, FsKept.st, FsKept.after, FsKept.mk]

theorem stopBegun_keeps (status : ℕ) (cause : ℕ) (s : State) (h_s : Canonical s) : Canonical (stopBegun status cause s) := by
  unfold stopBegun; grind [settle_keeps, stopStream_keeps, foldl_keeps, foldl_keeps_snd, Canonical.of_mk, Canonical.parts, FsKept.st, FsKept.after, FsKept.mk]

theorem markChain_keeps (w : Issued) (s : State) (h_s : Canonical s) : Canonical (markChain w s) := by
  unfold markChain; grind [State.onCore_keeps, foldl_keeps, foldl_keeps_snd, Canonical.of_mk, Canonical.parts, FsKept.st, FsKept.after, FsKept.mk]

theorem bump1024_keeps (a : ℕ) (n : ℕ) (rem : ℕ) (s : State) (h_s : Canonical s) : Canonical (bump1024 a n rem s).2 := by
  unfold bump1024; grind [bumpBy_keeps, foldl_keeps, foldl_keeps_snd, Canonical.of_mk, Canonical.parts, FsKept.st, FsKept.after, FsKept.mk]

theorem mmStats_keeps (sid : ℕ) (w : Issued) (s : State) (h_s : Canonical s) : Canonical (mmStats sid w s) := by
  unfold mmStats; grind [bump1024_keeps, bump_keeps, bumpBy_keeps, State.onCore_keeps, foldl_keeps, foldl_keeps_snd, Canonical.of_mk, Canonical.parts, FsKept.st, FsKept.after, FsKept.mk]

theorem mapOutBay_keeps (b : Nat) (s : State) (h : Canonical s) : Canonical (mapOutBay b s) := by
  unfold mapOutBay
  extract_lets ps s1 s2 s3 s4
  have h1 : Canonical s1 := bump_keeps _ _ (setHist_keeps _ _ _ (setHealth_keeps _ _ _ _ h))
  have h2 : Canonical s2 := State.onGov_keeps _ _ h1
  have h3 : Canonical s3 := by
    unfold s3
    split
    · exact applyRails_keeps _ (setRail_keeps _ _ _ h2)
    · exact h2
  have h4 : Canonical s4 := ⟨h3.1, kwf_filter _ _ _ h3.2, h3.3, h3.4⟩
  exact pump_keeps _ (itemsFailed_keeps _ _ _ _ (stopBegun_keeps _ _ _ (loseBolter_keeps _ _ _ (loseHoist_keeps _ _ _ h4))))

theorem deviceReset_keeps (cause : Nat) (b : Board) (s : State) (h : Canonical s) : Canonical (deviceReset cause b s) := by
  have he := endInjections_keeps s h
  exact cwSetField_keeps _ _ _ _ _ (cwSetField_keeps _ _ _ _ _ (cwSetField_keeps _ _ _ _ _ ⟨rfl, rfl, he.3, he.4⟩))

theorem furlBegin_keeps (s : State) (h_s : Canonical s) : Canonical (furlBegin s) := by
  unfold furlBegin; grind [State.onPwr_keeps, stopBegun_keeps, endQueued_keeps, abandonGroups_keeps, abandonStep_keeps, State.onHome_keeps, pump_keeps, refreshSets_keeps, stopRebuild_keeps, foldl_keeps, foldl_keeps_snd, Canonical.of_mk, Canonical.parts, FsKept.st, FsKept.after, FsKept.mk]

theorem onward_keeps (op : ℕ) (c : TxnReq) (syms : SymErr) (s : State) (n : ℕ) (u : State) (h_s : Canonical s) (h_u : Canonical u) : ∀ t', onward op c syms s n u = .next t' → Canonical t' := by
  unfold onward; grind [tellInterim_keeps, reqIn_keeps, afterPump_keeps, pumpGo_keeps, foldl_keeps, foldl_keeps_snd, Canonical.of_mk, Canonical.parts, FsKept.st, FsKept.after, FsKept.mk]

theorem ownRetry_keeps (node : ℕ) (tag : ℕ) (s : State) (h_s : Canonical s) : Canonical (ownRetry node tag s) := by
  unfold ownRetry; grind [setCtx_keeps, ownPump_keeps, foldl_keeps, foldl_keeps_snd, Canonical.of_mk, Canonical.parts, FsKept.st, FsKept.after, FsKept.mk]

theorem nextRecord_keeps (s : State) (h_s : Canonical s) : ∀ x, nextRecord s = some x → Canonical x.2.2 := by
  unfold nextRecord; grind [State.onSec_keeps, foldl_keeps, foldl_keeps_snd, Canonical.of_mk, Canonical.parts, FsKept.st, FsKept.after, FsKept.mk]

theorem fsShape_keeps (fop : ℕ) (plen : ℕ) (audited : Bool) (kind : FsKind) : ∀ se s, Canonical s → FsKept ((fsShape fop plen audited kind).body se s) := by
  unfold fsShape; grind [fsOk_keeps, foldl_keeps, foldl_keeps_snd, Canonical.of_mk, Canonical.parts, FsKept.st, FsKept.after, FsKept.mk]

end Sys2Proof.Machine
end

