-- ==== Sys2Proof/Laws/CanonExec.lean ====
section
/-! SUPPORT. The invariant over the meanings, one lemma per command. -/

namespace Sys2Proof.Machine

theorem execThermalTrip_keeps (s : State) (h_s : Canonical s) : ∀ t', execThermalTrip s = .next t' → Canonical t' := by
  unfold execThermalTrip; grind [State.onPwr_keeps, blank_keeps, foldl_keeps, foldl_keeps_snd, Canonical.of_mk, Canonical.parts, FsKept.st, FsKept.after, FsKept.mk]

theorem execDmaCopyComplete_keeps (sid : ℕ) (num : ℕ) (s : State) (h_s : Canonical s) : ∀ t', execDmaCopyComplete sid num s = .next t' → Canonical t' := by
  unfold execDmaCopyComplete; grind [answerWord_keeps, rangeEnd_keeps, landWrites_keeps, foldl_keeps, foldl_keeps_snd, Canonical.of_mk, Canonical.parts, FsKept.st, FsKept.after, FsKept.mk]

theorem execHeatSweep_keeps (s : State) (h_s : Canonical s) : ∀ t', execHeatSweep s = .next t' → Canonical t' := by
  unfold execHeatSweep; grind [editPage_keeps, State.onStore_keeps, foldl_keeps, foldl_keeps_snd, Canonical.of_mk, Canonical.parts, FsKept.st, FsKept.after, FsKept.mk]

theorem execCopyOut_keeps (s : State) (h_s : Canonical s) : ∀ t', execCopyOut s = .next t' → Canonical t' := by
  unfold execCopyOut; grind [issueReq_keeps, copyEffect_keeps, launchOrHold_keeps, foldl_keeps, foldl_keeps_snd, Canonical.of_mk, Canonical.parts, FsKept.st, FsKept.after, FsKept.mk]

theorem execWaitAll_keeps (s : State) (h_s : Canonical s) : ∀ t', execWaitAll s = .next t' → Canonical t' := by
  unfold execWaitAll; grind [atIssue_keeps, foldl_keeps, foldl_keeps_snd, Canonical.of_mk, Canonical.parts, FsKept.st, FsKept.after, FsKept.mk]

theorem execFiInject_keeps (c : FsCmd) (s : State) (h_s : Canonical s) : ∀ t', execFiInject c s = .next t' → Canonical t' := by
  unfold execFiInject; grind [runFelset_keeps, fsFail_keeps, State.onGov_keeps, fsOk_keeps, event_keeps, foldl_keeps, foldl_keeps_snd, Canonical.of_mk, Canonical.parts, FsKept.st, FsKept.after, FsKept.mk]

theorem execQnPortionDone_keeps (inv : ℕ) (portion : ℕ) (s : State) (h_s : Canonical s) : ∀ t', execQnPortionDone inv portion s = .next t' → Canonical t' := by
  unfold execQnPortionDone; grind [pump_keeps, qportion_keeps, foldl_keeps, foldl_keeps_snd, Canonical.of_mk, Canonical.parts, FsKept.st, FsKept.after, FsKept.mk]

theorem execVecFunc1_keeps (s : State) (h_s : Canonical s) : ∀ t', execVecFunc1 s = .next t' → Canonical t' := by
  unfold execVecFunc1; grind [issueWord_keeps, vecEffect_keeps, foldl_keeps, foldl_keeps_snd, Canonical.of_mk, Canonical.parts, FsKept.st, FsKept.after, FsKept.mk]

theorem execGrantAck_keeps (c : TxnReq) (s : State) (h_s : Canonical s) : ∀ t', execGrantAck c s = .next t' → Canonical t' := by
  unfold execGrantAck; grind [setCtx_keeps, sendRec_keeps, pump_keeps, grantDone_keeps, foldl_keeps, foldl_keeps_snd, Canonical.of_mk, Canonical.parts, FsKept.st, FsKept.after, FsKept.mk]

theorem execVecCvtBs_keeps (s : State) (h_s : Canonical s) : ∀ t', execVecCvtBs s = .next t' → Canonical t' := by
  unfold execVecCvtBs; grind [issueWord_keeps, vecEffect_keeps, foldl_keeps, foldl_keeps_snd, Canonical.of_mk, Canonical.parts, FsKept.st, FsKept.after, FsKept.mk]

theorem execIslandRelock_keeps (i : ℕ) (ok : Bool) (s : State) (h_s : Canonical s) : ∀ t', execIslandRelock i ok s = .next t' → Canonical t' := by
  unfold execIslandRelock; grind [startGoesOn_keeps, reopened_keeps, setIsland_keeps, failedRelock_keeps, foldl_keeps, foldl_keeps_snd, Canonical.of_mk, Canonical.parts, FsKept.st, FsKept.after, FsKept.mk]

theorem execWakeAdmissionOpen_keeps (s : State) (h_s : Canonical s) : ∀ t', execWakeAdmissionOpen s = .next t' → Canonical t' := by
  unfold execWakeAdmissionOpen; grind [wakeOpen_keeps, foldl_keeps, foldl_keeps_snd, Canonical.of_mk, Canonical.parts, FsKept.st, FsKept.after, FsKept.mk]

theorem execLinkDown_keeps (link : ℕ) (s : State) (h_s : Canonical s) : ∀ t', execLinkDown link s = .next t' → Canonical t' := by
  unfold execLinkDown; grind [leavePlane_keeps, setLink_keeps, foldl_keeps, foldl_keeps_snd, Canonical.of_mk, Canonical.parts, FsKept.st, FsKept.after, FsKept.mk]

theorem execShareWrite_keeps (c : FsCmd) (s : State) (h_s : Canonical s) : ∀ t', execShareWrite c s = .next t' → Canonical t' := by
  unfold execShareWrite; grind [runFelset_keeps, cwWriteOp_keeps, foldl_keeps, foldl_keeps_snd, Canonical.of_mk, Canonical.parts, FsKept.st, FsKept.after, FsKept.mk]

theorem execMillpondBlockErase_keeps (q : ℕ) (blk : ℕ) (s : State) (h_s : Canonical s) : ∀ t', execMillpondBlockErase q blk s = .next t' → Canonical t' := by
  unfold execMillpondBlockErase; grind [wearEvents_keeps, setMillpond_keeps, foldl_keeps, foldl_keeps_snd, Canonical.of_mk, Canonical.parts, FsKept.st, FsKept.after, FsKept.mk]

theorem execFwFloorBlow_keeps (s : State) (h_s : Canonical s) : ∀ t', execFwFloorBlow s = .next t' → Canonical t' := by
  unfold execFwFloorBlow; grind [State.onNor_keeps, foldl_keeps, foldl_keeps_snd, Canonical.of_mk, Canonical.parts, FsKept.st, FsKept.after, FsKept.mk]

theorem execSliceUsExpiry_keeps (s : State) (h_s : Canonical s) : ∀ t', execSliceUsExpiry s = .next t' → Canonical t' := by
  unfold execSliceUsExpiry; grind [accrue_keeps, State.onCore_keeps, foldl_keeps, foldl_keeps_snd, Canonical.of_mk, Canonical.parts, FsKept.st, FsKept.after, FsKept.mk]

theorem execRetire_keeps (c : FsCmd) (s : State) (h_s : Canonical s) : ∀ t', execRetire c s = .next t' → Canonical t' := by
  unfold execRetire; grind [runFelset_keeps, fsOk_keeps, retireUnit_keeps, foldl_keeps, foldl_keeps_snd, Canonical.of_mk, Canonical.parts, FsKept.st, FsKept.after, FsKept.mk]

theorem execQnGroupOpen_keeps (c : TxnReq) (s : State) (h_s : Canonical s) : ∀ t', execQnGroupOpen c s = .next t' → Canonical t' := by
  unfold execQnGroupOpen; grind [qnGroup_keeps, foldl_keeps, foldl_keeps_snd, Canonical.of_mk, Canonical.parts, FsKept.st, FsKept.after, FsKept.mk]

theorem execExtGrant_keeps (c : FsCmd) (s : State) (h_s : Canonical s) : ∀ t', execExtGrant c s = .next t' → Canonical t' := by
  unfold execExtGrant; grind [runFelset_keeps, fsFail_keeps, fsOk_keeps, State.onSec_keeps, foldl_keeps, foldl_keeps_snd, Canonical.of_mk, Canonical.parts, FsKept.st, FsKept.after, FsKept.mk]

theorem execBayBeatWindow_keeps (b : ℕ) (rate : ℕ) (beats : ℕ) (s : State) (h_s : Canonical s) : ∀ t', execBayBeatWindow b rate beats s = .next t' → Canonical t' := by
  unfold execBayBeatWindow; grind [State.onPwr_keeps, bumpBy_keeps, foldl_keeps, foldl_keeps_snd, Canonical.of_mk, Canonical.parts, FsKept.st, FsKept.after, FsKept.mk]

theorem execAuditEraseDone_keeps (s : State) (h_s : Canonical s) : ∀ t', execAuditEraseDone s = .next t' → Canonical t' := by
  unfold execAuditEraseDone; grind [State.onNor_keeps, event_keeps, bump_keeps, foldl_keeps, foldl_keeps_snd, Canonical.of_mk, Canonical.parts, FsKept.st, FsKept.after, FsKept.mk]

theorem execVecMax_keeps (s : State) (h_s : Canonical s) : ∀ t', execVecMax s = .next t' → Canonical t' := by
  unfold execVecMax; grind [issueWord_keeps, vecEffect_keeps, foldl_keeps, foldl_keeps_snd, Canonical.of_mk, Canonical.parts, FsKept.st, FsKept.after, FsKept.mk]

theorem execNotifyWord_keeps (s : State) (h_s : Canonical s) : ∀ t', execNotifyWord s = .next t' → Canonical t' := by
  unfold execNotifyWord; grind [issueReq_keeps, scalarWord_keeps, launchOrHold_keeps, foldl_keeps, foldl_keeps_snd, Canonical.of_mk, Canonical.parts, FsKept.st, FsKept.after, FsKept.mk]

theorem execScratchWinWrite_keeps (c : FsCmd) (s : State) (h_s : Canonical s) : ∀ t', execScratchWinWrite c s = .next t' → Canonical t' := by
  unfold execScratchWinWrite; grind [runFelset_keeps, cwWriteOp_keeps, foldl_keeps, foldl_keeps_snd, Canonical.of_mk, Canonical.parts, FsKept.st, FsKept.after, FsKept.mk]

theorem execImgWrite_keeps (c : FsCmd) (s : State) (h_s : Canonical s) : ∀ t', execImgWrite c s = .next t' → Canonical t' := by
  unfold execImgWrite; grind [runFelset_keeps, fsOk_keeps, setImg_keeps, fsBad_keeps, foldl_keeps, foldl_keeps_snd, Canonical.of_mk, Canonical.parts, FsKept.st, FsKept.after, FsKept.mk]

theorem execRailSetWrite_keeps (c : FsCmd) (s : State) (h_s : Canonical s) : ∀ t', execRailSetWrite c s = .next t' → Canonical t' := by
  unfold execRailSetWrite; grind [runFelset_keeps, cwWriteOp_keeps, foldl_keeps, foldl_keeps_snd, Canonical.of_mk, Canonical.parts, FsKept.st, FsKept.after, FsKept.mk]

theorem execWeirWindow_keeps (busyA : ℕ) (capA : ℕ) (busyB : ℕ) (capB : ℕ) (s : State) (h_s : Canonical s) : ∀ t', execWeirWindow busyA capA busyB capB s = .next t' → Canonical t' := by
  unfold execWeirWindow; grind [State.onKt_keeps, setCtx_keeps, foldl_keeps, foldl_keeps_snd, Canonical.of_mk, Canonical.parts, FsKept.st, FsKept.after, FsKept.mk]

theorem execVecMin_keeps (s : State) (h_s : Canonical s) : ∀ t', execVecMin s = .next t' → Canonical t' := by
  unfold execVecMin; grind [issueWord_keeps, vecEffect_keeps, foldl_keeps, foldl_keeps_snd, Canonical.of_mk, Canonical.parts, FsKept.st, FsKept.after, FsKept.mk]

theorem execTokenSet_keeps (s : State) (h_s : Canonical s) : ∀ t', execTokenSet s = .next t' → Canonical t' := by
  unfold execTokenSet; grind [atIssue_keeps, foldl_keeps, foldl_keeps_snd, Canonical.of_mk, Canonical.parts, FsKept.st, FsKept.after, FsKept.mk]

theorem execAbortStream_keeps (c : FsCmd) (s : State) (h_s : Canonical s) : ∀ t', execAbortStream c s = .next t' → Canonical t' := by
  unfold execAbortStream; grind [runFelset_keeps, fsOk_keeps, endStream_keeps, setStream_keeps, settle_keeps, stopStream_keeps, foldl_keeps, foldl_keeps_snd, Canonical.of_mk, Canonical.parts, FsKept.st, FsKept.after, FsKept.mk]

theorem execVectorComplete_keeps (s : State) (h_s : Canonical s) : ∀ t', execVectorComplete s = .next t' → Canonical t' := by
  unfold execVectorComplete; grind [settle_keeps, completeWord_keeps, landWrites_keeps, bump_keeps, foldl_keeps, foldl_keeps_snd, Canonical.of_mk, Canonical.parts, FsKept.st, FsKept.after, FsKept.mk]

theorem execAttest_keeps (c : FsCmd) (s : State) (h_s : Canonical s) : ∀ t', execAttest c s = .next t' → Canonical t' := by
  unfold execAttest; grind [runFelset_keeps, fsOk_keeps, bump_keeps, foldl_keeps, foldl_keeps_snd, Canonical.of_mk, Canonical.parts, FsKept.st, FsKept.after, FsKept.mk]

theorem execFsIdleExpiry_keeps (fsid : ℕ) (s : State) (h_s : Canonical s) : ∀ t', execFsIdleExpiry fsid s = .next t' → Canonical t' := by
  unfold execFsIdleExpiry; grind [closeFsession_keeps, foldl_keeps, foldl_keeps_snd, Canonical.of_mk, Canonical.parts, FsKept.st, FsKept.after, FsKept.mk]

theorem execLiveBoundExpiry_keeps (node : ℕ) (s : State) (h_s : Canonical s) : ∀ t', execLiveBoundExpiry node s = .next t' → Canonical t' := by
  unfold execLiveBoundExpiry; grind [fenceNode_keeps, foldl_keeps, foldl_keeps_snd, Canonical.of_mk, Canonical.parts, FsKept.st, FsKept.after, FsKept.mk]

theorem execStoreLines_keeps (c : TxnReq) (s : State) (h_s : Canonical s) : ∀ t', execStoreLines c s = .next t' → Canonical t' := by
  unfold execStoreLines; grind [request_keeps, foldl_keeps, foldl_keeps_snd, Canonical.of_mk, Canonical.parts, FsKept.st, FsKept.after, FsKept.mk]

theorem execAuditAck_keeps (c : FsCmd) (s : State) (h_s : Canonical s) : ∀ t', execAuditAck c s = .next t' → Canonical t' := by
  unfold execAuditAck; grind [runFelset_keeps, fsOk_keeps, State.onNor_keeps, foldl_keeps, foldl_keeps_snd, Canonical.of_mk, Canonical.parts, FsKept.st, FsKept.after, FsKept.mk]

theorem execStrapCommit_keeps (c : FsCmd) (s : State) (h_s : Canonical s) : ∀ t', execStrapCommit c s = .next t' → Canonical t' := by
  unfold execStrapCommit; grind [runFelset_keeps, State.onNor_keeps, closeBootstrap_keeps, foldl_keeps, foldl_keeps_snd, Canonical.of_mk, Canonical.parts, FsKept.st, FsKept.after, FsKept.mk]

theorem execMillpondScanDone_keeps (q : ℕ) (s : State) (h_s : Canonical s) : ∀ t', execMillpondScanDone q s = .next t' → Canonical t' := by
  unfold execMillpondScanDone; grind [checkSpares_keeps, wearEvents_keeps, setMillpond_keeps, State.onPwr_keeps, foldl_keeps, foldl_keeps_snd, Canonical.of_mk, Canonical.parts, FsKept.st, FsKept.after, FsKept.mk]

theorem execPartEnable_keeps (c : FsCmd) (s : State) (h_s : Canonical s) : ∀ t', execPartEnable c s = .next t' → Canonical t' := by
  unfold execPartEnable; grind [runFelset_keeps, drawKey_keeps, fsOk_keeps, setPart_keeps, foldl_keeps, foldl_keeps_snd, Canonical.of_mk, Canonical.parts, FsKept.st, FsKept.after, FsKept.mk]

theorem execPowerSample_keeps (r : RailReadings) (s : State) (h_s : Canonical s) : ∀ t', execPowerSample r s = .next t' → Canonical t' := by
  unfold execPowerSample; grind [readRail_keeps, setRail_keeps, State.onPwr_keeps, rangeCheck_keeps, applyRails_keeps, throttleStep_keeps, foldl_keeps, foldl_keeps_snd, Canonical.of_mk, Canonical.parts, FsKept.st, FsKept.after, FsKept.mk]

theorem execAckTimer_keeps (node : ℕ) (s : State) (h_s : Canonical s) : ∀ t', execAckTimer node s = .next t' → Canonical t' := by
  unfold execAckTimer; grind [sendAck_keeps, foldl_keeps, foldl_keeps_snd, Canonical.of_mk, Canonical.parts, FsKept.st, FsKept.after, FsKept.mk]

theorem execSessionOpenDone_keeps (node : ℕ) (s : State) (h_s : Canonical s) : ∀ t', execSessionOpenDone node s = .next t' → Canonical t' := by
  unfold execSessionOpenDone; grind [State.onKt_keeps, sessionFail_keeps, beginClose_keeps, acceptOpen_keeps, closeIdle_keeps, answerOpen_keeps, foldl_keeps, foldl_keeps_snd, Canonical.of_mk, Canonical.parts, FsKept.st, FsKept.after, FsKept.mk]

theorem execLdComplete_keeps (sid : ℕ) (num : ℕ) (s : State) (h_s : Canonical s) : ∀ t', execLdComplete sid num s = .next t' → Canonical t' := by
  unfold execLdComplete; grind [answerWord_keeps, rangeEnd_keeps, setStream_keeps, foldl_keeps, foldl_keeps_snd, Canonical.of_mk, Canonical.parts, FsKept.st, FsKept.after, FsKept.mk]

theorem execAtomicSwap_keeps (c : TxnReq) (s : State) (h_s : Canonical s) : ∀ t', execAtomicSwap c s = .next t' → Canonical t' := by
  unfold execAtomicSwap; grind [request_keeps, foldl_keeps, foldl_keeps_snd, Canonical.of_mk, Canonical.parts, FsKept.st, FsKept.after, FsKept.mk]

theorem execReduce_keeps (c : TxnReq) (s : State) (h_s : Canonical s) : ∀ t', execReduce c s = .next t' → Canonical t' := by
  unfold execReduce; grind [qnExec_keeps, foldl_keeps, foldl_keeps_snd, Canonical.of_mk, Canonical.parts, FsKept.st, FsKept.after, FsKept.mk]

theorem execPartDisable_keeps (c : FsCmd) (s : State) (h_s : Canonical s) : ∀ t', execPartDisable c s = .next t' → Canonical t' := by
  unfold execPartDisable; grind [runFelset_keeps, fsOk_keeps, disablePart_keeps, foldl_keeps, foldl_keeps_snd, Canonical.of_mk, Canonical.parts, FsKept.st, FsKept.after, FsKept.mk]

theorem execQnAbandonAll_keeps (c : FsCmd) (s : State) (h_s : Canonical s) : ∀ t', execQnAbandonAll c s = .next t' → Canonical t' := by
  unfold execQnAbandonAll; grind [runFelset_keeps, fsOk_keeps, pump_keeps, abandonGroups_keeps, foldl_keeps, foldl_keeps_snd, Canonical.of_mk, Canonical.parts, FsKept.st, FsKept.after, FsKept.mk]

theorem execVecSub_keeps (s : State) (h_s : Canonical s) : ∀ t', execVecSub s = .next t' → Canonical t' := by
  unfold execVecSub; grind [issueWord_keeps, vecEffect_keeps, foldl_keeps, foldl_keeps_snd, Canonical.of_mk, Canonical.parts, FsKept.st, FsKept.after, FsKept.mk]

theorem execLoad_keeps (c : TxnReq) (syms : SymErr) (s : State) (h_s : Canonical s) : ∀ t', execLoad c syms s = .next t' → Canonical t' := by
  unfold execLoad; grind [request_keeps, foldl_keeps, foldl_keeps_snd, Canonical.of_mk, Canonical.parts, FsKept.st, FsKept.after, FsKept.mk]

theorem execScrubDone_keeps (ext : ℕ) (v : ScrubVerdict) (s : State) (h_s : Canonical s) : ∀ t', execScrubDone ext v s = .next t' → Canonical t' := by
  unfold execScrubDone; grind [State.onSec_keeps, dropPage_keeps, freeGrantsAt_keeps, setExtent_keeps, event_keeps, bump_keeps, countEvent_keeps, foldl_keeps, foldl_keeps_snd, Canonical.of_mk, Canonical.parts, FsKept.st, FsKept.after, FsKept.mk]

theorem execSetSlotWrite_keeps (c : FsCmd) (s : State) (h_s : Canonical s) : ∀ t', execSetSlotWrite c s = .next t' → Canonical t' := by
  unfold execSetSlotWrite; grind [runFelset_keeps, cwWriteOp_keeps, foldl_keeps, foldl_keeps_snd, Canonical.of_mk, Canonical.parts, FsKept.st, FsKept.after, FsKept.mk]

theorem execMsgAppend_keeps (c : TxnReq) (s : State) (h_s : Canonical s) : ∀ t', execMsgAppend c s = .next t' → Canonical t' := by
  unfold execMsgAppend; grind [request_keeps, foldl_keeps, foldl_keeps_snd, Canonical.of_mk, Canonical.parts, FsKept.st, FsKept.after, FsKept.mk]

theorem execStartHalt_keeps (s : State) (h_s : Canonical s) : ∀ t', execStartHalt s = .next t' → Canonical t' := by
  unfold execStartHalt; grind [State.onPwr_keeps, startStep10_keeps, loadStraps_keeps, State.onSec_keeps, foldl_keeps, foldl_keeps_snd, Canonical.of_mk, Canonical.parts, FsKept.st, FsKept.after, FsKept.mk]

theorem execRebuildBatch_keeps (slot : Nat) (syms : SymErr) (s : State) (h : Canonical s) :
    ∀ t', execRebuildBatch slot syms s = .next t' → Canonical t' := by
  intro t e
  cases e
  extract_lets t b e lost valid far
  refine ite_keeps h (ite_keeps (setSet_keeps _ _ _ h) ?_)
  split
  · refine ite_keeps h ?_
    have h1 := holdOwn_keeps slot b e (valid b t.pos) s h
    generalize holdOwn slot b e (valid b t.pos) s = x at h1 ⊢
    obtain ⟨ok, s1⟩ := x
    exact pump_keeps _ (ite_keeps (holdAll_keeps _ _ _ _ _ (setSet_keeps _ _ _ h1)) h1)
  · exact ite_keeps (setSet_keeps _ _ _ h) (foldl_keeps _ _ _
      (fun s k hs => foldl_keeps _ _ _ (fun s p hs => getUnit_keeps _ _ _ _ _ hs) hs) (setSet_keeps _ _ _ h))
  · exact pump_keeps _ (batchWrite_keeps _ _ _ _ _ _ h)
  · have h1 := holdOwn_keeps slot 0 0 (valid e t.pos) s h
    generalize holdOwn slot 0 0 (valid e t.pos) s = x at h1 ⊢
    obtain ⟨ok, s1⟩ := x
    exact pump_keeps _ (ite_keeps (holdAll_keeps _ _ _ _ _ (setSet_keeps _ _ _ h1)) h1)
  · exact pump_keeps _ (batchDone_keeps _ _ _ _ h)

theorem execSliceFlushTimeout_keeps (bay : ℕ) (s : State) (h_s : Canonical s) : ∀ t', execSliceFlushTimeout bay s = .next t' → Canonical t' := by
  unfold execSliceFlushTimeout; grind [pump_keeps, finishFlush_keeps, foldl_keeps, foldl_keeps_snd, Canonical.of_mk, Canonical.parts, FsKept.st, FsKept.after, FsKept.mk]

theorem execPageQuery_keeps (c : FsCmd) (s : State) (h_s : Canonical s) : ∀ t', execPageQuery c s = .next t' → Canonical t' := by
  unfold execPageQuery; grind [runFelset_keeps, freeVal_keeps, fsOk_keeps, editPage_keeps, mapTouch_keeps, foldl_keeps, foldl_keeps_snd, Canonical.of_mk, Canonical.parts, FsKept.st, FsKept.after, FsKept.mk]

theorem execQuotaSet_keeps (c : FsCmd) (s : State) (h_s : Canonical s) : ∀ t', execQuotaSet c s = .next t' → Canonical t' := by
  unfold execQuotaSet; grind [runFelset_keeps, cwSetField_keeps, fsOk_keeps, foldl_keeps, foldl_keeps_snd, Canonical.of_mk, Canonical.parts, FsKept.st, FsKept.after, FsKept.mk]

theorem execAtomicAnd_keeps (c : TxnReq) (s : State) (h_s : Canonical s) : ∀ t', execAtomicAnd c s = .next t' → Canonical t' := by
  unfold execAtomicAnd; grind [request_keeps, foldl_keeps, foldl_keeps_snd, Canonical.of_mk, Canonical.parts, FsKept.st, FsKept.after, FsKept.mk]

theorem execIdentity_keeps (c : FsCmd) (s : State) (h_s : Canonical s) : ∀ t', execIdentity c s = .next t' → Canonical t' := by
  unfold execIdentity; grind [runFelset_keeps, fsOk_keeps, foldl_keeps, foldl_keeps_snd, Canonical.of_mk, Canonical.parts, FsKept.st, FsKept.after, FsKept.mk]

theorem execImgQuery_keeps (c : FsCmd) (s : State) (h_s : Canonical s) : ∀ t', execImgQuery c s = .next t' → Canonical t' := by
  unfold execImgQuery; grind [runFelset_keeps, freeBytes_keeps, fsOk_keeps, foldl_keeps, foldl_keeps_snd, Canonical.of_mk, Canonical.parts, FsKept.st, FsKept.after, FsKept.mk]

theorem execGovWindowClose_keeps (k : EvKind) (unit : ℕ) (reading : ℕ) (s0 : State) (h_s0 : Canonical s0) : ∀ t', execGovWindowClose k unit reading s0 = .next t' → Canonical t' := by
  unfold execGovWindowClose; grind [noteFec_keeps, resetWindow_keeps, markErased_keeps, decideSuspect_keeps, leaveSuspect_keeps, foldl_keeps, foldl_keeps_snd, Canonical.of_mk, Canonical.parts, FsKept.st, FsKept.after, FsKept.mk]

theorem execAlu_keeps (s : State) (h_s : Canonical s) : ∀ t', execAlu s = .next t' → Canonical t' := by
  unfold execAlu; grind [atIssue_keeps, foldl_keeps, foldl_keeps_snd, Canonical.of_mk, Canonical.parts, FsKept.st, FsKept.after, FsKept.mk]

theorem execAtomicXor_keeps (c : TxnReq) (s : State) (h_s : Canonical s) : ∀ t', execAtomicXor c s = .next t' → Canonical t' := by
  unfold execAtomicXor; grind [request_keeps, foldl_keeps, foldl_keeps_snd, Canonical.of_mk, Canonical.parts, FsKept.st, FsKept.after, FsKept.mk]

theorem execDecayEpoch_keeps (s : State) (h_s : Canonical s) : ∀ t', execDecayEpoch s = .next t' → Canonical t' := by
  unfold execDecayEpoch; grind [State.onStore_keeps, foldl_keeps, foldl_keeps_snd, Canonical.of_mk, Canonical.parts, FsKept.st, FsKept.after, FsKept.mk]

theorem execSpareRowReplace_keeps (e : SramError) (bank : ℕ) (s : State) (h_s : Canonical s) : ∀ t', execSpareRowReplace e bank s = .next t' → Canonical t' := by
  unfold execSpareRowReplace; grind [setUnitH_keeps, setHist_keeps, unitEvent_keeps, spWrite_keeps, disableRow_keeps, foldl_keeps, foldl_keeps_snd, Canonical.of_mk, Canonical.parts, FsKept.st, FsKept.after, FsKept.mk]

theorem execWaitMulti_keeps (s : State) (h_s : Canonical s) : ∀ t', execWaitMulti s = .next t' → Canonical t' := by
  unfold execWaitMulti; grind [atIssue_keeps, foldl_keeps, foldl_keeps_snd, Canonical.of_mk, Canonical.parts, FsKept.st, FsKept.after, FsKept.mk]

theorem execRequestDeadline_keeps (node : ℕ) (tag : ℕ) (s : State) (h_s : Canonical s) : ∀ t', execRequestDeadline node tag s = .next t' → Canonical t' := by
  unfold execRequestDeadline; grind [ownDead_keeps, foldl_keeps, foldl_keeps_snd, Canonical.of_mk, Canonical.parts, FsKept.st, FsKept.after, FsKept.mk]

theorem execLd_keeps (s : State) (h_s : Canonical s) : ∀ t', execLd s = .next t' → Canonical t' := by
  unfold execLd; grind [issueReq_keeps, scalarWord_keeps, failWord_keeps, submit_keeps, foldl_keeps, foldl_keeps_snd, Canonical.of_mk, Canonical.parts, FsKept.st, FsKept.after, FsKept.mk]

theorem execQueryStream_keeps (c : FsCmd) (s : State) (h_s : Canonical s) : ∀ t', execQueryStream c s = .next t' → Canonical t' := by
  unfold execQueryStream; grind [runFelset_keeps, fsOk_keeps, foldl_keeps, foldl_keeps_snd, Canonical.of_mk, Canonical.parts, FsKept.st, FsKept.after, FsKept.mk]

theorem execBlDelete_keeps (c : TxnReq) (s : State) (h_s : Canonical s) : ∀ t', execBlDelete c s = .next t' → Canonical t' := by
  unfold execBlDelete; grind [request_keeps, foldl_keeps, foldl_keeps_snd, Canonical.of_mk, Canonical.parts, FsKept.st, FsKept.after, FsKept.mk]

theorem execHsStepOpen_keeps (c : TxnReq) (s : State) (h_s : Canonical s) : ∀ t', execHsStepOpen c s = .next t' → Canonical t' := by
  unfold execHsStepOpen; grind [hsStep_keeps, foldl_keeps, foldl_keeps_snd, Canonical.of_mk, Canonical.parts, FsKept.st, FsKept.after, FsKept.mk]

theorem execAtomicUmax_keeps (c : TxnReq) (s : State) (h_s : Canonical s) : ∀ t', execAtomicUmax c s = .next t' → Canonical t' := by
  unfold execAtomicUmax; grind [request_keeps, foldl_keeps, foldl_keeps_snd, Canonical.of_mk, Canonical.parts, FsKept.st, FsKept.after, FsKept.mk]

theorem execImgStage_keeps (c : FsCmd) (s : State) (h_s : Canonical s) : ∀ t', execImgStage c s = .next t' → Canonical t' := by
  unfold execImgStage; grind [runFelset_keeps, fsOk_keeps, setImg_keeps, foldl_keeps, foldl_keeps_snd, Canonical.of_mk, Canonical.parts, FsKept.st, FsKept.after, FsKept.mk]

theorem execNop_keeps (s : State) (h_s : Canonical s) : ∀ t', execNop s = .next t' → Canonical t' := by
  unfold execNop; grind [atIssue_keeps, foldl_keeps, foldl_keeps_snd, Canonical.of_mk, Canonical.parts, FsKept.st, FsKept.after, FsKept.mk]

theorem execSnpFlushBayResponse_keeps (node : ℕ) (tag : ℕ) (s : State) (h_s : Canonical s) : ∀ t', execSnpFlushBayResponse node tag s = .next t' → Canonical t' := by
  unfold execSnpFlushBayResponse; grind [State.onHome_keeps, pump_keeps, beginClose_keeps, forgetCopies_keeps, finishFlush_keeps, foldl_keeps, foldl_keeps_snd, Canonical.of_mk, Canonical.parts, FsKept.st, FsKept.after, FsKept.mk]

theorem execLoadLines_keeps (c : TxnReq) (s : State) (h_s : Canonical s) : ∀ t', execLoadLines c s = .next t' → Canonical t' := by
  unfold execLoadLines; grind [request_keeps, foldl_keeps, foldl_keeps_snd, Canonical.of_mk, Canonical.parts, FsKept.st, FsKept.after, FsKept.mk]

theorem execAuditHead_keeps (c : FsCmd) (s : State) (h_s : Canonical s) : ∀ t', execAuditHead c s = .next t' → Canonical t' := by
  unfold execAuditHead; grind [runFelset_keeps, fsOk_keeps, foldl_keeps, foldl_keeps_snd, Canonical.of_mk, Canonical.parts, FsKept.st, FsKept.after, FsKept.mk]

theorem execMillpondProgramDone_keeps (q : ℕ) (blk : ℕ) (ok : Bool) (s : State) (h_s : Canonical s) : ∀ t', execMillpondProgramDone q blk ok s = .next t' → Canonical t' := by
  unfold execMillpondProgramDone; grind [relocate_keeps, blockBad_keeps, foldl_keeps, foldl_keeps_snd, Canonical.of_mk, Canonical.parts, FsKept.st, FsKept.after, FsKept.mk]

theorem execFill_keeps (c : TxnReq) (s : State) (h_s : Canonical s) : ∀ t', execFill c s = .next t' → Canonical t' := by
  unfold execFill; grind [qnExec_keeps, foldl_keeps, foldl_keeps_snd, Canonical.of_mk, Canonical.parts, FsKept.st, FsKept.after, FsKept.mk]

theorem execHsStepCloseDone_keeps (table : ℕ) (s : State) (h_s : Canonical s) : ∀ t', execHsStepCloseDone table s = .next t' → Canonical t' := by
  unfold execHsStepCloseDone; grind [pump_keeps, closeStep_keeps, foldl_keeps, foldl_keeps_snd, Canonical.of_mk, Canonical.parts, FsKept.st, FsKept.after, FsKept.mk]

theorem execPowerGoodFall_keeps (s : State) (h_s : Canonical s) : ∀ t', execPowerGoodFall s = .next t' → Canonical t' := by
  unfold execPowerGoodFall; grind [State.onPwr_keeps, blank_keeps, foldl_keeps, foldl_keeps_snd, Canonical.of_mk, Canonical.parts, FsKept.st, FsKept.after, FsKept.mk]

theorem execExtQuery_keeps (c : FsCmd) (s : State) (h_s : Canonical s) : ∀ t', execExtQuery c s = .next t' → Canonical t' := by
  unfold execExtQuery; grind [runFelset_keeps, freeVal_keeps, fsOk_keeps, foldl_keeps, foldl_keeps_snd, Canonical.of_mk, Canonical.parts, FsKept.st, FsKept.after, FsKept.mk]

theorem execSessionClose_keeps (node : ℕ) (_reason : ℕ) (s : State) (h_s : Canonical s) : ∀ t', execSessionClose node _reason s = .next t' → Canonical t' := by
  unfold execSessionClose; grind [closeNow_keeps, sendAck_keeps, foldl_keeps, foldl_keeps_snd, Canonical.of_mk, Canonical.parts, FsKept.st, FsKept.after, FsKept.mk]

theorem execStComplete_keeps (sid : ℕ) (num : ℕ) (s : State) (h_s : Canonical s) : ∀ t', execStComplete sid num s = .next t' → Canonical t' := by
  unfold execStComplete; grind [answerWord_keeps, rangeEnd_keeps, foldl_keeps, foldl_keeps_snd, Canonical.of_mk, Canonical.parts, FsKept.st, FsKept.after, FsKept.mk]

theorem execAuditRead_keeps (c : FsCmd) (s : State) (h_s : Canonical s) : ∀ t', execAuditRead c s = .next t' → Canonical t' := by
  unfold execAuditRead; grind [runFelset_keeps, fsOk_keeps, foldl_keeps, foldl_keeps_snd, Canonical.of_mk, Canonical.parts, FsKept.st, FsKept.after, FsKept.mk]

theorem execTimestampCompare_keeps (drift : ℤ) (s : State) (h_s : Canonical s) : ∀ t', execTimestampCompare drift s = .next t' → Canonical t' := by
  unfold execTimestampCompare; grind [State.onPwr_keeps, event_keeps, foldl_keeps, foldl_keeps_snd, Canonical.of_mk, Canonical.parts, FsKept.st, FsKept.after, FsKept.mk]

theorem execMkScreen_keeps (c : FsCmd) (s : State) (h_s : Canonical s) : ∀ t', execMkScreen c s = .next t' → Canonical t' := by
  unfold execMkScreen; grind [runFelset_keeps, fsFail_keeps, fsOk_keeps, foldl_keeps, foldl_keeps_snd, Canonical.of_mk, Canonical.parts, FsKept.st, FsKept.after, FsKept.mk]

theorem execSaRekey_keeps (node : ℕ) (sc : SaEnd) (s : State) (h_s : Canonical s) : ∀ t', execSaRekey node sc s = .next t' → Canonical t' := by
  unfold execSaRekey; grind [setCtx_keeps, beginClose_keeps, foldl_keeps, foldl_keeps_snd, Canonical.of_mk, Canonical.parts, FsKept.st, FsKept.after, FsKept.mk]

theorem execMaxMsExpiry_keeps (s : State) (h_s : Canonical s) : ∀ t', execMaxMsExpiry s = .next t' → Canonical t' := by
  unfold execMaxMsExpiry; grind [settle_keeps, stopStream_keeps, foldl_keeps, foldl_keeps_snd, Canonical.of_mk, Canonical.parts, FsKept.st, FsKept.after, FsKept.mk]

theorem execRunStream_keeps (c : FsCmd) (s : State) (h_s : Canonical s) : ∀ t', execRunStream c s = .next t' → Canonical t' := by
  unfold execRunStream; grind [runFelset_keeps, runStreamBody_keeps, foldl_keeps, foldl_keeps_snd, Canonical.of_mk, Canonical.parts, FsKept.st, FsKept.after, FsKept.mk]

theorem execVecAdd_keeps (s : State) (h_s : Canonical s) : ∀ t', execVecAdd s = .next t' → Canonical t' := by
  unfold execVecAdd; grind [issueWord_keeps, vecEffect_keeps, foldl_keeps, foldl_keeps_snd, Canonical.of_mk, Canonical.parts, FsKept.st, FsKept.after, FsKept.mk]

theorem execRaceInvReturn_keeps (line : ℕ) (s : State) (h_s : Canonical s) : ∀ t', execRaceInvReturn line s = .next t' → Canonical t' := by
  unfold execRaceInvReturn; grind [pump_keeps, endTxn_keeps, setDir_keeps, bufDrop_keeps, foldl_keeps, foldl_keeps_snd, Canonical.of_mk, Canonical.parts, FsKept.st, FsKept.after, FsKept.mk]

theorem execMillpondGcStart_keeps (q : ℕ) (s : State) (h_s : Canonical s) : ∀ t', execMillpondGcStart q s = .next t' → Canonical t' := by
  unfold execMillpondGcStart; grind [relocate_keeps, setMillpond_keeps, foldl_keeps, foldl_keeps_snd, Canonical.of_mk, Canonical.parts, FsKept.st, FsKept.after, FsKept.mk]

theorem execBlMergeTimeLimit_keeps (index : ℕ) (s : State) (h_s : Canonical s) : ∀ t', execBlMergeTimeLimit index s = .next t' → Canonical t' := by
  unfold execBlMergeTimeLimit; grind [cutItem_keeps, foldl_keeps, foldl_keeps_snd, Canonical.of_mk, Canonical.parts, FsKept.st, FsKept.after, FsKept.mk]

theorem execBlMergeStop_keeps (c : FsCmd) (s : State) (h_s : Canonical s) : ∀ t', execBlMergeStop c s = .next t' → Canonical t' := by
  unfold execBlMergeStop; grind [runFelset_keeps, updateItem_keeps, fsOk_keeps, pump_keeps, foldl_keeps, foldl_keeps_snd, Canonical.of_mk, Canonical.parts, FsKept.st, FsKept.after, FsKept.mk]

theorem execHsGrad_keeps (c : TxnReq) (s : State) (h_s : Canonical s) : ∀ t', execHsGrad c s = .next t' → Canonical t' := by
  unfold execHsGrad; grind [request_keeps, foldl_keeps, foldl_keeps_snd, Canonical.of_mk, Canonical.parts, FsKept.st, FsKept.after, FsKept.mk]

theorem execPowerGoodRise_keeps (b : Board) (s : State) (h_s : Canonical s) : ∀ t', execPowerGoodRise b s = .next t' → Canonical t' := by
  unfold execPowerGoodRise; grind [runStart_keeps, powerUpReset_keeps, foldl_keeps, foldl_keeps_snd, Canonical.of_mk, Canonical.parts, FsKept.st, FsKept.after, FsKept.mk]

theorem execPeerReachWrite_keeps (c : FsCmd) (s : State) (h_s : Canonical s) : ∀ t', execPeerReachWrite c s = .next t' → Canonical t' := by
  unfold execPeerReachWrite; grind [runFelset_keeps, cwWriteOp_keeps, foldl_keeps, foldl_keeps_snd, Canonical.of_mk, Canonical.parts, FsKept.st, FsKept.after, FsKept.mk]

theorem execBlInsert_keeps (c : TxnReq) (s : State) (h_s : Canonical s) : ∀ t', execBlInsert c s = .next t' → Canonical t' := by
  unfold execBlInsert; grind [request_keeps, foldl_keeps, foldl_keeps_snd, Canonical.of_mk, Canonical.parts, FsKept.st, FsKept.after, FsKept.mk]

theorem execMoveSwitch_keeps (p : Nat) (s : State) (h : Canonical s) : ∀ t', execMoveSwitch p s = .next t' → Canonical t' := by
  intro t e
  cases e
  split
  · exact h
  · extract_lets e hot
    refine ite_keeps (State.onStore_keeps _ _ rfl h) (ite_keeps (pump_keeps _ (abandonMove_keeps _ _ h)) ?_)
    split
    · exact pump_keeps _ (abandonMove_keeps _ _ h)
    · exact ite_keeps (pump_keeps _ (abandonMove_keeps _ _ h)) (pump_keeps _ (switchMove_keeps _ _ _ (finalPlace_keeps _ _ _ h _ ‹_›)))

theorem execProbeTimer_keeps (node : ℕ) (s : State) (h_s : Canonical s) : ∀ t', execProbeTimer node s = .next t' → Canonical t' := by
  unfold execProbeTimer; grind [freeVal_keeps, setCtx_keeps, sendPlain_keeps, foldl_keeps, foldl_keeps_snd, Canonical.of_mk, Canonical.parts, FsKept.st, FsKept.after, FsKept.mk]

theorem execVecFma_keeps (s : State) (h_s : Canonical s) : ∀ t', execVecFma s = .next t' → Canonical t' := by
  unfold execVecFma; grind [issueWord_keeps, vecEffect_keeps, foldl_keeps, foldl_keeps_snd, Canonical.of_mk, Canonical.parts, FsKept.st, FsKept.after, FsKept.mk]

theorem execEventFoldExpiry_keeps (key : ℕ) (s : State) (h_s : Canonical s) : ∀ t', execEventFoldExpiry key s = .next t' → Canonical t' := by
  unfold execEventFoldExpiry; grind [State.onGov_keeps, foldl_keeps, foldl_keeps_snd, Canonical.of_mk, Canonical.parts, FsKept.st, FsKept.after, FsKept.mk]

theorem execSluiceMoveStart_keeps (q : Nat) (s : State) (h : Canonical s) : ∀ t', execSluiceMoveStart q s = .next t' → Canonical t' := by
  intro t e
  cases e
  refine ite_keeps h (ite_keeps (OptKept.getD (startFirst_kept _ _ _ h) h) (ite_keeps h ?_))
  split
  · exact startFirst_kept _ _ _ h _ ‹_›
  · split
    · exact startFirst_kept _ _ _ h _ ‹_›
    · split
      · next e' =>
        obtain ⟨p, _, e'⟩ := Option.bind_eq_some_iff.mp e'
        exact takePromo_keeps _ _ _ h _ e'
      · split
        · exact startFirst_kept _ _ _ h _ ‹_›
        · exact dropStuck_keeps _ _ h

theorem execSramParityError_keeps (e : SramError) (s : State) (h_s : Canonical s) : ∀ t', execSramParityError e s = .next t' → Canonical t' := by
  unfold execSramParityError; grind [armedFailures_keeps, countEvent_keeps, sramOutcome_keeps, setUnitH_keeps, foldl_keeps, foldl_keeps_snd, Canonical.of_mk, Canonical.parts, FsKept.st, FsKept.after, FsKept.mk]

theorem execFsOpen_keeps (c : FsCmd) (s : State) (h_s : Canonical s) : ∀ t', execFsOpen c s = .next t' → Canonical t' := by
  unfold execFsOpen; grind [runFelset_keeps, fsOpenBody_keeps, foldl_keeps, foldl_keeps_snd, Canonical.of_mk, Canonical.parts, FsKept.st, FsKept.after, FsKept.mk]

theorem execVecCmp_keeps (s : State) (h_s : Canonical s) : ∀ t', execVecCmp s = .next t' → Canonical t' := by
  unfold execVecCmp; grind [issueWord_keeps, vecEffect_keeps, foldl_keeps, foldl_keeps_snd, Canonical.of_mk, Canonical.parts, FsKept.st, FsKept.after, FsKept.mk]

theorem execResetNFall_keeps (s : State) (h_s : Canonical s) : ∀ t', execResetNFall s = .next t' → Canonical t' := by
  unfold execResetNFall; grind [State.onPwr_keeps, foldl_keeps, foldl_keeps_snd, Canonical.of_mk, Canonical.parts, FsKept.st, FsKept.after, FsKept.mk]

theorem execExtRevoke_keeps (c : FsCmd) (s : State) (h_s : Canonical s) : ∀ t', execExtRevoke c s = .next t' → Canonical t' := by
  unfold execExtRevoke; grind [runFelset_keeps, fsOk_keeps, pump_keeps, State.onSec_keeps, foldl_keeps, foldl_keeps_snd, Canonical.of_mk, Canonical.parts, FsKept.st, FsKept.after, FsKept.mk]

theorem execFsClose_keeps (c : FsCmd) (s : State) (h_s : Canonical s) : ∀ t', execFsClose c s = .next t' → Canonical t' := by
  unfold execFsClose; grind [runFelset_keeps, fsOk_keeps, closeFsession_keeps, foldl_keeps, foldl_keeps_snd, Canonical.of_mk, Canonical.parts, FsKept.st, FsKept.after, FsKept.mk]

theorem execSetDefine_keeps (c : FsCmd) (s : State) (h_s : Canonical s) : ∀ t', execSetDefine c s = .next t' → Canonical t' := by
  unfold execSetDefine; grind [runFelset_keeps, fsOk_keeps, pump_keeps, refreshSets_keeps, setSet_keeps, eraseRange_keeps, foldl_keeps, foldl_keeps_snd, Canonical.of_mk, Canonical.parts, FsKept.st, FsKept.after, FsKept.mk]

theorem execQnGroupDone_keeps (c : TxnReq) (s : State) (h_s : Canonical s) : ∀ t', execQnGroupDone c s = .next t' → Canonical t' := by
  unfold execQnGroupDone; grind [qnGroup_keeps, foldl_keeps, foldl_keeps_snd, Canonical.of_mk, Canonical.parts, FsKept.st, FsKept.after, FsKept.mk]

theorem execHalt_keeps (s : State) (h_s : Canonical s) : ∀ t', execHalt s = .next t' → Canonical t' := by
  unfold execHalt; grind [atIssue_keeps, foldl_keeps, foldl_keeps_snd, Canonical.of_mk, Canonical.parts, FsKept.st, FsKept.after, FsKept.mk]

theorem execCall_keeps (s : State) (h_s : Canonical s) : ∀ t', execCall s = .next t' → Canonical t' := by
  unfold execCall; grind [issueReq_keeps, scalarWord_keeps, launchOrHold_keeps, failWord_keeps, foldl_keeps, foldl_keeps_snd, Canonical.of_mk, Canonical.parts, FsKept.st, FsKept.after, FsKept.mk]

theorem execPllLockLoss_keeps (i : ℕ) (s : State) (h_s : Canonical s) : ∀ t', execPllLockLoss i s = .next t' → Canonical t' := by
  unfold execPllLockLoss; grind [setIsland_keeps, pump_keeps, boundaryLost_keeps, tokenAfterIsland_keeps, countEvent_keeps, foldl_keeps, foldl_keeps_snd, Canonical.of_mk, Canonical.parts, FsKept.st, FsKept.after, FsKept.mk]

theorem execRdOwn_keeps (c : TxnReq) (s : State) (h_s : Canonical s) : ∀ t', execRdOwn c s = .next t' → Canonical t' := by
  unfold execRdOwn; grind [request_keeps, foldl_keeps, foldl_keeps_snd, Canonical.of_mk, Canonical.parts, FsKept.st, FsKept.after, FsKept.mk]

theorem execHsLookup_keeps (c : TxnReq) (s : State) (h_s : Canonical s) : ∀ t', execHsLookup c s = .next t' → Canonical t' := by
  unfold execHsLookup; grind [request_keeps, foldl_keeps, foldl_keeps_snd, Canonical.of_mk, Canonical.parts, FsKept.st, FsKept.after, FsKept.mk]

theorem execMkReturn_keeps (c : FsCmd) (s : State) (h_s : Canonical s) : ∀ t', execMkReturn c s = .next t' → Canonical t' := by
  unfold execMkReturn; grind [runFelset_keeps, disablePart_keeps, closeSlot_keeps, fsOk_keeps, State.onNor_keeps, foldl_keeps, foldl_keeps_snd, Canonical.of_mk, Canonical.parts, FsKept.st, FsKept.after, FsKept.mk]

theorem execLi_keeps (s : State) (h_s : Canonical s) : ∀ t', execLi s = .next t' → Canonical t' := by
  unfold execLi; grind [atIssue_keeps, foldl_keeps, foldl_keeps_snd, Canonical.of_mk, Canonical.parts, FsKept.st, FsKept.after, FsKept.mk]

theorem execWake_keeps (c : FsCmd) (arrivedNs : Nat) (s : State) (h : Canonical s) : ∀ t', execWake c arrivedNs s = .next t' → Canonical t' := by
  intro t e
  cases e
  refine runFelset_keeps _ _ _ (fun se s hs => ?_) h
  dsimp only
  split
  · exact fsFail_keeps _ _ hs
  · exact ⟨applyRails_keeps _ (State.onPwr_keeps _ _ hs), fun s h => h⟩
  · exact ⟨hs, fun s h => h⟩
  · exact fsOk_keeps _ _ hs

theorem execRtoExpiry_keeps (node : ℕ) (s : State) (h_s : Canonical s) : ∀ t', execRtoExpiry node s = .next t' → Canonical t' := by
  unfold execRtoExpiry; grind [timeout_keeps, foldl_keeps, foldl_keeps_snd, Canonical.of_mk, Canonical.parts, FsKept.st, FsKept.after, FsKept.mk]

theorem execPartDisableFinish_keeps (part : ℕ) (s : State) (h_s : Canonical s) : ∀ t', execPartDisableFinish part s = .next t' → Canonical t' := by
  unfold execPartDisableFinish; grind [setPart_keeps, cwSetField_keeps, windowMoved_keeps, foldl_keeps, foldl_keeps_snd, Canonical.of_mk, Canonical.parts, FsKept.st, FsKept.after, FsKept.mk]

theorem execKeyRevoke_keeps (c : FsCmd) (s : State) (h_s : Canonical s) : ∀ t', execKeyRevoke c s = .next t' → Canonical t' := by
  unfold execKeyRevoke; grind [runFelset_keeps, fsOk_keeps, closeSlot_keeps, State.onNor_keeps, foldl_keeps, foldl_keeps_snd, Canonical.of_mk, Canonical.parts, FsKept.st, FsKept.after, FsKept.mk]

theorem execPartQuery_keeps (c : FsCmd) (s : State) (h_s : Canonical s) : ∀ t', execPartQuery c s = .next t' → Canonical t' := by
  unfold execPartQuery; grind [runFelset_keeps, fsOk_keeps, foldl_keeps, foldl_keeps_snd, Canonical.of_mk, Canonical.parts, FsKept.st, FsKept.after, FsKept.mk]

theorem execHotRefresh_keeps (slot : ℕ) (s : State) (h_s : Canonical s) : ∀ t', execHotRefresh slot s = .next t' → Canonical t' := by
  unfold execHotRefresh; grind [pump_keeps, refreshHot_keeps, foldl_keeps, foldl_keeps_snd, Canonical.of_mk, Canonical.parts, FsKept.st, FsKept.after, FsKept.mk]

theorem execHealthLogRead_keeps (c : FsCmd) (s : State) (h_s : Canonical s) : ∀ t', execHealthLogRead c s = .next t' → Canonical t' := by
  unfold execHealthLogRead; grind [runFelset_keeps, fsOk_keeps, foldl_keeps, foldl_keeps_snd, Canonical.of_mk, Canonical.parts, FsKept.st, FsKept.after, FsKept.mk]

theorem execUpgrade_keeps (c : TxnReq) (s : State) (h_s : Canonical s) : ∀ t', execUpgrade c s = .next t' → Canonical t' := by
  unfold execUpgrade; grind [request_keeps, foldl_keeps, foldl_keeps_snd, Canonical.of_mk, Canonical.parts, FsKept.st, FsKept.after, FsKept.mk]

theorem execGrantDrainDone_keeps (node : ℕ) (ext : ℕ) (s : State) (h_s : Canonical s) : ∀ t', execGrantDrainDone node ext s = .next t' → Canonical t' := by
  unfold execGrantDrainDone; grind [bump_keeps, State.onSec_keeps, foldl_keeps, foldl_keeps_snd, Canonical.of_mk, Canonical.parts, FsKept.st, FsKept.after, FsKept.mk]

theorem execSlowBayWindow_keeps (s : State) (h_s : Canonical s) : ∀ t', execSlowBayWindow s = .next t' → Canonical t' := by
  unfold execSlowBayWindow; grind [useSlowInject_keeps, State.onPwr_keeps, slowBayJudge_keeps, foldl_keeps, foldl_keeps_snd, Canonical.of_mk, Canonical.parts, FsKept.st, FsKept.after, FsKept.mk]

theorem execEvictClean_keeps (c : TxnReq) (s : State) (h_s : Canonical s) : ∀ t', execEvictClean c s = .next t' → Canonical t' := by
  unfold execEvictClean; grind [request_keeps, foldl_keeps, foldl_keeps_snd, Canonical.of_mk, Canonical.parts, FsKept.st, FsKept.after, FsKept.mk]

theorem execHsStepRelease_keeps (c : FsCmd) (s : State) (h_s : Canonical s) : ∀ t', execHsStepRelease c s = .next t' → Canonical t' := by
  unfold execHsStepRelease; grind [runFelset_keeps, fsFail_keeps, fsOk_keeps, pump_keeps, releaseStep_keeps, foldl_keeps, foldl_keeps_snd, Canonical.of_mk, Canonical.parts, FsKept.st, FsKept.after, FsKept.mk]

theorem execVecSqrt_keeps (s : State) (h_s : Canonical s) : ∀ t', execVecSqrt s = .next t' → Canonical t' := by
  unfold execVecSqrt; grind [issueWord_keeps, vecEffect_keeps, foldl_keeps, foldl_keeps_snd, Canonical.of_mk, Canonical.parts, FsKept.st, FsKept.after, FsKept.mk]

theorem execHsStepAbandon_keeps (c : TxnReq) (s : State) (h_s : Canonical s) : ∀ t', execHsStepAbandon c s = .next t' → Canonical t' := by
  unfold execHsStepAbandon; grind [hsStep_keeps, foldl_keeps, foldl_keeps_snd, Canonical.of_mk, Canonical.parts, FsKept.st, FsKept.after, FsKept.mk]

theorem execLivenessQuery_keeps (c : FsCmd) (s : State) (h_s : Canonical s) : ∀ t', execLivenessQuery c s = .next t' → Canonical t' := by
  unfold execLivenessQuery; grind [runFelset_keeps, freeVal_keeps, fsOk_keeps, foldl_keeps, foldl_keeps_snd, Canonical.of_mk, Canonical.parts, FsKept.st, FsKept.after, FsKept.mk]

theorem execStore_keeps (c : TxnReq) (s : State) (h_s : Canonical s) : ∀ t', execStore c s = .next t' → Canonical t' := by
  unfold execStore; grind [request_keeps, foldl_keeps, foldl_keeps_snd, Canonical.of_mk, Canonical.parts, FsKept.st, FsKept.after, FsKept.mk]

theorem execFurlEntryStep_keeps (s : State) (h_s : Canonical s) : ∀ t', execFurlEntryStep s = .next t' → Canonical t' := by
  unfold execFurlEntryStep; grind [furlAdvance_keeps, foldl_keeps, foldl_keeps_snd, Canonical.of_mk, Canonical.parts, FsKept.st, FsKept.after, FsKept.mk]

theorem execTierUsage_keeps (c : FsCmd) (s : State) (h_s : Canonical s) : ∀ t', execTierUsage c s = .next t' → Canonical t' := by
  unfold execTierUsage; grind [runFelset_keeps, fsOk_keeps, foldl_keeps, foldl_keeps_snd, Canonical.of_mk, Canonical.parts, FsKept.st, FsKept.after, FsKept.mk]

theorem execLoop_keeps (s : State) (h : Canonical s) : ∀ t', execLoop s = .next t' → Canonical t' := by
  intro t e
  cases e
  refine issueWord_keeps _ _ _ (fun a b s h => scalarWord_keeps _ _ _ _ (fun sid i s h => ?_) h) h
  exact ite_keeps (branchTo_keeps _ _ _ (setStream_keeps _ _ _ h)) (completeWord_keeps _ _ _ (setStream_keeps _ _ _ h))

theorem execCwRead_keeps (c : FsCmd) (s : State) (h_s : Canonical s) : ∀ t', execCwRead c s = .next t' → Canonical t' := by
  unfold execCwRead; grind [runFelset_keeps, fsOk_keeps, foldl_keeps, foldl_keeps_snd, Canonical.of_mk, Canonical.parts, FsKept.st, FsKept.after, FsKept.mk]

theorem execPatrolRead_keeps (line : ℕ) (syms : SymErr) (s : State) (h_s : Canonical s) : ∀ t', execPatrolRead line syms s = .next t' → Canonical t' := by
  unfold execPatrolRead; grind [tierRead_keeps, bump_keeps, foldl_keeps, foldl_keeps_snd, Canonical.of_mk, Canonical.parts, FsKept.st, FsKept.after, FsKept.mk]

theorem execPublish_keeps (c : TxnReq) (s : State) (h_s : Canonical s) : ∀ t', execPublish c s = .next t' → Canonical t' := by
  unfold execPublish; grind [request_keeps, foldl_keeps, foldl_keeps_snd, Canonical.of_mk, Canonical.parts, FsKept.st, FsKept.after, FsKept.mk]

theorem execRevokeDrainDone_keeps (ext : ℕ) (s : State) (h_s : Canonical s) : ∀ t', execRevokeDrainDone ext s = .next t' → Canonical t' := by
  unfold execRevokeDrainDone; grind [State.onSec_keeps, setExtent_keeps, foldl_keeps, foldl_keeps_snd, Canonical.of_mk, Canonical.parts, FsKept.st, FsKept.after, FsKept.mk]

theorem execTokenTransferDone_keeps (s : State) (h_s : Canonical s) : ∀ t', execTokenTransferDone s = .next t' → Canonical t' := by
  unfold execTokenTransferDone; grind [State.onMach_keeps, foldl_keeps, foldl_keeps_snd, Canonical.of_mk, Canonical.parts, FsKept.st, FsKept.after, FsKept.mk]

theorem execExtAssign_keeps (c : FsCmd) (s : State) (h_s : Canonical s) : ∀ t', execExtAssign c s = .next t' → Canonical t' := by
  unfold execExtAssign; grind [runFelset_keeps, fsOk_keeps, setExtent_keeps, foldl_keeps, foldl_keeps_snd, Canonical.of_mk, Canonical.parts, FsKept.st, FsKept.after, FsKept.mk]

theorem execOrderModeWrite_keeps (c : FsCmd) (s : State) (h_s : Canonical s) : ∀ t', execOrderModeWrite c s = .next t' → Canonical t' := by
  unfold execOrderModeWrite; grind [runFelset_keeps, cwWriteOp_keeps, foldl_keeps, foldl_keeps_snd, Canonical.of_mk, Canonical.parts, FsKept.st, FsKept.after, FsKept.mk]

theorem execBr_keeps (s : State) (h_s : Canonical s) : ∀ t', execBr s = .next t' → Canonical t' := by
  unfold execBr; grind [issueWord_keeps, scalarWord_keeps, branchTo_keeps, completeWord_keeps, foldl_keeps, foldl_keeps_snd, Canonical.of_mk, Canonical.parts, FsKept.st, FsKept.after, FsKept.mk]

theorem execSessionAccept_keeps (r : SessRec) (s : State) (h_s : Canonical s) : ∀ t', execSessionAccept r s = .next t' → Canonical t' := by
  unfold execSessionAccept; grind [sessionFail_keeps, newCtx_keeps, foldl_keeps, foldl_keeps_snd, Canonical.of_mk, Canonical.parts, FsKept.st, FsKept.after, FsKept.mk]

theorem execEcEncode_keeps (c : TxnReq) (s : State) (h_s : Canonical s) : ∀ t', execEcEncode c s = .next t' → Canonical t' := by
  unfold execEcEncode; grind [qnExec_keeps, foldl_keeps, foldl_keeps_snd, Canonical.of_mk, Canonical.parts, FsKept.st, FsKept.after, FsKept.mk]

theorem execVecDiv_keeps (s : State) (h_s : Canonical s) : ∀ t', execVecDiv s = .next t' → Canonical t' := by
  unfold execVecDiv; grind [issueWord_keeps, vecEffect_keeps, foldl_keeps, foldl_keeps_snd, Canonical.of_mk, Canonical.parts, FsKept.st, FsKept.after, FsKept.mk]

theorem execSnpInvResponse_keeps (r : SnpResp) (s : State) (h_s : Canonical s) : ∀ t', execSnpInvResponse r s = .next t' → Canonical t' := by
  unfold execSnpInvResponse; grind [pump_keeps, snoopAnswered_keeps, foldl_keeps, foldl_keeps_snd, Canonical.of_mk, Canonical.parts, FsKept.st, FsKept.after, FsKept.mk]

theorem execEcCombine_keeps (c : TxnReq) (s : State) (h_s : Canonical s) : ∀ t', execEcCombine c s = .next t' → Canonical t' := by
  unfold execEcCombine; grind [qnExec_keeps, foldl_keeps, foldl_keeps_snd, Canonical.of_mk, Canonical.parts, FsKept.st, FsKept.after, FsKept.mk]

theorem execProbeReply_keeps (node : ℕ) (plane : ℕ) (token : BitVec 32) (txTs : Word) (s : State) (h_s : Canonical s) : ∀ t', execProbeReply node plane token txTs s = .next t' → Canonical t' := by
  unfold execProbeReply; grind [setCtx_keeps, foldl_keeps, foldl_keeps_snd, Canonical.of_mk, Canonical.parts, FsKept.st, FsKept.after, FsKept.mk]

theorem execStoreMasked_keeps (c : TxnReq) (s : State) (h_s : Canonical s) : ∀ t', execStoreMasked c s = .next t' → Canonical t' := by
  unfold execStoreMasked; grind [request_keeps, foldl_keeps, foldl_keeps_snd, Canonical.of_mk, Canonical.parts, FsKept.st, FsKept.after, FsKept.mk]

theorem execSluiceDemoteTrigger_keeps (t : DemoteCause) (s : State) (h_s : Canonical s) : ∀ t', execSluiceDemoteTrigger t s = .next t' → Canonical t' := by
  unfold execSluiceDemoteTrigger; grind [requestMove_keeps, foldl_keeps, foldl_keeps_snd, Canonical.of_mk, Canonical.parts, FsKept.st, FsKept.after, FsKept.mk]

theorem execScrubStart_keeps (s : State) (h_s : Canonical s) : ∀ t', execScrubStart s = .next t' → Canonical t' := by
  unfold execScrubStart; grind [State.onSec_keeps, setExtent_keeps, foldl_keeps, foldl_keeps_snd, Canonical.of_mk, Canonical.parts, FsKept.st, FsKept.after, FsKept.mk]

theorem execRestartPowerUp_keeps (c : FsCmd) (b : Board) (s : State) (h_s : Canonical s) : ∀ t', execRestartPowerUp c b s = .next t' → Canonical t' := by
  unfold execRestartPowerUp; grind [runFelset_keeps, restartOp_keeps, runStart_keeps, powerUpReset_keeps, foldl_keeps, foldl_keeps_snd, Canonical.of_mk, Canonical.parts, FsKept.st, FsKept.after, FsKept.mk]

theorem execMmComplete_keeps (s : State) (h_s : Canonical s) : ∀ t', execMmComplete s = .next t' → Canonical t' := by
  unfold execMmComplete; grind [settle_keeps, completeWord_keeps, markChain_keeps, landWrites_keeps, mmStats_keeps, foldl_keeps, foldl_keeps_snd, Canonical.of_mk, Canonical.parts, FsKept.st, FsKept.after, FsKept.mk]

theorem execStoreFlag_keeps (c : TxnReq) (s : State) (h_s : Canonical s) : ∀ t', execStoreFlag c s = .next t' → Canonical t' := by
  unfold execStoreFlag; grind [request_keeps, foldl_keeps, foldl_keeps_snd, Canonical.of_mk, Canonical.parts, FsKept.st, FsKept.after, FsKept.mk]

theorem execTapInstructionUpdate_keeps (t : TapUpdate) (s : State) (h_s : Canonical s) : ∀ t', execTapInstructionUpdate t s = .next t' → Canonical t' := by
  unfold execTapInstructionUpdate; grind [State.onPwr_keeps, runStart_keeps, foldl_keeps, foldl_keeps_snd, Canonical.of_mk, Canonical.parts, FsKept.st, FsKept.after, FsKept.mk]

theorem execVecSel_keeps (s : State) (h_s : Canonical s) : ∀ t', execVecSel s = .next t' → Canonical t' := by
  unfold execVecSel; grind [issueWord_keeps, vecEffect_keeps, foldl_keeps, foldl_keeps_snd, Canonical.of_mk, Canonical.parts, FsKept.st, FsKept.after, FsKept.mk]

theorem execHsStepDone_keeps (c : TxnReq) (s : State) (h_s : Canonical s) : ∀ t', execHsStepDone c s = .next t' → Canonical t' := by
  unfold execHsStepDone; grind [hsStep_keeps, foldl_keeps, foldl_keeps_snd, Canonical.of_mk, Canonical.parts, FsKept.st, FsKept.after, FsKept.mk]

theorem execCombineDrainTimer_keeps (line : ℕ) (s : State) (h_s : Canonical s) : ∀ t', execCombineDrainTimer line s = .next t' → Canonical t' := by
  unfold execCombineDrainTimer; grind [pump_keeps, drainComb_keeps, foldl_keeps, foldl_keeps_snd, Canonical.of_mk, Canonical.parts, FsKept.st, FsKept.after, FsKept.mk]

theorem execLeatParityError_keeps (e : LeatError) (s : State) (h_s : Canonical s) : ∀ t', execLeatParityError e s = .next t' → Canonical t' := by
  unfold execLeatParityError; grind [armedFailures_keeps, countEvent_keeps, poisonLine_keeps, streamFault_keeps, itemFault_keeps, foldl_keeps, foldl_keeps_snd, Canonical.of_mk, Canonical.parts, FsKept.st, FsKept.after, FsKept.mk]

theorem execAtomicFadd_keeps (c : TxnReq) (s : State) (h_s : Canonical s) : ∀ t', execAtomicFadd c s = .next t' → Canonical t' := by
  unfold execAtomicFadd; grind [request_keeps, foldl_keeps, foldl_keeps_snd, Canonical.of_mk, Canonical.parts, FsKept.st, FsKept.after, FsKept.mk]

theorem execLinkReformDone_keeps (link : ℕ) (ok : Bool) (s : State) (h_s : Canonical s) : ∀ t', execLinkReformDone link ok s = .next t' → Canonical t' := by
  unfold execLinkReformDone; grind [linkUp_keeps, setLink_keeps, foldl_keeps, foldl_keeps_snd, Canonical.of_mk, Canonical.parts, FsKept.st, FsKept.after, FsKept.mk]

theorem execBayMapOut_keeps (s : State) (h_s : Canonical s) : ∀ t', execBayMapOut s = .next t' → Canonical t' := by
  unfold execBayMapOut; grind [mapOutBay_keeps, foldl_keeps, foldl_keeps_snd, Canonical.of_mk, Canonical.parts, FsKept.st, FsKept.after, FsKept.mk]

theorem execRestartDevice_keeps (c : FsCmd) (b : Board) (s : State) (h_s : Canonical s) : ∀ t', execRestartDevice c b s = .next t' → Canonical t' := by
  unfold execRestartDevice; grind [runFelset_keeps, restartOp_keeps, runStart_keeps, deviceReset_keeps, foldl_keeps, foldl_keeps_snd, Canonical.of_mk, Canonical.parts, FsKept.st, FsKept.after, FsKept.mk]

theorem execPortModeWrite_keeps (c : FsCmd) (s : State) (h_s : Canonical s) : ∀ t', execPortModeWrite c s = .next t' → Canonical t' := by
  unfold execPortModeWrite; grind [runFelset_keeps, cwWriteOp_keeps, foldl_keeps, foldl_keeps_snd, Canonical.of_mk, Canonical.parts, FsKept.st, FsKept.after, FsKept.mk]

theorem execAck_keeps (a : AckRec) (s : State) (h_s : Canonical s) : ∀ t', execAck a s = .next t' → Canonical t' := by
  unfold execAck; grind [closeAcked_keeps, applyAck_keeps, foldl_keeps, foldl_keeps_snd, Canonical.of_mk, Canonical.parts, FsKept.st, FsKept.after, FsKept.mk]

theorem execFurl_keeps (c : FsCmd) (s : State) (h_s : Canonical s) : ∀ t', execFurl c s = .next t' → Canonical t' := by
  unfold execFurl; grind [runFelset_keeps, fsOk_keeps, furlBegin_keeps, foldl_keeps, foldl_keeps_snd, Canonical.of_mk, Canonical.parts, FsKept.st, FsKept.after, FsKept.mk]

theorem execQnGroupQuery_keeps (c : FsCmd) (s : State) (h_s : Canonical s) : ∀ t', execQnGroupQuery c s = .next t' → Canonical t' := by
  unfold execQnGroupQuery; grind [runFelset_keeps, freeBytes_keeps, fsOk_keeps, foldl_keeps, foldl_keeps_snd, Canonical.of_mk, Canonical.parts, FsKept.st, FsKept.after, FsKept.mk]

theorem execVecRedRow_keeps (s : State) (h_s : Canonical s) : ∀ t', execVecRedRow s = .next t' → Canonical t' := by
  unfold execVecRedRow; grind [issueWord_keeps, vecEffect_keeps, foldl_keeps, foldl_keeps_snd, Canonical.of_mk, Canonical.parts, FsKept.st, FsKept.after, FsKept.mk]

theorem execStreamSchedule_keeps (s : State) (h_s : Canonical s) : ∀ t', execStreamSchedule s = .next t' → Canonical t' := by
  unfold execStreamSchedule; grind [beginStream_keeps, foldl_keeps, foldl_keeps_snd, Canonical.of_mk, Canonical.parts, FsKept.st, FsKept.after, FsKept.mk]

theorem execBlSearch_keeps (c : TxnReq) (s : State) (h_s : Canonical s) : ∀ t', execBlSearch c s = .next t' → Canonical t' := by
  unfold execBlSearch; grind [request_keeps, foldl_keeps, foldl_keeps_snd, Canonical.of_mk, Canonical.parts, FsKept.st, FsKept.after, FsKept.mk]

theorem execSessionOpen_keeps (r : SessRec) (s : State) (h_s : Canonical s) : ∀ t', execSessionOpen r s = .next t' → Canonical t' := by
  unfold execSessionOpen; grind [emit_keeps, emitOpenFrame_keeps, answerOpen_keeps, State.onKt_keeps, foldl_keeps, foldl_keeps_snd, Canonical.of_mk, Canonical.parts, FsKept.st, FsKept.after, FsKept.mk]

theorem execRateStepPauseEnd_keeps (i : ℕ) (s : State) (h_s : Canonical s) : ∀ t', execRateStepPauseEnd i s = .next t' → Canonical t' := by
  unfold execRateStepPauseEnd; grind [reopened_keeps, setIsland_keeps, foldl_keeps, foldl_keeps_snd, Canonical.of_mk, Canonical.parts, FsKept.st, FsKept.after, FsKept.mk]

theorem execSetForwardResponse_keeps (node : ℕ) (tag : ℕ) (status : ℕ) (a : OwnAnswer) (s : State) (h_s : Canonical s) : ∀ t', execSetForwardResponse node tag status a s = .next t' → Canonical t' := by
  unfold execSetForwardResponse; grind [setCtx_keeps, ownRetry_keeps, ownAnswered_keeps, pace_keeps, foldl_keeps, foldl_keeps_snd, Canonical.of_mk, Canonical.parts, FsKept.st, FsKept.after, FsKept.mk]

theorem execSnpDownResponse_keeps (r : SnpResp) (s : State) (h_s : Canonical s) : ∀ t', execSnpDownResponse r s = .next t' → Canonical t' := by
  unfold execSnpDownResponse; grind [pump_keeps, snoopAnswered_keeps, foldl_keeps, foldl_keeps_snd, Canonical.of_mk, Canonical.parts, FsKept.st, FsKept.after, FsKept.mk]

theorem execStaleConfigWrite_keeps (half : ℕ) (gen : ℕ) (s : State) (h_s : Canonical s) : ∀ t', execStaleConfigWrite half gen s = .next t' → Canonical t' := by
  unfold execStaleConfigWrite; grind [event_keeps, bump_keeps, State.onMach_keeps, foldl_keeps, foldl_keeps_snd, Canonical.of_mk, Canonical.parts, FsKept.st, FsKept.after, FsKept.mk]

theorem execWeirCopyMismatch_keeps (s : State) (h_s : Canonical s) : ∀ t', execWeirCopyMismatch s = .next t' → Canonical t' := by
  unfold execWeirCopyMismatch; grind [freeVal_keeps, setCtx_keeps, event_keeps, foldl_keeps, foldl_keeps_snd, Canonical.of_mk, Canonical.parts, FsKept.st, FsKept.after, FsKept.mk]

theorem execHandover_keeps (c : FsCmd) (s : State) (h_s : Canonical s) : ∀ t', execHandover c s = .next t' → Canonical t' := by
  unfold execHandover; grind [runFelset_keeps, cwWriteOp_keeps, foldl_keeps, foldl_keeps_snd, Canonical.of_mk, Canonical.parts, FsKept.st, FsKept.after, FsKept.mk]

theorem execCacherFlushTimeout_keeps (node : ℕ) (s : State) (h_s : Canonical s) : ∀ t', execCacherFlushTimeout node s = .next t' → Canonical t' := by
  unfold execCacherFlushTimeout; grind [beginClose_keeps, foldl_keeps, foldl_keeps_snd, Canonical.of_mk, Canonical.parts, FsKept.st, FsKept.after, FsKept.mk]

theorem execHsStepEnd_keeps (c : TxnReq) (s : State) (h_s : Canonical s) : ∀ t', execHsStepEnd c s = .next t' → Canonical t' := by
  unfold execHsStepEnd; grind [hsStep_keeps, foldl_keeps, foldl_keeps_snd, Canonical.of_mk, Canonical.parts, FsKept.st, FsKept.after, FsKept.mk]

theorem execQnContrib_keeps (c : TxnReq) (s : State) (h_s : Canonical s) : ∀ t', execQnContrib c s = .next t' → Canonical t' := by
  unfold execQnContrib; grind [request_keeps, foldl_keeps, foldl_keeps_snd, Canonical.of_mk, Canonical.parts, FsKept.st, FsKept.after, FsKept.mk]

theorem execAtomicOr_keeps (c : TxnReq) (s : State) (h_s : Canonical s) : ∀ t', execAtomicOr c s = .next t' → Canonical t' := by
  unfold execAtomicOr; grind [request_keeps, foldl_keeps, foldl_keeps_snd, Canonical.of_mk, Canonical.parts, FsKept.st, FsKept.after, FsKept.mk]

theorem execFiStop_keeps (c : FsCmd) (s : State) (h_s : Canonical s) : ∀ t', execFiStop c s = .next t' → Canonical t' := by
  unfold execFiStop; grind [runFelset_keeps, fsOk_keeps, endInject_keeps, foldl_keeps, foldl_keeps_snd, Canonical.of_mk, Canonical.parts, FsKept.st, FsKept.after, FsKept.mk]

theorem execKeyEnroll_keeps (c : FsCmd) (s : State) (h_s : Canonical s) : ∀ t', execKeyEnroll c s = .next t' → Canonical t' := by
  unfold execKeyEnroll; grind [runFelset_keeps, fsOk_keeps, closeSlot_keeps, State.onNor_keeps, foldl_keeps, foldl_keeps_snd, Canonical.of_mk, Canonical.parts, FsKept.st, FsKept.after, FsKept.mk]

theorem execEnterService_keeps (s : State) (h_s : Canonical s) : ∀ t', execEnterService s = .next t' → Canonical t' := by
  unfold execEnterService; grind [State.onHome_keeps, State.onEng_keeps, State.onGov_keeps, State.onKt_keeps, State.onStore_keeps, retireFailed_keeps, stepped_keeps, State.onPwr_keeps, foldl_keeps, foldl_keeps_snd, Canonical.of_mk, Canonical.parts, FsKept.st, FsKept.after, FsKept.mk]

theorem execPagePin_keeps (c : FsCmd) (s : State) (h_s : Canonical s) : ∀ t', execPagePin c s = .next t' → Canonical t' := by
  unfold execPagePin; grind [runFelset_keeps, fsOk_keeps, editPage_keeps, foldl_keeps, foldl_keeps_snd, Canonical.of_mk, Canonical.parts, FsKept.st, FsKept.after, FsKept.mk]

theorem execWbDirty_keeps (c : TxnReq) (s : State) (h_s : Canonical s) : ∀ t', execWbDirty c s = .next t' → Canonical t' := by
  unfold execWbDirty; grind [request_keeps, foldl_keeps, foldl_keeps_snd, Canonical.of_mk, Canonical.parts, FsKept.st, FsKept.after, FsKept.mk]

theorem execTokenHeartbeatMissed_keeps (s : State) (h_s : Canonical s) : ∀ t', execTokenHeartbeatMissed s = .next t' → Canonical t' := by
  unfold execTokenHeartbeatMissed; grind [State.onMach_keeps, moveToken_keeps, foldl_keeps, foldl_keeps_snd, Canonical.of_mk, Canonical.parts, FsKept.st, FsKept.after, FsKept.mk]

theorem execBlIndexQuery_keeps (c : FsCmd) (s : State) (h_s : Canonical s) : ∀ t', execBlIndexQuery c s = .next t' → Canonical t' := by
  unfold execBlIndexQuery; grind [runFelset_keeps, fsOk_keeps, foldl_keeps, foldl_keeps_snd, Canonical.of_mk, Canonical.parts, FsKept.st, FsKept.after, FsKept.mk]

theorem execQnGroupAbandon_keeps (c : TxnReq) (s : State) (h_s : Canonical s) : ∀ t', execQnGroupAbandon c s = .next t' → Canonical t' := by
  unfold execQnGroupAbandon; grind [qnGroup_keeps, foldl_keeps, foldl_keeps_snd, Canonical.of_mk, Canonical.parts, FsKept.st, FsKept.after, FsKept.mk]

theorem execSetRebuild_keeps (c : FsCmd) (s : State) (h_s : Canonical s) : ∀ t', execSetRebuild c s = .next t' → Canonical t' := by
  unfold execSetRebuild; grind [runFelset_keeps, fsOk_keeps, refreshSets_keeps, setSet_keeps, foldl_keeps, foldl_keeps_snd, Canonical.of_mk, Canonical.parts, FsKept.st, FsKept.after, FsKept.mk]

theorem execMm_keeps (s : State) (h_s : Canonical s) : ∀ t', execMm s = .next t' → Canonical t' := by
  unfold execMm; grind [issueWord_keeps, mmEffect_keeps, foldl_keeps, foldl_keeps_snd, Canonical.of_mk, Canonical.parts, FsKept.st, FsKept.after, FsKept.mk]

theorem execHsStepQuery_keeps (c : FsCmd) (s : State) (h_s : Canonical s) : ∀ t', execHsStepQuery c s = .next t' → Canonical t' := by
  unfold execHsStepQuery; grind [runFelset_keeps, freeBytes_keeps, fsOk_keeps, foldl_keeps, foldl_keeps_snd, Canonical.of_mk, Canonical.parts, FsKept.st, FsKept.after, FsKept.mk]

theorem execAtomicCas_keeps (c : TxnReq) (s : State) (h_s : Canonical s) : ∀ t', execAtomicCas c s = .next t' → Canonical t' := by
  unfold execAtomicCas; grind [request_keeps, foldl_keeps, foldl_keeps_snd, Canonical.of_mk, Canonical.parts, FsKept.st, FsKept.after, FsKept.mk]

theorem execCopyBay_keeps (s : State) (h_s : Canonical s) : ∀ t', execCopyBay s = .next t' → Canonical t' := by
  unfold execCopyBay; grind [issueWord_keeps, copyEffect_keeps, bayEffect_keeps, foldl_keeps, foldl_keeps_snd, Canonical.of_mk, Canonical.parts, FsKept.st, FsKept.after, FsKept.mk]

theorem execCwWrite_keeps (c : FsCmd) (s : State) (h_s : Canonical s) : ∀ t', execCwWrite c s = .next t' → Canonical t' := by
  unfold execCwWrite; grind [runFelset_keeps, cwWriteOp_keeps, foldl_keeps, foldl_keeps_snd, Canonical.of_mk, Canonical.parts, FsKept.st, FsKept.after, FsKept.mk]

theorem execCopy_keeps (c : TxnReq) (s : State) (h_s : Canonical s) : ∀ t', execCopy c s = .next t' → Canonical t' := by
  unfold execCopy; grind [qnExec_keeps, foldl_keeps, foldl_keeps_snd, Canonical.of_mk, Canonical.parts, FsKept.st, FsKept.after, FsKept.mk]

theorem execMsgTake_keeps (c : TxnReq) (s : State) (h_s : Canonical s) : ∀ t', execMsgTake c s = .next t' → Canonical t' := by
  unfold execMsgTake; grind [request_keeps, foldl_keeps, foldl_keeps_snd, Canonical.of_mk, Canonical.parts, FsKept.st, FsKept.after, FsKept.mk]

theorem execRetryBackoff_keeps (node : ℕ) (tag : ℕ) (s : State) (h_s : Canonical s) : ∀ t', execRetryBackoff node tag s = .next t' → Canonical t' := by
  unfold execRetryBackoff; grind [sendRec_keeps, setCtx_keeps, foldl_keeps, foldl_keeps_snd, Canonical.of_mk, Canonical.parts, FsKept.st, FsKept.after, FsKept.mk]

theorem execIslandLockTimeout_keeps (i : ℕ) (s : State) (h_s : Canonical s) : ∀ t', execIslandLockTimeout i s = .next t' → Canonical t' := by
  unfold execIslandLockTimeout; grind [countEvent_keeps, setIsland_keeps, runStart_keeps, failedRelock_keeps, foldl_keeps, foldl_keeps_snd, Canonical.of_mk, Canonical.parts, FsKept.st, FsKept.after, FsKept.mk]

theorem execFiFaultTick_keeps (inj : ℕ) (s : State) (h_s : Canonical s) : ∀ t', execFiFaultTick inj s = .next t' → Canonical t' := by
  unfold execFiFaultTick; grind [endInject_keeps, bump_keeps, State.onGov_keeps, faultNow_keeps, foldl_keeps, foldl_keeps_snd, Canonical.of_mk, Canonical.parts, FsKept.st, FsKept.after, FsKept.mk]

theorem execMkFuseRead_keeps (c : FsCmd) (s : State) (h_s : Canonical s) : ∀ t', execMkFuseRead c s = .next t' → Canonical t' := by
  unfold execMkFuseRead; grind [runFelset_keeps, fsOk_keeps, foldl_keeps, foldl_keeps_snd, Canonical.of_mk, Canonical.parts, FsKept.st, FsKept.after, FsKept.mk]

theorem execCallComplete_keeps (sid : ℕ) (num : ℕ) (s : State) (h_s : Canonical s) : ∀ t', execCallComplete sid num s = .next t' → Canonical t' := by
  unfold execCallComplete; grind [answerWord_keeps, callEnd_keeps, foldl_keeps, foldl_keeps_snd, Canonical.of_mk, Canonical.parts, FsKept.st, FsKept.after, FsKept.mk]

theorem execVecMul_keeps (s : State) (h_s : Canonical s) : ∀ t', execVecMul s = .next t' → Canonical t' := by
  unfold execVecMul; grind [issueWord_keeps, vecEffect_keeps, foldl_keeps, foldl_keeps_snd, Canonical.of_mk, Canonical.parts, FsKept.st, FsKept.after, FsKept.mk]

theorem execFsHello_keeps (c : FsCmd) (s : State) (h_s : Canonical s) : ∀ t', execFsHello c s = .next t' → Canonical t' := by
  unfold execFsHello; grind [runFelset_keeps, drbgBytes_keeps, fsOk_keeps, setCtx_keeps, foldl_keeps, foldl_keeps_snd, Canonical.of_mk, Canonical.parts, FsKept.st, FsKept.after, FsKept.mk]

theorem execExtRelease_keeps (c : FsCmd) (s : State) (h_s : Canonical s) : ∀ t', execExtRelease c s = .next t' → Canonical t' := by
  unfold execExtRelease; grind [runFelset_keeps, fsOk_keeps, takeExtents_keeps, foldl_keeps, foldl_keeps_snd, Canonical.of_mk, Canonical.parts, FsKept.st, FsKept.after, FsKept.mk]

theorem execKtFrameRx_keeps (f : RxFrame) (s : State) (h_s : Canonical s) : ∀ t', execKtFrameRx f s = .next t' → Canonical t' := by
  unfold execKtFrameRx; grind [frameRx_keeps, foldl_keeps, foldl_keeps_snd, Canonical.of_mk, Canonical.parts, FsKept.st, FsKept.after, FsKept.mk]

theorem execCopyIn_keeps (s : State) (h_s : Canonical s) : ∀ t', execCopyIn s = .next t' → Canonical t' := by
  unfold execCopyIn; grind [issueReq_keeps, copyEffect_keeps, submit_keeps, foldl_keeps, foldl_keeps_snd, Canonical.of_mk, Canonical.parts, FsKept.st, FsKept.after, FsKept.mk]

theorem execAvsReadTimeout_keeps (rail : ℕ) (sinceNs : ℕ) (s : State) (h_s : Canonical s) : ∀ t', execAvsReadTimeout rail sinceNs s = .next t' → Canonical t' := by
  unfold execAvsReadTimeout; grind [State.onPwr_keeps, foldl_keeps, foldl_keeps_snd, Canonical.of_mk, Canonical.parts, FsKept.st, FsKept.after, FsKept.mk]

theorem execImgVerifyDone_keeps (slot : Nat) (s : State) (h : Canonical s) : ∀ t', execImgVerifyDone slot s = .next t' → Canonical t' := by
  intro t e
  cases e
  extract_lets i
  have ht : ∀ (l : List Nat) s, Canonical s → Canonical (s.onStore fun x => { x with t3Ready := l }) := fun l s hs => State.onStore_keeps _ _ rfl hs
  refine ite_keeps h ?_
  split
  · exact verified_keeps _ _ _ h
  · extract_lets ls t3
    refine ite_keeps (verified_keeps _ _ _ h) ?_
    split
    · exact pump_keeps _ (ht _ _ (OptKept.getD (engReady_wait_kept ‹_› (ht _ _ h)) h))
    · exact verified_keeps _ _ _ (ht _ _ (engReady_bad_kept ‹_› (ht _ _ h)))
    · split
      next e => exact verified_keeps _ _ _ (ht _ _ (Canonical.of_pair e (engAccess_keeps _ _ _ (ht _ _ h))))

theorem execProbe_keeps (node : ℕ) (plane : ℕ) (token : BitVec 32) (txTs : Word) (s : State) (h_s : Canonical s) : ∀ t', execProbe node plane token txTs s = .next t' → Canonical t' := by
  unfold execProbe; grind [sendPlain_keeps, foldl_keeps, foldl_keeps_snd, Canonical.of_mk, Canonical.parts, FsKept.st, FsKept.after, FsKept.mk]

theorem execOperationBoundary_keeps (s : State) (h_s : Canonical s) : ∀ t', execOperationBoundary s = .next t' → Canonical t' := by
  unfold execOperationBoundary; grind [setStream_keeps, accrue_keeps, bump_keeps, State.onCore_keeps, foldl_keeps, foldl_keeps_snd, Canonical.of_mk, Canonical.parts, FsKept.st, FsKept.after, FsKept.mk]

theorem execImgActivate_keeps (c : FsCmd) (s : State) (h_s : Canonical s) : ∀ t', execImgActivate c s = .next t' → Canonical t' := by
  unfold execImgActivate; grind [runFelset_keeps, fsOk_keeps, State.onNor_keeps, setImg_keeps, foldl_keeps, foldl_keeps_snd, Canonical.of_mk, Canonical.parts, FsKept.st, FsKept.after, FsKept.mk]

theorem execHsHotRefresh_keeps (c : FsCmd) (s : State) (h_s : Canonical s) : ∀ t', execHsHotRefresh c s = .next t' → Canonical t' := by
  unfold execHsHotRefresh; grind [runFelset_keeps, fsOk_keeps, pump_keeps, refreshHot_keeps, foldl_keeps, foldl_keeps_snd, Canonical.of_mk, Canonical.parts, FsKept.st, FsKept.after, FsKept.mk]

theorem execT3ReadDone_keeps (r : NandRead) (s : State) (h_s : Canonical s) : ∀ t', execT3ReadDone r s = .next t' → Canonical t' := by
  unfold execT3ReadDone; grind [serveRead_keeps, setIsland_keeps, foldl_keeps, foldl_keeps_snd, Canonical.of_mk, Canonical.parts, FsKept.st, FsKept.after, FsKept.mk]

theorem execHomeDeadline_keeps (node : ℕ) (tag : ℕ) (s : State) (h_s : Canonical s) : ∀ t', execHomeDeadline node tag s = .next t' → Canonical t' := by
  unfold execHomeDeadline; grind [itemDead_keeps, foldl_keeps, foldl_keeps_snd, Canonical.of_mk, Canonical.parts, FsKept.st, FsKept.after, FsKept.mk]

theorem execResetNRise_keeps (lowNs : ℕ) (b : Board) (s : State) (h_s : Canonical s) : ∀ t', execResetNRise lowNs b s = .next t' → Canonical t' := by
  unfold execResetNRise; grind [State.onPwr_keeps, runStart_keeps, deviceReset_keeps, foldl_keeps, foldl_keeps_snd, Canonical.of_mk, Canonical.parts, FsKept.st, FsKept.after, FsKept.mk]

theorem execNack_keeps (node : ℕ) (ack : ℕ) (nextHeld : ℕ) (s : State) (h_s : Canonical s) : ∀ t', execNack node ack nextHeld s = .next t' → Canonical t' := by
  unfold execNack; grind [closeAcked_keeps, applyAck_keeps, timeout_keeps, setCtx_keeps, sendHeld_keeps, foldl_keeps, foldl_keeps_snd, Canonical.of_mk, Canonical.parts, FsKept.st, FsKept.after, FsKept.mk]

theorem execVecCvt_keeps (s : State) (h_s : Canonical s) : ∀ t', execVecCvt s = .next t' → Canonical t' := by
  unfold execVecCvt; grind [issueWord_keeps, vecEffect_keeps, foldl_keeps, foldl_keeps_snd, Canonical.of_mk, Canonical.parts, FsKept.st, FsKept.after, FsKept.mk]

theorem execPageMapLineFill_keeps (group : ℕ) (uncorrectable : Bool) (s : State) (h_s : Canonical s) : ∀ t', execPageMapLineFill group uncorrectable s = .next t' → Canonical t' := by
  unfold execPageMapLineFill; grind [pump_keeps, countEvent_keeps, State.onStore_keeps, mapTouch_keeps, foldl_keeps, foldl_keeps_snd, Canonical.of_mk, Canonical.parts, FsKept.st, FsKept.after, FsKept.mk]

theorem execBlMerge_keeps (c : TxnReq) (s : State) (h_s : Canonical s) : ∀ t', execBlMerge c s = .next t' → Canonical t' := by
  unfold execBlMerge; grind [request_keeps, foldl_keeps, foldl_keeps_snd, Canonical.of_mk, Canonical.parts, FsKept.st, FsKept.after, FsKept.mk]

theorem execQnEcdelta_keeps (c : TxnReq) (s : State) (h_s : Canonical s) : ∀ t', execQnEcdelta c s = .next t' → Canonical t' := by
  unfold execQnEcdelta; grind [request_keeps, foldl_keeps, foldl_keeps_snd, Canonical.of_mk, Canonical.parts, FsKept.st, FsKept.after, FsKept.mk]

theorem execHealthQuery_keeps (c : FsCmd) (s : State) (h_s : Canonical s) : ∀ t', execHealthQuery c s = .next t' → Canonical t' := by
  unfold execHealthQuery; grind [runFelset_keeps, freeBytes_keeps, fsOk_keeps, foldl_keeps, foldl_keeps_snd, Canonical.of_mk, Canonical.parts, FsKept.st, FsKept.after, FsKept.mk]

theorem execCompare_keeps (c : TxnReq) (s : State) (h_s : Canonical s) : ∀ t', execCompare c s = .next t' → Canonical t' := by
  unfold execCompare; grind [qnExec_keeps, foldl_keeps, foldl_keeps_snd, Canonical.of_mk, Canonical.parts, FsKept.st, FsKept.after, FsKept.mk]

theorem execRdShared_keeps (c : TxnReq) (s : State) (h_s : Canonical s) : ∀ t', execRdShared c s = .next t' → Canonical t' := by
  unfold execRdShared; grind [request_keeps, foldl_keeps, foldl_keeps_snd, Canonical.of_mk, Canonical.parts, FsKept.st, FsKept.after, FsKept.mk]

theorem execCwWriteMulti_keeps (c : FsCmd) (s : State) (h_s : Canonical s) : ∀ t', execCwWriteMulti c s = .next t' → Canonical t' := by
  unfold execCwWriteMulti; grind [runFelset_keeps, cwPlaced_keeps, fsFail_keeps, fsOk_keeps, CwEnt.commit_keeps, foldl_keeps, foldl_keeps_snd, Canonical.of_mk, Canonical.parts, FsKept.st, FsKept.after, FsKept.mk]

theorem execBlTimeCut_keeps (node : ℕ) (tag : ℕ) (s : State) (h_s : Canonical s) : ∀ t', execBlTimeCut node tag s = .next t' → Canonical t' := by
  unfold execBlTimeCut; grind [cutItem_keeps, foldl_keeps, foldl_keeps_snd, Canonical.of_mk, Canonical.parts, FsKept.st, FsKept.after, FsKept.mk]

theorem execArbiterFault_keeps (s : State) (h_s : Canonical s) : ∀ t', execArbiterFault s = .next t' → Canonical t' := by
  unfold execArbiterFault; grind [State.onGov_keeps, State.onMach_keeps, event_keeps, foldl_keeps, foldl_keeps_snd, Canonical.of_mk, Canonical.parts, FsKept.st, FsKept.after, FsKept.mk]

theorem execHsRowgrad_keeps (c : TxnReq) (s : State) (h_s : Canonical s) : ∀ t', execHsRowgrad c s = .next t' → Canonical t' := by
  unfold execHsRowgrad; grind [request_keeps, foldl_keeps, foldl_keeps_snd, Canonical.of_mk, Canonical.parts, FsKept.st, FsKept.after, FsKept.mk]

theorem execStreamWordFetch_keeps (idx : ℕ) (s : State) (h_s : Canonical s) : ∀ t', execStreamWordFetch idx s = .next t' → Canonical t' := by
  unfold execStreamWordFetch; grind [settle_keeps, fetchEnd_keeps, bump_keeps, pump_keeps, submit_keeps, foldl_keeps, foldl_keeps_snd, Canonical.of_mk, Canonical.parts, FsKept.st, FsKept.after, FsKept.mk]

theorem execAtomicSmax_keeps (c : TxnReq) (s : State) (h_s : Canonical s) : ∀ t', execAtomicSmax c s = .next t' → Canonical t' := by
  unfold execAtomicSmax; grind [request_keeps, foldl_keeps, foldl_keeps_snd, Canonical.of_mk, Canonical.parts, FsKept.st, FsKept.after, FsKept.mk]

theorem execAtomicSmin_keeps (c : TxnReq) (s : State) (h_s : Canonical s) : ∀ t', execAtomicSmin c s = .next t' → Canonical t' := by
  unfold execAtomicSmin; grind [request_keeps, foldl_keeps, foldl_keeps_snd, Canonical.of_mk, Canonical.parts, FsKept.st, FsKept.after, FsKept.mk]

theorem execVecRedAll_keeps (s : State) (h_s : Canonical s) : ∀ t', execVecRedAll s = .next t' → Canonical t' := by
  unfold execVecRedAll; grind [issueWord_keeps, vecEffect_keeps, foldl_keeps, foldl_keeps_snd, Canonical.of_mk, Canonical.parts, FsKept.st, FsKept.after, FsKept.mk]

theorem execSessionOpenResend_keeps (n : Nat) (s : State) (h : Canonical s) : ∀ t', execSessionOpenResend n s = .next t' → Canonical t' := by
  intro t e
  cases e
  extract_lets o keep send
  have hk : ∀ o, Canonical (keep o) := fun o => State.onKt_keeps _ _ h
  have hs : ∀ o, Canonical (send o) := fun o => emitOpenFrame_keeps _ _ _ _ _ (hk o)
  refine ite_keeps h (ite_keeps (ite_keeps h ?_) (ite_keeps h (ite_keeps (hk _) (hs _))))
  cases ctxRoom s with
  | free => exact hs _
  | closing => exact h
  | close v => exact closeIdle_keeps _ _ h
  | full => exact hk _

theorem execSetQuery_keeps (c : FsCmd) (s : State) (h_s : Canonical s) : ∀ t', execSetQuery c s = .next t' → Canonical t' := by
  unfold execSetQuery; grind [runFelset_keeps, fsOk_keeps, foldl_keeps, foldl_keeps_snd, Canonical.of_mk, Canonical.parts, FsKept.st, FsKept.after, FsKept.mk]

theorem execAtomicAdd_keeps (c : TxnReq) (s : State) (h_s : Canonical s) : ∀ t', execAtomicAdd c s = .next t' → Canonical t' := by
  unfold execAtomicAdd; grind [request_keeps, foldl_keeps, foldl_keeps_snd, Canonical.of_mk, Canonical.parts, FsKept.st, FsKept.after, FsKept.mk]

theorem execSnoopLimitExpiry_keeps (line : ℕ) (s : State) (h_s : Canonical s) : ∀ t', execSnoopLimitExpiry line s = .next t' → Canonical t' := by
  unfold execSnoopLimitExpiry; grind [pump_keeps, sweepLate_keeps, event_keeps, bump_keeps, setDir_keeps, foldl_keeps, foldl_keeps_snd, Canonical.of_mk, Canonical.parts, FsKept.st, FsKept.after, FsKept.mk]

theorem execAtomicUmin_keeps (c : TxnReq) (s : State) (h_s : Canonical s) : ∀ t', execAtomicUmin c s = .next t' → Canonical t' := by
  unfold execAtomicUmin; grind [request_keeps, foldl_keeps, foldl_keeps_snd, Canonical.of_mk, Canonical.parts, FsKept.st, FsKept.after, FsKept.mk]

theorem execSessionIdleClose_keeps (node : ℕ) (s : State) (h_s : Canonical s) : ∀ t', execSessionIdleClose node s = .next t' → Canonical t' := by
  unfold execSessionIdleClose; grind [closeIdle_keeps, foldl_keeps, foldl_keeps_snd, Canonical.of_mk, Canonical.parts, FsKept.st, FsKept.after, FsKept.mk]

theorem execSt_keeps (s : State) (h_s : Canonical s) : ∀ t', execSt s = .next t' → Canonical t' := by
  unfold execSt; grind [issueReq_keeps, scalarWord_keeps, failWord_keeps, launchOrHold_keeps, foldl_keeps, foldl_keeps_snd, Canonical.of_mk, Canonical.parts, FsKept.st, FsKept.after, FsKept.mk]

theorem execDigest_keeps (c : TxnReq) (s : State) (h_s : Canonical s) : ∀ t', execDigest c s = .next t' → Canonical t' := by
  unfold execDigest; grind [qnExec_keeps, foldl_keeps, foldl_keeps_snd, Canonical.of_mk, Canonical.parts, FsKept.st, FsKept.after, FsKept.mk]

end Sys2Proof.Machine
end

