-- ==== Sys2Proof/Laws/Dispatch.lean ====
section
/-! SUPPORT. The dispatch, arm by arm: exec of each command is that command's meaning. -/

namespace Sys2Proof.Machine

@[simp] theorem exec_powerGoodRise (b : Board) (s : State) : exec (.powerGoodRise b) s = execPowerGoodRise b s := rfl
@[simp] theorem exec_powerGoodFall (s : State) : exec (.powerGoodFall) s = execPowerGoodFall s := rfl
@[simp] theorem exec_resetNRise (lowNs : Nat) (b : Board) (s : State) : exec (.resetNRise lowNs b) s = execResetNRise lowNs b s := rfl
@[simp] theorem exec_resetNFall (s : State) : exec (.resetNFall) s = execResetNFall s := rfl
@[simp] theorem exec_enterService (s : State) : exec (.enterService) s = execEnterService s := rfl
@[simp] theorem exec_startHalt (s : State) : exec (.startHalt) s = execStartHalt s := rfl
@[simp] theorem exec_thermalTrip (s : State) : exec (.thermalTrip) s = execThermalTrip s := rfl
@[simp] theorem exec_pllLockLoss (idx : Nat) (s : State) : exec (.pllLockLoss idx) s = execPllLockLoss idx s := rfl
@[simp] theorem exec_islandRelock (idx : Nat) (ok : Bool) (s : State) : exec (.islandRelock idx ok) s = execIslandRelock idx ok s := rfl
@[simp] theorem exec_islandLockTimeout (idx : Nat) (s : State) : exec (.islandLockTimeout idx) s = execIslandLockTimeout idx s := rfl
@[simp] theorem exec_rateStepPauseEnd (idx : Nat) (s : State) : exec (.rateStepPauseEnd idx) s = execRateStepPauseEnd idx s := rfl
@[simp] theorem exec_bayBeatWindow (b rate beats : Nat) (s : State) : exec (.bayBeatWindow b rate beats) s = execBayBeatWindow b rate beats s := rfl
@[simp] theorem exec_timestampCompare (drift : Int) (s : State) : exec (.timestampCompare drift) s = execTimestampCompare drift s := rfl
@[simp] theorem exec_railSetWrite (c : FsCmd) (s : State) : exec (.railSetWrite c) s = execRailSetWrite c s := rfl
@[simp] theorem exec_powerSample (r : RailReadings) (s : State) : exec (.powerSample r) s = execPowerSample r s := rfl
@[simp] theorem exec_avsReadTimeout (rail sinceNs : Nat) (s : State) : exec (.avsReadTimeout rail sinceNs) s = execAvsReadTimeout rail sinceNs s := rfl
@[simp] theorem exec_decayEpoch (s : State) : exec (.decayEpoch) s = execDecayEpoch s := rfl
@[simp] theorem exec_heatSweep (s : State) : exec (.heatSweep) s = execHeatSweep s := rfl
@[simp] theorem exec_sluiceMoveStart (q : Nat) (s : State) : exec (.sluiceMoveStart q) s = execSluiceMoveStart q s := rfl
@[simp] theorem exec_sluiceDemoteTrigger (t : DemoteCause) (s : State) : exec (.sluiceDemoteTrigger t) s = execSluiceDemoteTrigger t s := rfl
@[simp] theorem exec_moveSwitch (page : Nat) (s : State) : exec (.moveSwitch page) s = execMoveSwitch page s := rfl
@[simp] theorem exec_pageMapLineFill (group : Nat) (uncorrectable : Bool) (s : State) : exec (.pageMapLineFill group uncorrectable) s = execPageMapLineFill group uncorrectable s := rfl
@[simp] theorem exec_t3ReadDone (r : NandRead) (s : State) : exec (.t3ReadDone r) s = execT3ReadDone r s := rfl
@[simp] theorem exec_millpondGcStart (q : Nat) (s : State) : exec (.millpondGcStart q) s = execMillpondGcStart q s := rfl
@[simp] theorem exec_millpondBlockErase (q blk : Nat) (s : State) : exec (.millpondBlockErase q blk) s = execMillpondBlockErase q blk s := rfl
@[simp] theorem exec_millpondProgramDone (q blk : Nat) (ok : Bool) (s : State) : exec (.millpondProgramDone q blk ok) s = execMillpondProgramDone q blk ok s := rfl
@[simp] theorem exec_millpondScanDone (q : Nat) (s : State) : exec (.millpondScanDone q) s = execMillpondScanDone q s := rfl
@[simp] theorem exec_ktFrameRx (f : RxFrame) (s : State) : exec (.ktFrameRx f) s = execKtFrameRx f s := rfl
@[simp] theorem exec_ack (a : AckRec) (s : State) : exec (.ack a) s = execAck a s := rfl
@[simp] theorem exec_nack (node ack nextHeld : Nat) (s : State) : exec (.nack node ack nextHeld) s = execNack node ack nextHeld s := rfl
@[simp] theorem exec_probe (node plane : Nat) (token : BitVec 32) (txTs : Word) (s : State) : exec (.probe node plane token txTs) s = execProbe node plane token txTs s := rfl
@[simp] theorem exec_probeReply (node plane : Nat) (token : BitVec 32) (txTs : Word) (s : State) : exec (.probeReply node plane token txTs) s = execProbeReply node plane token txTs s := rfl
@[simp] theorem exec_ackTimer (node : Nat) (s : State) : exec (.ackTimer node) s = execAckTimer node s := rfl
@[simp] theorem exec_rtoExpiry (node : Nat) (s : State) : exec (.rtoExpiry node) s = execRtoExpiry node s := rfl
@[simp] theorem exec_probeTimer (node : Nat) (s : State) : exec (.probeTimer node) s = execProbeTimer node s := rfl
@[simp] theorem exec_linkDown (link : Nat) (s : State) : exec (.linkDown link) s = execLinkDown link s := rfl
@[simp] theorem exec_linkReformDone (link : Nat) (ok : Bool) (s : State) : exec (.linkReformDone link ok) s = execLinkReformDone link ok s := rfl
@[simp] theorem exec_portModeWrite (c : FsCmd) (s : State) : exec (.portModeWrite c) s = execPortModeWrite c s := rfl
@[simp] theorem exec_sessionOpen (r : SessRec) (s : State) : exec (.sessionOpen r) s = execSessionOpen r s := rfl
@[simp] theorem exec_sessionOpenDone (node : Nat) (s : State) : exec (.sessionOpenDone node) s = execSessionOpenDone node s := rfl
@[simp] theorem exec_sessionAccept (r : SessRec) (s : State) : exec (.sessionAccept r) s = execSessionAccept r s := rfl
@[simp] theorem exec_sessionOpenResend (node : Nat) (s : State) : exec (.sessionOpenResend node) s = execSessionOpenResend node s := rfl
@[simp] theorem exec_sessionClose (node reason : Nat) (s : State) : exec (.sessionClose node reason) s = execSessionClose node reason s := rfl
@[simp] theorem exec_sessionIdleClose (node : Nat) (s : State) : exec (.sessionIdleClose node) s = execSessionIdleClose node s := rfl
@[simp] theorem exec_cacherFlushTimeout (node : Nat) (s : State) : exec (.cacherFlushTimeout node) s = execCacherFlushTimeout node s := rfl
@[simp] theorem exec_saRekey (node : Nat) (sc : SaEnd) (s : State) : exec (.saRekey node sc) s = execSaRekey node sc s := rfl
@[simp] theorem exec_load (c : TxnReq) (syms : SymErr) (s : State) : exec (.load c syms) s = execLoad c syms s := rfl
@[simp] theorem exec_loadLines (c : TxnReq) (s : State) : exec (.loadLines c) s = execLoadLines c s := rfl
@[simp] theorem exec_store (c : TxnReq) (s : State) : exec (.store c) s = execStore c s := rfl
@[simp] theorem exec_storeMasked (c : TxnReq) (s : State) : exec (.storeMasked c) s = execStoreMasked c s := rfl
@[simp] theorem exec_storeLines (c : TxnReq) (s : State) : exec (.storeLines c) s = execStoreLines c s := rfl
@[simp] theorem exec_storeFlag (c : TxnReq) (s : State) : exec (.storeFlag c) s = execStoreFlag c s := rfl
@[simp] theorem exec_atomicAdd (c : TxnReq) (s : State) : exec (.atomicAdd c) s = execAtomicAdd c s := rfl
@[simp] theorem exec_atomicFadd (c : TxnReq) (s : State) : exec (.atomicFadd c) s = execAtomicFadd c s := rfl
@[simp] theorem exec_atomicAnd (c : TxnReq) (s : State) : exec (.atomicAnd c) s = execAtomicAnd c s := rfl
@[simp] theorem exec_atomicOr (c : TxnReq) (s : State) : exec (.atomicOr c) s = execAtomicOr c s := rfl
@[simp] theorem exec_atomicXor (c : TxnReq) (s : State) : exec (.atomicXor c) s = execAtomicXor c s := rfl
@[simp] theorem exec_atomicSmin (c : TxnReq) (s : State) : exec (.atomicSmin c) s = execAtomicSmin c s := rfl
@[simp] theorem exec_atomicSmax (c : TxnReq) (s : State) : exec (.atomicSmax c) s = execAtomicSmax c s := rfl
@[simp] theorem exec_atomicUmin (c : TxnReq) (s : State) : exec (.atomicUmin c) s = execAtomicUmin c s := rfl
@[simp] theorem exec_atomicUmax (c : TxnReq) (s : State) : exec (.atomicUmax c) s = execAtomicUmax c s := rfl
@[simp] theorem exec_atomicSwap (c : TxnReq) (s : State) : exec (.atomicSwap c) s = execAtomicSwap c s := rfl
@[simp] theorem exec_atomicCas (c : TxnReq) (s : State) : exec (.atomicCas c) s = execAtomicCas c s := rfl
@[simp] theorem exec_publish (c : TxnReq) (s : State) : exec (.publish c) s = execPublish c s := rfl
@[simp] theorem exec_msgAppend (c : TxnReq) (s : State) : exec (.msgAppend c) s = execMsgAppend c s := rfl
@[simp] theorem exec_msgTake (c : TxnReq) (s : State) : exec (.msgTake c) s = execMsgTake c s := rfl
@[simp] theorem exec_combineDrainTimer (line : Nat) (s : State) : exec (.combineDrainTimer line) s = execCombineDrainTimer line s := rfl
@[simp] theorem exec_homeDeadline (node tag : Nat) (s : State) : exec (.homeDeadline node tag) s = execHomeDeadline node tag s := rfl
@[simp] theorem exec_requestDeadline (node tag : Nat) (s : State) : exec (.requestDeadline node tag) s = execRequestDeadline node tag s := rfl
@[simp] theorem exec_retryBackoff (node tag : Nat) (s : State) : exec (.retryBackoff node tag) s = execRetryBackoff node tag s := rfl
@[simp] theorem exec_weirWindow (busyA capA busyB capB : Nat) (s : State) : exec (.weirWindow busyA capA busyB capB) s = execWeirWindow busyA capA busyB capB s := rfl
@[simp] theorem exec_rdShared (c : TxnReq) (s : State) : exec (.rdShared c) s = execRdShared c s := rfl
@[simp] theorem exec_rdOwn (c : TxnReq) (s : State) : exec (.rdOwn c) s = execRdOwn c s := rfl
@[simp] theorem exec_upgrade (c : TxnReq) (s : State) : exec (.upgrade c) s = execUpgrade c s := rfl
@[simp] theorem exec_wbDirty (c : TxnReq) (s : State) : exec (.wbDirty c) s = execWbDirty c s := rfl
@[simp] theorem exec_evictClean (c : TxnReq) (s : State) : exec (.evictClean c) s = execEvictClean c s := rfl
@[simp] theorem exec_grantAck (c : TxnReq) (s : State) : exec (.grantAck c) s = execGrantAck c s := rfl
@[simp] theorem exec_snpInvResponse (r : SnpResp) (s : State) : exec (.snpInvResponse r) s = execSnpInvResponse r s := rfl
@[simp] theorem exec_snpDownResponse (r : SnpResp) (s : State) : exec (.snpDownResponse r) s = execSnpDownResponse r s := rfl
@[simp] theorem exec_snpFlushBayResponse (node tag : Nat) (s : State) : exec (.snpFlushBayResponse node tag) s = execSnpFlushBayResponse node tag s := rfl
@[simp] theorem exec_raceInvReturn (line : Nat) (s : State) : exec (.raceInvReturn line) s = execRaceInvReturn line s := rfl
@[simp] theorem exec_snoopLimitExpiry (line : Nat) (s : State) : exec (.snoopLimitExpiry line) s = execSnoopLimitExpiry line s := rfl
@[simp] theorem exec_sliceFlushTimeout (bay : Nat) (s : State) : exec (.sliceFlushTimeout bay) s = execSliceFlushTimeout bay s := rfl
@[simp] theorem exec_runStream (c : FsCmd) (s : State) : exec (.runStream c) s = execRunStream c s := rfl
@[simp] theorem exec_abortStream (c : FsCmd) (s : State) : exec (.abortStream c) s = execAbortStream c s := rfl
@[simp] theorem exec_queryStream (c : FsCmd) (s : State) : exec (.queryStream c) s = execQueryStream c s := rfl
@[simp] theorem exec_streamSchedule (s : State) : exec (.streamSchedule) s = execStreamSchedule s := rfl
@[simp] theorem exec_sliceUsExpiry (s : State) : exec (.sliceUsExpiry) s = execSliceUsExpiry s := rfl
@[simp] theorem exec_operationBoundary (s : State) : exec (.operationBoundary) s = execOperationBoundary s := rfl
@[simp] theorem exec_maxMsExpiry (s : State) : exec (.maxMsExpiry) s = execMaxMsExpiry s := rfl
@[simp] theorem exec_streamWordFetch (idx : Nat) (s : State) : exec (.streamWordFetch idx) s = execStreamWordFetch idx s := rfl
@[simp] theorem exec_nop (s : State) : exec (.nop) s = execNop s := rfl
@[simp] theorem exec_halt (s : State) : exec (.halt) s = execHalt s := rfl
@[simp] theorem exec_li (s : State) : exec (.li) s = execLi s := rfl
@[simp] theorem exec_alu (s : State) : exec (.alu) s = execAlu s := rfl
@[simp] theorem exec_br (s : State) : exec (.br) s = execBr s := rfl
@[simp] theorem exec_loop (s : State) : exec (.loop) s = execLoop s := rfl
@[simp] theorem exec_ld (s : State) : exec (.ld) s = execLd s := rfl
@[simp] theorem exec_st (s : State) : exec (.st) s = execSt s := rfl
@[simp] theorem exec_waitAll (s : State) : exec (.waitAll) s = execWaitAll s := rfl
@[simp] theorem exec_waitMulti (s : State) : exec (.waitMulti) s = execWaitMulti s := rfl
@[simp] theorem exec_tokenSet (s : State) : exec (.tokenSet) s = execTokenSet s := rfl
@[simp] theorem exec_notifyWord (s : State) : exec (.notifyWord) s = execNotifyWord s := rfl
@[simp] theorem exec_call (s : State) : exec (.call) s = execCall s := rfl
@[simp] theorem exec_mm (s : State) : exec (.mm) s = execMm s := rfl
@[simp] theorem exec_vecAdd (s : State) : exec (.vecAdd) s = execVecAdd s := rfl
@[simp] theorem exec_vecSub (s : State) : exec (.vecSub) s = execVecSub s := rfl
@[simp] theorem exec_vecMul (s : State) : exec (.vecMul) s = execVecMul s := rfl
@[simp] theorem exec_vecFma (s : State) : exec (.vecFma) s = execVecFma s := rfl
@[simp] theorem exec_vecMin (s : State) : exec (.vecMin) s = execVecMin s := rfl
@[simp] theorem exec_vecMax (s : State) : exec (.vecMax) s = execVecMax s := rfl
@[simp] theorem exec_vecCmp (s : State) : exec (.vecCmp) s = execVecCmp s := rfl
@[simp] theorem exec_vecSel (s : State) : exec (.vecSel) s = execVecSel s := rfl
@[simp] theorem exec_vecDiv (s : State) : exec (.vecDiv) s = execVecDiv s := rfl
@[simp] theorem exec_vecSqrt (s : State) : exec (.vecSqrt) s = execVecSqrt s := rfl
@[simp] theorem exec_vecFunc1 (s : State) : exec (.vecFunc1) s = execVecFunc1 s := rfl
@[simp] theorem exec_vecCvt (s : State) : exec (.vecCvt) s = execVecCvt s := rfl
@[simp] theorem exec_vecCvtBs (s : State) : exec (.vecCvtBs) s = execVecCvtBs s := rfl
@[simp] theorem exec_vecRedRow (s : State) : exec (.vecRedRow) s = execVecRedRow s := rfl
@[simp] theorem exec_vecRedAll (s : State) : exec (.vecRedAll) s = execVecRedAll s := rfl
@[simp] theorem exec_copyIn (s : State) : exec (.copyIn) s = execCopyIn s := rfl
@[simp] theorem exec_copyOut (s : State) : exec (.copyOut) s = execCopyOut s := rfl
@[simp] theorem exec_copyBay (s : State) : exec (.copyBay) s = execCopyBay s := rfl
@[simp] theorem exec_mmComplete (s : State) : exec (.mmComplete) s = execMmComplete s := rfl
@[simp] theorem exec_vectorComplete (s : State) : exec (.vectorComplete) s = execVectorComplete s := rfl
@[simp] theorem exec_dmaCopyComplete (sid num : Nat) (s : State) : exec (.dmaCopyComplete sid num) s = execDmaCopyComplete sid num s := rfl
@[simp] theorem exec_ldComplete (sid num : Nat) (s : State) : exec (.ldComplete sid num) s = execLdComplete sid num s := rfl
@[simp] theorem exec_stComplete (sid num : Nat) (s : State) : exec (.stComplete sid num) s = execStComplete sid num s := rfl
@[simp] theorem exec_callComplete (sid num : Nat) (s : State) : exec (.callComplete sid num) s = execCallComplete sid num s := rfl
@[simp] theorem exec_fill (c : TxnReq) (s : State) : exec (.fill c) s = execFill c s := rfl
@[simp] theorem exec_copy (c : TxnReq) (s : State) : exec (.copy c) s = execCopy c s := rfl
@[simp] theorem exec_compare (c : TxnReq) (s : State) : exec (.compare c) s = execCompare c s := rfl
@[simp] theorem exec_reduce (c : TxnReq) (s : State) : exec (.reduce c) s = execReduce c s := rfl
@[simp] theorem exec_digest (c : TxnReq) (s : State) : exec (.digest c) s = execDigest c s := rfl
@[simp] theorem exec_ecEncode (c : TxnReq) (s : State) : exec (.ecEncode c) s = execEcEncode c s := rfl
@[simp] theorem exec_ecCombine (c : TxnReq) (s : State) : exec (.ecCombine c) s = execEcCombine c s := rfl
@[simp] theorem exec_qnPortionDone (inv portion : Nat) (s : State) : exec (.qnPortionDone inv portion) s = execQnPortionDone inv portion s := rfl
@[simp] theorem exec_qnContrib (c : TxnReq) (s : State) : exec (.qnContrib c) s = execQnContrib c s := rfl
@[simp] theorem exec_qnGroupOpen (c : TxnReq) (s : State) : exec (.qnGroupOpen c) s = execQnGroupOpen c s := rfl
@[simp] theorem exec_qnGroupDone (c : TxnReq) (s : State) : exec (.qnGroupDone c) s = execQnGroupDone c s := rfl
@[simp] theorem exec_qnGroupAbandon (c : TxnReq) (s : State) : exec (.qnGroupAbandon c) s = execQnGroupAbandon c s := rfl
@[simp] theorem exec_qnEcdelta (c : TxnReq) (s : State) : exec (.qnEcdelta c) s = execQnEcdelta c s := rfl
@[simp] theorem exec_hsLookup (c : TxnReq) (s : State) : exec (.hsLookup c) s = execHsLookup c s := rfl
@[simp] theorem exec_hsGrad (c : TxnReq) (s : State) : exec (.hsGrad c) s = execHsGrad c s := rfl
@[simp] theorem exec_hsRowgrad (c : TxnReq) (s : State) : exec (.hsRowgrad c) s = execHsRowgrad c s := rfl
@[simp] theorem exec_hsStepOpen (c : TxnReq) (s : State) : exec (.hsStepOpen c) s = execHsStepOpen c s := rfl
@[simp] theorem exec_hsStepDone (c : TxnReq) (s : State) : exec (.hsStepDone c) s = execHsStepDone c s := rfl
@[simp] theorem exec_hsStepCloseDone (table : Nat) (s : State) : exec (.hsStepCloseDone table) s = execHsStepCloseDone table s := rfl
@[simp] theorem exec_hsStepAbandon (c : TxnReq) (s : State) : exec (.hsStepAbandon c) s = execHsStepAbandon c s := rfl
@[simp] theorem exec_hsStepEnd (c : TxnReq) (s : State) : exec (.hsStepEnd c) s = execHsStepEnd c s := rfl
@[simp] theorem exec_hotRefresh (slot : Nat) (s : State) : exec (.hotRefresh slot) s = execHotRefresh slot s := rfl
@[simp] theorem exec_blSearch (c : TxnReq) (s : State) : exec (.blSearch c) s = execBlSearch c s := rfl
@[simp] theorem exec_blTimeCut (node tag : Nat) (s : State) : exec (.blTimeCut node tag) s = execBlTimeCut node tag s := rfl
@[simp] theorem exec_blInsert (c : TxnReq) (s : State) : exec (.blInsert c) s = execBlInsert c s := rfl
@[simp] theorem exec_blDelete (c : TxnReq) (s : State) : exec (.blDelete c) s = execBlDelete c s := rfl
@[simp] theorem exec_blMerge (c : TxnReq) (s : State) : exec (.blMerge c) s = execBlMerge c s := rfl
@[simp] theorem exec_fsHello (c : FsCmd) (s : State) : exec (.fsHello c) s = execFsHello c s := rfl
@[simp] theorem exec_fsOpen (c : FsCmd) (s : State) : exec (.fsOpen c) s = execFsOpen c s := rfl
@[simp] theorem exec_fsClose (c : FsCmd) (s : State) : exec (.fsClose c) s = execFsClose c s := rfl
@[simp] theorem exec_fsIdleExpiry (fsid : Nat) (s : State) : exec (.fsIdleExpiry fsid) s = execFsIdleExpiry fsid s := rfl
@[simp] theorem exec_identity (c : FsCmd) (s : State) : exec (.identity c) s = execIdentity c s := rfl
@[simp] theorem exec_attest (c : FsCmd) (s : State) : exec (.attest c) s = execAttest c s := rfl
@[simp] theorem exec_auditRead (c : FsCmd) (s : State) : exec (.auditRead c) s = execAuditRead c s := rfl
@[simp] theorem exec_auditHead (c : FsCmd) (s : State) : exec (.auditHead c) s = execAuditHead c s := rfl
@[simp] theorem exec_auditAck (c : FsCmd) (s : State) : exec (.auditAck c) s = execAuditAck c s := rfl
@[simp] theorem exec_auditEraseDone (s : State) : exec (.auditEraseDone) s = execAuditEraseDone s := rfl
@[simp] theorem exec_cwRead (c : FsCmd) (s : State) : exec (.cwRead c) s = execCwRead c s := rfl
@[simp] theorem exec_cwWrite (c : FsCmd) (s : State) : exec (.cwWrite c) s = execCwWrite c s := rfl
@[simp] theorem exec_cwWriteMulti (c : FsCmd) (s : State) : exec (.cwWriteMulti c) s = execCwWriteMulti c s := rfl
@[simp] theorem exec_scratchWinWrite (c : FsCmd) (s : State) : exec (.scratchWinWrite c) s = execScratchWinWrite c s := rfl
@[simp] theorem exec_shareWrite (c : FsCmd) (s : State) : exec (.shareWrite c) s = execShareWrite c s := rfl
@[simp] theorem exec_orderModeWrite (c : FsCmd) (s : State) : exec (.orderModeWrite c) s = execOrderModeWrite c s := rfl
@[simp] theorem exec_peerReachWrite (c : FsCmd) (s : State) : exec (.peerReachWrite c) s = execPeerReachWrite c s := rfl
@[simp] theorem exec_setSlotWrite (c : FsCmd) (s : State) : exec (.setSlotWrite c) s = execSetSlotWrite c s := rfl
@[simp] theorem exec_handover (c : FsCmd) (s : State) : exec (.handover c) s = execHandover c s := rfl
@[simp] theorem exec_partEnable (c : FsCmd) (s : State) : exec (.partEnable c) s = execPartEnable c s := rfl
@[simp] theorem exec_partDisable (c : FsCmd) (s : State) : exec (.partDisable c) s = execPartDisable c s := rfl
@[simp] theorem exec_partDisableFinish (part : Nat) (s : State) : exec (.partDisableFinish part) s = execPartDisableFinish part s := rfl
@[simp] theorem exec_extAssign (c : FsCmd) (s : State) : exec (.extAssign c) s = execExtAssign c s := rfl
@[simp] theorem exec_extRelease (c : FsCmd) (s : State) : exec (.extRelease c) s = execExtRelease c s := rfl
@[simp] theorem exec_extGrant (c : FsCmd) (s : State) : exec (.extGrant c) s = execExtGrant c s := rfl
@[simp] theorem exec_extRevoke (c : FsCmd) (s : State) : exec (.extRevoke c) s = execExtRevoke c s := rfl
@[simp] theorem exec_grantDrainDone (node ext : Nat) (s : State) : exec (.grantDrainDone node ext) s = execGrantDrainDone node ext s := rfl
@[simp] theorem exec_revokeDrainDone (ext : Nat) (s : State) : exec (.revokeDrainDone ext) s = execRevokeDrainDone ext s := rfl
@[simp] theorem exec_scrubStart (s : State) : exec (.scrubStart) s = execScrubStart s := rfl
@[simp] theorem exec_scrubDone (ext : Nat) (v : ScrubVerdict) (s : State) : exec (.scrubDone ext v) s = execScrubDone ext v s := rfl
@[simp] theorem exec_extQuery (c : FsCmd) (s : State) : exec (.extQuery c) s = execExtQuery c s := rfl
@[simp] theorem exec_partQuery (c : FsCmd) (s : State) : exec (.partQuery c) s = execPartQuery c s := rfl
@[simp] theorem exec_quotaSet (c : FsCmd) (s : State) : exec (.quotaSet c) s = execQuotaSet c s := rfl
@[simp] theorem exec_pagePin (c : FsCmd) (s : State) : exec (.pagePin c) s = execPagePin c s := rfl
@[simp] theorem exec_pageQuery (c : FsCmd) (s : State) : exec (.pageQuery c) s = execPageQuery c s := rfl
@[simp] theorem exec_tierUsage (c : FsCmd) (s : State) : exec (.tierUsage c) s = execTierUsage c s := rfl
@[simp] theorem exec_qnGroupQuery (c : FsCmd) (s : State) : exec (.qnGroupQuery c) s = execQnGroupQuery c s := rfl
@[simp] theorem exec_qnAbandonAll (c : FsCmd) (s : State) : exec (.qnAbandonAll c) s = execQnAbandonAll c s := rfl
@[simp] theorem exec_hsStepQuery (c : FsCmd) (s : State) : exec (.hsStepQuery c) s = execHsStepQuery c s := rfl
@[simp] theorem exec_hsStepRelease (c : FsCmd) (s : State) : exec (.hsStepRelease c) s = execHsStepRelease c s := rfl
@[simp] theorem exec_hsHotRefresh (c : FsCmd) (s : State) : exec (.hsHotRefresh c) s = execHsHotRefresh c s := rfl
@[simp] theorem exec_blIndexQuery (c : FsCmd) (s : State) : exec (.blIndexQuery c) s = execBlIndexQuery c s := rfl
@[simp] theorem exec_blMergeStop (c : FsCmd) (s : State) : exec (.blMergeStop c) s = execBlMergeStop c s := rfl
@[simp] theorem exec_setDefine (c : FsCmd) (s : State) : exec (.setDefine c) s = execSetDefine c s := rfl
@[simp] theorem exec_setQuery (c : FsCmd) (s : State) : exec (.setQuery c) s = execSetQuery c s := rfl
@[simp] theorem exec_setRebuild (c : FsCmd) (s : State) : exec (.setRebuild c) s = execSetRebuild c s := rfl
@[simp] theorem exec_rebuildBatch (slot : Nat) (syms : SymErr) (s : State) : exec (.rebuildBatch slot syms) s = execRebuildBatch slot syms s := rfl
@[simp] theorem exec_setForwardResponse (node tag status : Nat) (a : OwnAnswer) (s : State) :
    exec (.setForwardResponse node tag status a) s = execSetForwardResponse node tag status a s := rfl
@[simp] theorem exec_livenessQuery (c : FsCmd) (s : State) : exec (.livenessQuery c) s = execLivenessQuery c s := rfl
@[simp] theorem exec_liveBoundExpiry (node : Nat) (s : State) : exec (.liveBoundExpiry node) s = execLiveBoundExpiry node s := rfl
@[simp] theorem exec_healthQuery (c : FsCmd) (s : State) : exec (.healthQuery c) s = execHealthQuery c s := rfl
@[simp] theorem exec_healthLogRead (c : FsCmd) (s : State) : exec (.healthLogRead c) s = execHealthLogRead c s := rfl
@[simp] theorem exec_retire (c : FsCmd) (s : State) : exec (.retire c) s = execRetire c s := rfl
@[simp] theorem exec_fiInject (c : FsCmd) (s : State) : exec (.fiInject c) s = execFiInject c s := rfl
@[simp] theorem exec_fiFaultTick (inj : Nat) (s : State) : exec (.fiFaultTick inj) s = execFiFaultTick inj s := rfl
@[simp] theorem exec_fiStop (c : FsCmd) (s : State) : exec (.fiStop c) s = execFiStop c s := rfl
@[simp] theorem exec_furl (c : FsCmd) (s : State) : exec (.furl c) s = execFurl c s := rfl
@[simp] theorem exec_furlEntryStep (s : State) : exec (.furlEntryStep) s = execFurlEntryStep s := rfl
@[simp] theorem exec_wake (c : FsCmd) (arrivedNs : Nat) (s : State) : exec (.wake c arrivedNs) s = execWake c arrivedNs s := rfl
@[simp] theorem exec_wakeAdmissionOpen (s : State) : exec (.wakeAdmissionOpen) s = execWakeAdmissionOpen s := rfl
@[simp] theorem exec_imgStage (c : FsCmd) (s : State) : exec (.imgStage c) s = execImgStage c s := rfl
@[simp] theorem exec_imgWrite (c : FsCmd) (s : State) : exec (.imgWrite c) s = execImgWrite c s := rfl
@[simp] theorem exec_imgVerifyDone (slot : Nat) (s : State) : exec (.imgVerifyDone slot) s = execImgVerifyDone slot s := rfl
@[simp] theorem exec_imgQuery (c : FsCmd) (s : State) : exec (.imgQuery c) s = execImgQuery c s := rfl
@[simp] theorem exec_imgActivate (c : FsCmd) (s : State) : exec (.imgActivate c) s = execImgActivate c s := rfl
@[simp] theorem exec_fwFloorBlow (s : State) : exec (.fwFloorBlow) s = execFwFloorBlow s := rfl
@[simp] theorem exec_strapCommit (c : FsCmd) (s : State) : exec (.strapCommit c) s = execStrapCommit c s := rfl
@[simp] theorem exec_keyEnroll (c : FsCmd) (s : State) : exec (.keyEnroll c) s = execKeyEnroll c s := rfl
@[simp] theorem exec_keyRevoke (c : FsCmd) (s : State) : exec (.keyRevoke c) s = execKeyRevoke c s := rfl
@[simp] theorem exec_restartPowerUp (c : FsCmd) (b : Board) (s : State) : exec (.restartPowerUp c b) s = execRestartPowerUp c b s := rfl
@[simp] theorem exec_restartDevice (c : FsCmd) (b : Board) (s : State) : exec (.restartDevice c b) s = execRestartDevice c b s := rfl
@[simp] theorem exec_mkScreen (c : FsCmd) (s : State) : exec (.mkScreen c) s = execMkScreen c s := rfl
@[simp] theorem exec_mkFuseRead (c : FsCmd) (s : State) : exec (.mkFuseRead c) s = execMkFuseRead c s := rfl
@[simp] theorem exec_mkReturn (c : FsCmd) (s : State) : exec (.mkReturn c) s = execMkReturn c s := rfl
@[simp] theorem exec_govWindowClose (k : EvKind) (unit reading : Nat) (s : State) : exec (.govWindowClose k unit reading) s = execGovWindowClose k unit reading s := rfl
@[simp] theorem exec_slowBayWindow (s : State) : exec (.slowBayWindow) s = execSlowBayWindow s := rfl
@[simp] theorem exec_bayMapOut (s : State) : exec (.bayMapOut) s = execBayMapOut s := rfl
@[simp] theorem exec_leatParityError (e : LeatError) (s : State) : exec (.leatParityError e) s = execLeatParityError e s := rfl
@[simp] theorem exec_sramParityError (e : SramError) (s : State) : exec (.sramParityError e) s = execSramParityError e s := rfl
@[simp] theorem exec_spareRowReplace (e : SramError) (bank : Nat) (s : State) : exec (.spareRowReplace e bank) s = execSpareRowReplace e bank s := rfl
@[simp] theorem exec_patrolRead (line : Nat) (syms : SymErr) (s : State) : exec (.patrolRead line syms) s = execPatrolRead line syms s := rfl
@[simp] theorem exec_eventFoldExpiry (key : Nat) (s : State) : exec (.eventFoldExpiry key) s = execEventFoldExpiry key s := rfl
@[simp] theorem exec_tokenHeartbeatMissed (s : State) : exec (.tokenHeartbeatMissed) s = execTokenHeartbeatMissed s := rfl
@[simp] theorem exec_tokenTransferDone (s : State) : exec (.tokenTransferDone) s = execTokenTransferDone s := rfl
@[simp] theorem exec_arbiterFault (s : State) : exec (.arbiterFault) s = execArbiterFault s := rfl
@[simp] theorem exec_staleConfigWrite (half gen : Nat) (s : State) : exec (.staleConfigWrite half gen) s = execStaleConfigWrite half gen s := rfl
@[simp] theorem exec_weirCopyMismatch (s : State) : exec (.weirCopyMismatch) s = execWeirCopyMismatch s := rfl
@[simp] theorem exec_tapInstructionUpdate (t : TapUpdate) (s : State) : exec (.tapInstructionUpdate t) s = execTapInstructionUpdate t s := rfl
@[simp] theorem exec_blMergeTimeLimit (index : Nat) (s : State) : exec (.blMergeTimeLimit index) s = execBlMergeTimeLimit index s := rfl

end Sys2Proof.Machine
end

