-- ==== Sys2Proof/Laws/Felset.lean ====
section
/-! SUPPORT. The Felset engine, said once: a command that passes the steps before its effect ends with what its body leaves (Table 13.3). -/

namespace Sys2Proof.Machine

/-- Steps 4 to 10 of a command that none of them stops. -/
theorem fsOutcome_ok (o : FsOp) (se : FSession) (s : State) (hn : o.assigned = true) (hl : s.sec.waiting.length < 64)
    (hw : (decide (s.mach.holder = .transfer) && !s.mach.arbFault) = false)
    (ha : o.audited = true → auditReady s = true ∧ s.mach.arbFault = false)
    (hp : fsPermitted o s = true) (hr : o.rights se s = true) (hk : (o.checks se s).all (·.2) = true)
    (hs : (o.body se s).status ≠ sRETRY) (hb : (o.body se s).wait = none) :
    fsOutcome o se s = ({ o.body se s with st := bump (aFS 0) ((o.body se s).st.onSec fun x =>
      { x with lastFop := kput 0 x.lastFop (halfInCharge s) o.fop }) }, false) := by
  have hk' : firstBad (o.checks se s) = none := by
    unfold firstBad
    rw [List.filter_eq_nil_iff.mpr]
    · rfl
    · intro a ha; have := List.all_eq_true.mp hk a ha; simp_all
  have hl' : ¬ 64 ≤ s.sec.waiting.length := by omega
  unfold fsOutcome
  cases h : o.audited <;> simp_all

/-- The execution and the answer of such a command. -/
theorem fsExecute_end (o : FsOp) (c : FsCmd) (se : FSession) (b : State) (hn : o.assigned = true) (hl : b.sec.waiting.length < 64)
    (hw : (decide (b.mach.holder = .transfer) && !b.mach.arbFault) = false)
    (ha : (!o.audited || (auditReady b && !b.mach.arbFault && islandUp b 62)) = true)
    (hp : fsPermitted o b = true) (hr : o.rights se b = true) (hk : (o.checks se b).all (·.2) = true)
    (r : FsRes) (hb : o.body se b = r) (hs : r.status ≠ sRETRY) (hv : r.wait = none) :
    fsExecute o c se se.ck b = fsEnd o.fop o.audited c se b r := by
  have hout := fsOutcome_ok o se b hn hl hw (by intro h; simp [h] at ha; exact ⟨ha.1.1, ha.1.2⟩) hp hr hk (by rw [hb]; exact hs) (by rw [hb]; exact hv)
  rw [hb] at hout
  unfold fsExecute fsEnd
  simp only [hout, hs, hv, if_false]
  cases h : o.audited
  · simp
  · simp [h] at ha; simp [ha.2]

/-- A command of a session that passes every step before its effect. -/
theorem runFelset_end (o : FsOp) (c : FsCmd) (s : State) (hn : o.assigned = true)
    (hc : fsClear o.fop o.plen o.audited o.kind c s = true)
    (hr : o.rights (fsSe c s) (fsBefore c s) = true)
    (hk : (o.checks (fsSe c s) (fsBefore c s)).all (·.2) = true)
    (r : FsRes) (hb : o.body (fsSe c s) (fsBefore c s) = r) (h0 : r.status ≠ sRETRY) (hv : r.wait = none) :
    runFelset o c s = fsGone (fsEnd o.fop o.audited c (fsSe c s) (fsBefore c s) r) := by
  simp only [fsClear, fsIdle, Bool.and_eq_true, decide_eq_true_eq, Bool.not_eq_true'] at hc
  obtain ⟨⟨⟨⟨⟨⟨⟨⟨⟨⟨⟨⟨hl, ha⟩, hi, hlen⟩, hm⟩, hf⟩, hz⟩, hsl⟩, hsn⟩, ht⟩, hq⟩, hw⟩, hp⟩, hau⟩ := hc
  have hf' : fsForm o c = true := hf
  have e1 : fsession (takeFelset c s) c.fsid.toNat = fsSe c s := rfl
  have e2 : setFsession c.fsid.toNat (fun x => { x with lastUse := now (takeFelset c s) }) (takeFelset c s) = fsBefore c s := rfl
  have hw64 : (fsBefore c s).sec.waiting.length < 64 := hlen
  rw [← fsExecute_end o c (fsSe c s) (fsBefore c s) hn hw64 hw hau hp hr hk r hb h0 hv]
  unfold runFelset
  rw [if_neg (by simp [hi])]
  unfold fsTake
  simp only [e1, hl, ha, hm, hf', Bool.not_true, Bool.or_self, Bool.false_eq_true, if_false, hz, hsl, hsn, Bool.and_self,
     decide_true, decide_false, Bool.true_and, Bool.false_and, if_true, ← ht, e2, hq, ne_eq,
     not_false_eq_true]

/-- A command with FSID 0 that passes every step before its effect. -/
theorem runFelset_end0 (o : FsOp) (c : FsCmd) (s : State) (hfree : o.free = true) (hn : o.assigned = true)
    (hc : fsClear0 o.fop o.plen o.audited o.kind c s = true)
    (hr : o.rights {} (takeFelset c s) = true)
    (hk : (o.checks {} (takeFelset c s)).all (·.2) = true)
    (r : FsRes) (hb : o.body {} (takeFelset c s) = r) (h0 : r.status ≠ sRETRY) (hv : r.wait = none) :
    runFelset o c s = fsGone (fsEnd o.fop o.audited c {} (takeFelset c s) r) := by
  simp only [fsClear0, fsIdle, Bool.and_eq_true, decide_eq_true_eq, Bool.not_eq_true'] at hc
  obtain ⟨⟨⟨⟨⟨⟨⟨⟨hl, ha⟩, hi, hlen⟩, hm⟩, hf⟩, hz⟩, hw⟩, hp⟩, hau⟩ := hc
  have hf' : fsForm o c = true := hf
  have hw64 : (takeFelset c s).sec.waiting.length < 64 := hlen
  rw [← fsExecute_end o c {} (takeFelset c s) hn hw64 hw hau hp hr hk r hb h0 hv]
  unfold runFelset
  rw [if_neg (by simp [hi])]
  unfold fsTake
  simp [hl, ha, hm, hf', hz, hfree]

/-- The same, for a meaning that runs one command of the engine. -/
theorem runFelset_next (o : FsOp) (c : FsCmd) (s : State) {fop plen : Nat} {audited : Bool} {kind : FsKind} {r : FsRes}
    (h1 : o.fop = fop) (h2 : o.plen = plen) (h3 : o.audited = audited) (h4 : o.kind = kind) (hn : o.assigned = true)
    (hc : fsClear fop plen audited kind c s = true)
    (hr : o.rights (fsSe c s) (fsBefore c s) = true)
    (hk : (o.checks (fsSe c s) (fsBefore c s)).all (·.2) = true)
    (hb : o.body (fsSe c s) (fsBefore c s) = r) (h0 : r.status ≠ sRETRY) (hv : r.wait = none) :
    (Host.Outcome.next (runFelset o c s) : Host.Outcome State Fault Refusal)
      = .next (fsGone (fsEnd fop audited c (fsSe c s) (fsBefore c s) r)) := by
  subst h1 h2 h3 h4
  rw [runFelset_end o c s hn hc hr hk r hb h0 hv]

theorem runFelset_next0 (o : FsOp) (c : FsCmd) (s : State) {fop plen : Nat} {audited : Bool} {kind : FsKind} {r : FsRes}
    (h1 : o.fop = fop) (h2 : o.plen = plen) (h3 : o.audited = audited) (h4 : o.kind = kind) (hf : o.free = true) (hn : o.assigned = true)
    (hc : fsClear0 fop plen audited kind c s = true)
    (hr : o.rights {} (takeFelset c s) = true)
    (hk : (o.checks {} (takeFelset c s)).all (·.2) = true)
    (hb : o.body {} (takeFelset c s) = r) (h0 : r.status ≠ sRETRY) (hv : r.wait = none) :
    (Host.Outcome.next (runFelset o c s) : Host.Outcome State Fault Refusal)
      = .next (fsGone (fsEnd fop audited c {} (takeFelset c s) r)) := by
  subst h1 h2 h3 h4
  rw [runFelset_end0 o c s hf hn hc hr hk r hb h0 hv]

/-! ### What taking a record and touching its session leaves alone -/

@[simp] theorem fsBefore_pending (c : FsCmd) (s : State) : (fsBefore c s).pending = s.pending := rfl
@[simp] theorem fsBefore_cw (c : FsCmd) (s : State) : (fsBefore c s).cw = s.cw := rfl
@[simp] theorem fsBefore_stats (c : FsCmd) (s : State) : (fsBefore c s).stats = s.stats := rfl
@[simp] theorem fsBefore_pwr (c : FsCmd) (s : State) : (fsBefore c s).pwr = s.pwr := rfl
@[simp] theorem fsBefore_nor (c : FsCmd) (s : State) : (fsBefore c s).nor = s.nor := rfl
@[simp] theorem fsBefore_store (c : FsCmd) (s : State) : (fsBefore c s).store = s.store := rfl
@[simp] theorem fsBefore_home (c : FsCmd) (s : State) : (fsBefore c s).home = s.home := rfl
@[simp] theorem fsBefore_core (c : FsCmd) (s : State) : (fsBefore c s).core = s.core := rfl
@[simp] theorem fsBefore_eng (c : FsCmd) (s : State) : (fsBefore c s).eng = s.eng := rfl
@[simp] theorem fsBefore_mach (c : FsCmd) (s : State) : (fsBefore c s).mach = s.mach := rfl
@[simp] theorem fsBefore_gov (c : FsCmd) (s : State) : (fsBefore c s).gov = s.gov := rfl
@[simp] theorem fsBefore_wire (c : FsCmd) (s : State) : (fsBefore c s).wire = s.wire := rfl
@[simp] theorem fsBefore_free (c : FsCmd) (s : State) : (fsBefore c s).free = s.free := rfl
@[simp] theorem fsBefore_sec_mapKey (c : FsCmd) (s : State) : (fsBefore c s).sec.mapKey = s.sec.mapKey := rfl
@[simp] theorem fsBefore_sec_lastFop (c : FsCmd) (s : State) : (fsBefore c s).sec.lastFop = s.sec.lastFop := rfl
@[simp] theorem fsBefore_sec_nvState (c : FsCmd) (s : State) : (fsBefore c s).sec.nvState = s.sec.nvState := rfl
@[simp] theorem fsBefore_sec_drbg (c : FsCmd) (s : State) : (fsBefore c s).sec.drbg = s.sec.drbg := rfl
@[simp] theorem fsBefore_sec_parts (c : FsCmd) (s : State) : (fsBefore c s).sec.parts = s.sec.parts := rfl
@[simp] theorem fsBefore_sec_extents (c : FsCmd) (s : State) : (fsBefore c s).sec.extents = s.sec.extents := rfl
@[simp] theorem fsBefore_sec_quarantine (c : FsCmd) (s : State) : (fsBefore c s).sec.quarantine = s.sec.quarantine := rfl
@[simp] theorem fsBefore_sec_scrubbing (c : FsCmd) (s : State) : (fsBefore c s).sec.scrubbing = s.sec.scrubbing := rfl
@[simp] theorem fsBefore_sec_waiting (c : FsCmd) (s : State) : (fsBefore c s).sec.waiting = s.sec.waiting := rfl
@[simp] theorem fsBefore_sec_hold (c : FsCmd) (s : State) : (fsBefore c s).sec.hold = s.sec.hold := rfl
@[simp] theorem fsBefore_sec_going (c : FsCmd) (s : State) : (fsBefore c s).sec.going = s.sec.going := rfl
@[simp] theorem fsBefore_sec_grants (c : FsCmd) (s : State) : (fsBefore c s).sec.grants = s.sec.grants := rfl
@[simp] theorem fsBefore_part (c : FsCmd) (s : State) (n : Nat) : part (fsBefore c s) n = part s n := rfl
@[simp] theorem fsBefore_extent (c : FsCmd) (s : State) (e : Nat) : extent (fsBefore c s) e = extent s e := rfl
@[simp] theorem fsBefore_mapExtents (c : FsCmd) (s : State) : mapExtents (fsBefore c s) = mapExtents s := rfl
@[simp] theorem fsBefore_homeIndex (c : FsCmd) (s : State) : homeIndex (fsBefore c s) = homeIndex s := rfl
@[simp] theorem fsBefore_nodeId (c : FsCmd) (s : State) : nodeId (fsBefore c s) = nodeId s := rfl
@[simp] theorem fsBefore_cfg (c : FsCmd) (s : State) (a h l : Nat) : cfg (fsBefore c s) a h l = cfg s a h l := rfl
@[simp] theorem fsBefore_page (c : FsCmd) (s : State) (p : Nat) : page (fsBefore c s) p = page s p := rfl
@[simp] theorem fsBefore_pageUnusable (c : FsCmd) (s : State) (p : Nat) : pageUnusable (fsBefore c s) p = pageUnusable s p := rfl
@[simp] theorem fsBefore_group (c : FsCmd) (s : State) (off : Nat) : group (fsBefore c s) off = group s off := rfl
@[simp] theorem fsBefore_hstep (c : FsCmd) (s : State) (off : Nat) : hstep (fsBefore c s) off = hstep s off := rfl
@[simp] theorem fsBefore_slotOfSet (c : FsCmd) (s : State) (i : Nat) : slotOfSet (fsBefore c s) i = slotOfSet s i := rfl
@[simp] theorem fsBefore_setSt (c : FsCmd) (s : State) (i : Nat) : setSt (fsBefore c s) i = setSt s i := rfl
@[simp] theorem fsBefore_windowOwned (c : FsCmd) (s : State) (i : Nat) : windowOwned (fsBefore c s) i = windowOwned s i := rfl
@[simp] theorem fsBefore_fenced (c : FsCmd) (s : State) (n : Nat) : fenced (fsBefore c s) n = fenced s n := rfl
@[simp] theorem fsBefore_unitH (c : FsCmd) (s : State) (k : Nat) : unitH (fsBefore c s) k = unitH s k := rfl
@[simp] theorem fsBefore_unitLost (c : FsCmd) (s : State) (k n : Nat) : unitLost (fsBefore c s) k n = unitLost s k n := rfl
@[simp] theorem fsBefore_retireAccepts (c : FsCmd) (s : State) (k n : Nat) : retireAccepts (fsBefore c s) k n = retireAccepts s k n := rfl
@[simp] theorem fsBefore_activeInjects (c : FsCmd) (s : State) : activeInjects (fsBefore c s) = activeInjects s := rfl
@[simp] theorem fsBefore_inService (c : FsCmd) (s : State) : inService (fsBefore c s) = inService s := rfl
@[simp] theorem fsBefore_imgSlot (c : FsCmd) (s : State) (k : Nat) : imgSlot (fsBefore c s) k = imgSlot s k := rfl
@[simp] theorem fsBefore_imgFree (c : FsCmd) (s : State) (k : Nat) : imgFree (fsBefore c s) k = imgFree s k := rfl
@[simp] theorem fsBefore_stagable (c : FsCmd) (s : State) (a n : Nat) : stagable (fsBefore c s) a n = stagable s a n := rfl
@[simp] theorem fsBefore_installerSlots (c : FsCmd) (s : State) : installerSlots (fsBefore c s) = installerSlots s := rfl
@[simp] theorem fsBefore_strapsNow (c : FsCmd) (s : State) : strapsNow (fsBefore c s) = strapsNow s := rfl
@[simp] theorem fsBefore_ownCheck (c : FsCmd) (s : State) (p off : Nat) : ownCheck (fsBefore c s) p off = ownCheck s p off := rfl
@[simp] theorem fsBefore_stream (c : FsCmd) (s : State) (i : Nat) : stream (fsBefore c s) i = stream s i := rfl
@[simp] theorem fsBefore_streamKept (c : FsCmd) (s : State) (i : Nat) : streamKept (fsBefore c s) i = streamKept s i := rfl
@[simp] theorem fsBefore_now (c : FsCmd) (s : State) : now (fsBefore c s) = now s := rfl
@[simp] theorem fsBefore_hereAligned (c : FsCmd) (s : State) (a n : Nat) : hereAligned (fsBefore c s) a n = hereAligned s a n := rfl
@[simp] theorem fsBefore_auditWarnAt (c : FsCmd) (s : State) : auditWarnAt (fsBefore c s) = auditWarnAt s := rfl
@[simp] theorem fsBefore_islandUp (c : FsCmd) (s : State) (i : Nat) : islandUp (fsBefore c s) i = islandUp s i := rfl
@[simp] theorem fsBefore_healthHead (c : FsCmd) (s : State) (k n : Nat) : healthHead (fsBefore c s) k n = healthHead s k n := rfl
@[simp] theorem fsBefore_setRecord (c : FsCmd) (s : State) (i : Nat) : setRecord (fsBefore c s) i = setRecord s i := rfl
@[simp] theorem fsBefore_extentsOf (c : FsCmd) (s : State) (n : Nat) : extentsOf (fsBefore c s) n = extentsOf s n := rfl
@[simp] theorem fsBefore_grantsAt (c : FsCmd) (s : State) (e : Nat) : grantsAt (fsBefore c s) e = grantsAt s e := rfl
@[simp] theorem fsBefore_rebuildPositions (c : FsCmd) (s : State) (i p : Nat) : rebuildPositions (fsBefore c s) i p = rebuildPositions s i p := rfl
@[simp] theorem fsBefore_shortAt (c : FsCmd) (s : State) (i p : Nat) : shortAt (fsBefore c s) i p = shortAt s i p := rfl
@[simp] theorem fsBefore_windowGranted (c : FsCmd) (s : State) (i n : Nat) : windowGranted (fsBefore c s) i n = windowGranted s i n := rfl
@[simp] theorem fsBefore_runOwned (c : FsCmd) (s : State) (es : List Nat) : runOwned (fsBefore c s) es = runOwned s es := rfl
@[simp] theorem fsBefore_membersOk (c : FsCmd) (s : State) (n : Nat) (ms : List Nat) : membersOk (fsBefore c s) n ms = membersOk s n ms := rfl
@[simp] theorem fsBefore_fencedPositions (c : FsCmd) (s : State) (r : SetSt) : fencedPositions (fsBefore c s) r = fencedPositions s r := rfl
@[simp] theorem fsBefore_indexItems (c : FsCmd) (s : State) (off : Nat) (p : Nat → Bool) : indexItems (fsBefore c s) off p = indexItems s off p := rfl
@[simp] theorem fsBefore_grantsWith (c : FsCmd) (s : State) (n r f k : Nat) : grantsWith n r f k (fsBefore c s) = grantsWith n r f k s := rfl
@[simp] theorem fsBefore_definedSet (c : FsCmd) (s : State) (i : Nat) : definedSet c i (fsBefore c s) = definedSet c i s := rfl
@[simp] theorem fsBefore_readBytes (c : FsCmd) (s : State) (off n : Nat) : readBytes (fsBefore c s) off n = readBytes s off n := rfl

end Sys2Proof.Machine
end

