-- ==== Sys2Proof/Laws/Quiet.lean ====
section
/-! SUPPORT. What the Felset queries leave alone: `Quiet s0 s` says that s has the range, the home slices, the core, the engines, the sets, the configuration and the partitions of s0, and its audit log with refused commands appended; one lemma for every operation on the way. -/

set_option Elab.async false

namespace Sys2Proof.Machine

open Sys2Proof

/-- The state s has what a query must not change as s0 has it. -/
structure Quiet (s0 s : State) : Prop where
  store : s.store = s0.store
  home : s.home = s0.home
  core : s.core = s0.core
  eng : s.eng = s0.eng
  mach : s.mach = s0.mach
  cw : s.cw = s0.cw
  pwr : s.pwr = s0.pwr
  parts : s.sec.parts = s0.sec.parts
  extents : s.sec.extents = s0.sec.extents
  grants : s.sec.grants = s0.sec.grants
  audit : ∃ l, s.nor.audit = s0.nor.audit ++ l ∧ ∀ e ∈ l, e.status = sDENIED

theorem State_onPwr_quiet (s0 : State) (f s) (h : Quiet s0 s) (e : f s.pwr = s.pwr) : Quiet s0 (State.onPwr f s) := ⟨h.store, h.home, h.core, h.eng, h.mach, h.cw, e.trans h.pwr, h.parts, h.extents, h.grants, h.audit⟩

theorem State_onNor_quiet (s0 : State) (f s) (h : Quiet s0 s) (e : (f s.nor).audit = s.nor.audit) : Quiet s0 (State.onNor f s) := ⟨h.store, h.home, h.core, h.eng, h.mach, h.cw, h.pwr, h.parts, h.extents, h.grants, e ▸ h.audit⟩

theorem State_onStore_quiet (s0 : State) (f s) (h : Quiet s0 s) (e : f s.store = s.store) : Quiet s0 (State.onStore f s) := ⟨e.trans h.store, h.home, h.core, h.eng, h.mach, h.cw, h.pwr, h.parts, h.extents, h.grants, h.audit⟩

theorem State_onKt_quiet (s0 : State) (f s) (h : Quiet s0 s)  : Quiet s0 (State.onKt f s) := ⟨h.store, h.home, h.core, h.eng, h.mach, h.cw, h.pwr, h.parts, h.extents, h.grants, h.audit⟩

theorem State_onHome_quiet (s0 : State) (f s) (h : Quiet s0 s) (e : f s.home = s.home) : Quiet s0 (State.onHome f s) := ⟨h.store, e.trans h.home, h.core, h.eng, h.mach, h.cw, h.pwr, h.parts, h.extents, h.grants, h.audit⟩

theorem State_onCore_quiet (s0 : State) (f s) (h : Quiet s0 s) (e : f s.core = s.core) : Quiet s0 (State.onCore f s) := ⟨h.store, h.home, e.trans h.core, h.eng, h.mach, h.cw, h.pwr, h.parts, h.extents, h.grants, h.audit⟩

theorem State_onEng_quiet (s0 : State) (f s) (h : Quiet s0 s) (e : f s.eng = s.eng) : Quiet s0 (State.onEng f s) := ⟨h.store, h.home, h.core, e.trans h.eng, h.mach, h.cw, h.pwr, h.parts, h.extents, h.grants, h.audit⟩

theorem State_onSec_quiet (s0 : State) (f s) (h : Quiet s0 s) (e1 : (f s.sec).parts = s.sec.parts) (e2 : (f s.sec).extents = s.sec.extents) (e3 : (f s.sec).grants = s.sec.grants) : Quiet s0 (State.onSec f s) := ⟨h.store, h.home, h.core, h.eng, h.mach, h.cw, h.pwr, e1.trans h.parts, e2.trans h.extents, e3.trans h.grants, h.audit⟩

theorem State_onMach_quiet (s0 : State) (f s) (h : Quiet s0 s) (e : f s.mach = s.mach) : Quiet s0 (State.onMach f s) := ⟨h.store, h.home, h.core, h.eng, e.trans h.mach, h.cw, h.pwr, h.parts, h.extents, h.grants, h.audit⟩

theorem State_onGov_quiet (s0 : State) (f s) (h : Quiet s0 s)  : Quiet s0 (State.onGov f s) := ⟨h.store, h.home, h.core, h.eng, h.mach, h.cw, h.pwr, h.parts, h.extents, h.grants, h.audit⟩

/-- The same of the result of a Felset command, its later effect included. -/
structure FsQ (s0 : State) (r : FsRes) : Prop where
  st : Quiet s0 r.st
  after : ∀ s, Quiet s0 s → Quiet s0 (r.after s)
  held : r.held = false

theorem foldl_quiet (s0 : State) {α : Type} (f : State → α → State) (l : List α) (s : State) (hf : ∀ s a, Quiet s0 s → Quiet s0 (f s a)) (h : Quiet s0 s) :
    Quiet s0 (l.foldl f s) := by
  induction l generalizing s with
  | nil => exact h
  | cons a l ih => exact ih _ (hf s a h)

theorem mk_quiet (s0 : State) {q cw st pwr nor store kt home core eng sec mach gov wire free} (h1 : store = s0.store) (h2 : home = s0.home) (h3 : core = s0.core) (h4 : eng = s0.eng)
  (h5 : mach = s0.mach) (h6 : cw = s0.cw) (h7 : pwr = s0.pwr) (h8 : sec.parts = s0.sec.parts) (h9 : sec.extents = s0.sec.extents) (h10 : sec.grants = s0.sec.grants) (h11 : ∃ l, nor.audit = s0.nor.audit ++ l ∧ ∀ e ∈ l, e.status = sDENIED) :
    Quiet s0 ⟨q, cw, st, pwr, nor, store, kt, home, core, eng, sec, mach, gov, wire, free⟩ := ⟨h1,h2,h3,h4,h5,h6,h7,h8,h9,h10,h11⟩

theorem setCtx_quiet (s0 : State) (n : ℕ) (f : Ctx → Ctx) (s : State) (h_s : Quiet s0 s) : Quiet s0 (setCtx n f s) := by
  unfold setCtx; grind [State_onKt_quiet, foldl_quiet, mk_quiet, FsQ.st, FsQ.after, FsQ.held, Quiet.store, Quiet.home, Quiet.core, Quiet.eng, Quiet.mach, Quiet.cw, Quiet.pwr, Quiet.parts, Quiet.extents, Quiet.grants, Quiet.audit, FsQ.mk]

theorem takeFelset_quiet (s0 : State) (c : FsCmd) (s : State) (h_s : Quiet s0 s) : Quiet s0 (takeFelset c s) := by
  unfold takeFelset; grind [setCtx_quiet, foldl_quiet, mk_quiet, FsQ.st, FsQ.after, FsQ.held, Quiet.store, Quiet.home, Quiet.core, Quiet.eng, Quiet.mach, Quiet.cw, Quiet.pwr, Quiet.parts, Quiet.extents, Quiet.grants, Quiet.audit, FsQ.mk]

theorem fsGone_quiet (s0 : State) (s : State) (h_s : Quiet s0 s) : Quiet s0 (fsGone s) := by
  unfold fsGone; grind [State_onSec_quiet, foldl_quiet, mk_quiet, FsQ.st, FsQ.after, FsQ.held, Quiet.store, Quiet.home, Quiet.core, Quiet.eng, Quiet.mach, Quiet.cw, Quiet.pwr, Quiet.parts, Quiet.extents, Quiet.grants, Quiet.audit, FsQ.mk]

theorem FsRes_after_quiet (s0 : State) (self : FsRes) (y1 : State) (h_self : FsQ s0 self) (h_y1 : Quiet s0 y1) : Quiet s0 (FsRes.after self y1) := by
  unfold FsRes.after; grind [foldl_quiet, mk_quiet, FsQ.st, FsQ.after, FsQ.held, Quiet.store, Quiet.home, Quiet.core, Quiet.eng, Quiet.mach, Quiet.cw, Quiet.pwr, Quiet.parts, Quiet.extents, Quiet.grants, Quiet.audit, FsQ.mk]

theorem drbgBytes_quiet (s0 : State) (n : ℕ) (s : State) (h_s : Quiet s0 s) : Quiet s0 (drbgBytes n s).2 := by
  unfold drbgBytes; grind [State_onSec_quiet, foldl_quiet, mk_quiet, FsQ.st, FsQ.after, FsQ.held, Quiet.store, Quiet.home, Quiet.core, Quiet.eng, Quiet.mach, Quiet.cw, Quiet.pwr, Quiet.parts, Quiet.extents, Quiet.grants, Quiet.audit, FsQ.mk]

theorem takeOvf_quiet (s0 : State) (a : ℕ) (s : State) (h_s : Quiet s0 s) : Quiet s0 (takeOvf a s) := by
  unfold takeOvf; grind [State_onGov_quiet, foldl_quiet, mk_quiet, FsQ.st, FsQ.after, FsQ.held, Quiet.store, Quiet.home, Quiet.core, Quiet.eng, Quiet.mach, Quiet.cw, Quiet.pwr, Quiet.parts, Quiet.extents, Quiet.grants, Quiet.audit, FsQ.mk]

theorem addStat_quiet (s0 : State) (a : ℕ) (n : ℕ) (s : State) (h_s : Quiet s0 s) : Quiet s0 (addStat a n s) := by
  unfold addStat; grind [takeOvf_quiet, foldl_quiet, mk_quiet, FsQ.st, FsQ.after, FsQ.held, Quiet.store, Quiet.home, Quiet.core, Quiet.eng, Quiet.mach, Quiet.cw, Quiet.pwr, Quiet.parts, Quiet.extents, Quiet.grants, Quiet.audit, FsQ.mk]

theorem emit_quiet (s0 : State) (n : ℕ) (plane : ℕ) (x : Load) (s : State) (h_s : Quiet s0 s) : Quiet s0 (emit n plane x s) := by
  unfold emit; grind [addStat_quiet, setCtx_quiet, foldl_quiet, mk_quiet, FsQ.st, FsQ.after, FsQ.held, Quiet.store, Quiet.home, Quiet.core, Quiet.eng, Quiet.mach, Quiet.cw, Quiet.pwr, Quiet.parts, Quiet.extents, Quiet.grants, Quiet.audit, FsQ.mk]

theorem emitOpenFrame_quiet (s0 : State) (n : ℕ) (plane : ℕ) (seq0 : ℕ) (rcd : Rec) (s : State) (h_s : Quiet s0 s) : Quiet s0 (emitOpenFrame n plane seq0 rcd s) := by
  unfold emitOpenFrame; grind [emit_quiet, foldl_quiet, mk_quiet, FsQ.st, FsQ.after, FsQ.held, Quiet.store, Quiet.home, Quiet.core, Quiet.eng, Quiet.mach, Quiet.cw, Quiet.pwr, Quiet.parts, Quiet.extents, Quiet.grants, Quiet.audit, FsQ.mk]

theorem openOrQueue_quiet (s0 : State) (n : ℕ) (w : Rec × Bool × Bool) (s : State) (h_s : Quiet s0 s) : Quiet s0 (openOrQueue n w s) := by
  unfold openOrQueue; grind [State_onKt_quiet, drbgBytes_quiet, emitOpenFrame_quiet, foldl_quiet, mk_quiet, FsQ.st, FsQ.after, FsQ.held, Quiet.store, Quiet.home, Quiet.core, Quiet.eng, Quiet.mach, Quiet.cw, Quiet.pwr, Quiet.parts, Quiet.extents, Quiet.grants, Quiet.audit, FsQ.mk]

theorem acked_quiet (s0 : State) (n : ℕ) (sacks : List (ℕ × ℕ)) (s : State) (h_s : Quiet s0 s) : Quiet s0 (acked n sacks s) := by
  unfold acked; grind [setCtx_quiet, foldl_quiet, mk_quiet, FsQ.st, FsQ.after, FsQ.held, Quiet.store, Quiet.home, Quiet.core, Quiet.eng, Quiet.mach, Quiet.cw, Quiet.pwr, Quiet.parts, Quiet.extents, Quiet.grants, Quiet.audit, FsQ.mk]

theorem sendHeld_quiet (s0 : State) (n : ℕ) (h : Held) (plane : ℕ) (s : State) (h_s : Quiet s0 s) : Quiet s0 (sendHeld n h plane s) := by
  unfold sendHeld; grind [acked_quiet, emit_quiet, addStat_quiet, setCtx_quiet, foldl_quiet, mk_quiet, FsQ.st, FsQ.after, FsQ.held, Quiet.store, Quiet.home, Quiet.core, Quiet.eng, Quiet.mach, Quiet.cw, Quiet.pwr, Quiet.parts, Quiet.extents, Quiet.grants, Quiet.audit, FsQ.mk]

theorem flushCtx_quiet (s0 : State) (n k : Nat) (s : State) (h : Quiet s0 s) : Quiet s0 (flushCtx n k s) := by
  induction k generalizing s with
  | zero => exact h
  | succ k ih =>
    unfold flushCtx
    dsimp only
    split
    · split
      · exact ih _ (sendHeld_quiet _ _ _ _ _ h)
      · exact h
    · exact h

theorem sendSeq_quiet (s0 : State) (n : ℕ) (rcd : Rec) (ord : Bool) (mgmt : Bool) (s : State) (h_s : Quiet s0 s) : Quiet s0 (sendSeq n rcd ord mgmt s) := by
  unfold sendSeq; grind [setCtx_quiet, flushCtx_quiet, foldl_quiet, mk_quiet, FsQ.st, FsQ.after, FsQ.held, Quiet.store, Quiet.home, Quiet.core, Quiet.eng, Quiet.mach, Quiet.cw, Quiet.pwr, Quiet.parts, Quiet.extents, Quiet.grants, Quiet.audit, FsQ.mk]

theorem sendRec_quiet (s0 : State) (n : ℕ) (rcd : Rec) (ord : Bool) (mgmt : Bool) (s : State) (h_s : Quiet s0 s) : Quiet s0 (sendRec n rcd ord mgmt s) := by
  unfold sendRec; grind [sendSeq_quiet, openOrQueue_quiet, foldl_quiet, mk_quiet, FsQ.st, FsQ.after, FsQ.held, Quiet.store, Quiet.home, Quiet.core, Quiet.eng, Quiet.mach, Quiet.cw, Quiet.pwr, Quiet.parts, Quiet.extents, Quiet.grants, Quiet.audit, FsQ.mk]

theorem fsSend_quiet (s0 : State) (n : ℕ) (rcd : Rec) (s : State) (h_s : Quiet s0 s) : Quiet s0 (fsSend n rcd s) := by
  unfold fsSend; grind [sendRec_quiet, foldl_quiet, mk_quiet, FsQ.st, FsQ.after, FsQ.held, Quiet.store, Quiet.home, Quiet.core, Quiet.eng, Quiet.mach, Quiet.cw, Quiet.pwr, Quiet.parts, Quiet.extents, Quiet.grants, Quiet.audit, FsQ.mk]

theorem setFsession_quiet (s0 : State) (id : ℕ) (f : FSession → FSession) (s : State) (h_s : Quiet s0 s) : Quiet s0 (setFsession id f s) := by
  unfold setFsession; grind [State_onSec_quiet, foldl_quiet, mk_quiet, FsQ.st, FsQ.after, FsQ.held, Quiet.store, Quiet.home, Quiet.core, Quiet.eng, Quiet.mach, Quiet.cw, Quiet.pwr, Quiet.parts, Quiet.extents, Quiet.grants, Quiet.audit, FsQ.mk]

theorem fsReply_quiet (s0 : State) (n : ℕ) (store : Bool) (rcd : Rec) (s : State) (h_s : Quiet s0 s) : Quiet s0 (fsReply n store rcd s) := by
  unfold fsReply; grind [fsSend_quiet, setFsession_quiet, foldl_quiet, mk_quiet, FsQ.st, FsQ.after, FsQ.held, Quiet.store, Quiet.home, Quiet.core, Quiet.eng, Quiet.mach, Quiet.cw, Quiet.pwr, Quiet.parts, Quiet.extents, Quiet.grants, Quiet.audit, FsQ.mk]

theorem setUnitH_quiet (s0 : State) (k : ℕ) (f : UnitH → UnitH) (s : State) (h_s : Quiet s0 s) : Quiet s0 (setUnitH k f s) := by
  unfold setUnitH; grind [State_onGov_quiet, foldl_quiet, mk_quiet, FsQ.st, FsQ.after, FsQ.held, Quiet.store, Quiet.home, Quiet.core, Quiet.eng, Quiet.mach, Quiet.cw, Quiet.pwr, Quiet.parts, Quiet.extents, Quiet.grants, Quiet.audit, FsQ.mk]

theorem hlogWrite_quiet (s0 : State) (e : Ev) (s : State) (h_s : Quiet s0 s) : Quiet s0 (hlogWrite e s).2 := by
  unfold hlogWrite; grind [addStat_quiet, State_onNor_quiet, setUnitH_quiet, foldl_quiet, mk_quiet, FsQ.st, FsQ.after, FsQ.held, Quiet.store, Quiet.home, Quiet.core, Quiet.eng, Quiet.mach, Quiet.cw, Quiet.pwr, Quiet.parts, Quiet.extents, Quiet.grants, Quiet.audit, FsQ.mk]

theorem evSend_quiet (s0 : State) (e : Ev) (count : ℕ) (hidx : ℕ) (ts : List ℕ) (s : State) (h_s : Quiet s0 s) : Quiet s0 (evSend e count hidx ts s) := by
  unfold evSend; grind [sendRec_quiet, addStat_quiet, foldl_quiet, mk_quiet, FsQ.st, FsQ.after, FsQ.held, Quiet.store, Quiet.home, Quiet.core, Quiet.eng, Quiet.mach, Quiet.cw, Quiet.pwr, Quiet.parts, Quiet.extents, Quiet.grants, Quiet.audit, FsQ.mk]

theorem event0_quiet (s0 : State) (e : Ev) (s : State) (h_s : Quiet s0 s) : Quiet s0 (event0 e s) := by
  unfold event0; grind [hlogWrite_quiet, setUnitH_quiet, addStat_quiet, State_onGov_quiet, evSend_quiet, foldl_quiet, mk_quiet, FsQ.st, FsQ.after, FsQ.held, Quiet.store, Quiet.home, Quiet.core, Quiet.eng, Quiet.mach, Quiet.cw, Quiet.pwr, Quiet.parts, Quiet.extents, Quiet.grants, Quiet.audit, FsQ.mk]

theorem raiseOverflows_quiet (s0 : State) (n : Nat) (s : State) (h : Quiet s0 s) : Quiet s0 (raiseOverflows n s) := by
  induction n generalizing s with
  | zero => unfold raiseOverflows; exact h
  | succ k ih => unfold raiseOverflows; grind [event0_quiet, State_onGov_quiet]

theorem bumpBy_quiet (s0 : State) (a : ℕ) (n : ℕ) (s : State) (h_s : Quiet s0 s) : Quiet s0 (bumpBy a n s) := by
  unfold bumpBy; grind [addStat_quiet, raiseOverflows_quiet, foldl_quiet, mk_quiet, FsQ.st, FsQ.after, FsQ.held, Quiet.store, Quiet.home, Quiet.core, Quiet.eng, Quiet.mach, Quiet.cw, Quiet.pwr, Quiet.parts, Quiet.extents, Quiet.grants, Quiet.audit, FsQ.mk]

theorem bump_quiet (s0 : State) (a : ℕ) (s : State) (h_s : Quiet s0 s) : Quiet s0 (bump a s) := by
  unfold bump; grind [bumpBy_quiet, foldl_quiet, mk_quiet, FsQ.st, FsQ.after, FsQ.held, Quiet.store, Quiet.home, Quiet.core, Quiet.eng, Quiet.mach, Quiet.cw, Quiet.pwr, Quiet.parts, Quiet.extents, Quiet.grants, Quiet.audit, FsQ.mk]

theorem fsAnswer_quiet (s0 : State) (fop : ℕ) (c : FsCmd) (ck : List Byte) (store : Bool) (idx : ℕ) (r : FsRes) (h_r : FsQ s0 r) : Quiet s0 (fsAnswer fop c ck store idx r) := by
  unfold fsAnswer; grind [FsRes_after_quiet, State_onPwr_quiet, fsReply_quiet, bump_quiet, foldl_quiet, mk_quiet, FsQ.st, FsQ.after, FsQ.held, Quiet.store, Quiet.home, Quiet.core, Quiet.eng, Quiet.mach, Quiet.cw, Quiet.pwr, Quiet.parts, Quiet.extents, Quiet.grants, Quiet.audit, FsQ.mk]

theorem fsFail_quiet (s0 : State) (s : State) (status : ℕ) (h_s : Quiet s0 s) : FsQ s0 (fsFail s status) := by
  unfold fsFail; grind [foldl_quiet, mk_quiet, FsQ.st, FsQ.after, FsQ.held, Quiet.store, Quiet.home, Quiet.core, Quiet.eng, Quiet.mach, Quiet.cw, Quiet.pwr, Quiet.parts, Quiet.extents, Quiet.grants, Quiet.audit, FsQ.mk]

theorem event_quiet (s0 : State) (e : Ev) (s : State) (h_s : Quiet s0 s) : Quiet s0 (event e s) := by
  unfold event; grind [event0_quiet, raiseOverflows_quiet, foldl_quiet, mk_quiet, FsQ.st, FsQ.after, FsQ.held, Quiet.store, Quiet.home, Quiet.core, Quiet.eng, Quiet.mach, Quiet.cw, Quiet.pwr, Quiet.parts, Quiet.extents, Quiet.grants, Quiet.audit, FsQ.mk]

theorem auditAs_quiet (s0 : State) (fop : Nat) (c : FsCmd) (se : FSession) (s : State) (h : Quiet s0 s) : Quiet s0 (auditAs fop c se sDENIED s) := by
  unfold auditAs auditAppend
  extract_lets n e0 e s1
  have h1 : Quiet s0 s1 := by
    obtain ⟨l, hl, hd⟩ := h.audit
    refine ⟨h.store, h.home, h.core, h.eng, h.mach, h.cw, h.pwr, h.parts, h.extents, h.grants, l ++ [e], ?_, ?_⟩
    · show s.nor.audit ++ [e] = _
      rw [hl, List.append_assoc]
    · intro x hx
      rcases List.mem_append.mp hx with hx | hx
      · exact hd x hx
      · rw [List.mem_singleton.mp hx]
  split
  · exact event_quiet _ _ _ (State_onNor_quiet _ _ _ h1 rfl)
  · exact h1

theorem auditDenied_quiet (s0 : State) (fop : ℕ) (c : FsCmd) (se : FSession) (s : State) (h_s : Quiet s0 s) : Quiet s0 (auditDenied fop c se s).2 := by
  unfold auditDenied; grind [setCtx_quiet, auditAs_quiet, foldl_quiet, mk_quiet, FsQ.st, FsQ.after, FsQ.held, Quiet.store, Quiet.home, Quiet.core, Quiet.eng, Quiet.mach, Quiet.cw, Quiet.pwr, Quiet.parts, Quiet.extents, Quiet.grants, Quiet.audit, FsQ.mk]

theorem fsBad_quiet (s0 : State) (s : State) (off : ℕ) (h_s : Quiet s0 s) : FsQ s0 (fsBad s off) := by
  unfold fsBad; grind [foldl_quiet, mk_quiet, FsQ.st, FsQ.after, FsQ.held, Quiet.store, Quiet.home, Quiet.core, Quiet.eng, Quiet.mach, Quiet.cw, Quiet.pwr, Quiet.parts, Quiet.extents, Quiet.grants, Quiet.audit, FsQ.mk]

theorem fsOutcome_quiet (s0 : State) (o : FsOp) (se : FSession) (s : State) (h_o : ∀ se s, Quiet s0 s → FsQ s0 (o.body se s)) (h : Quiet s0 s) : FsQ s0 (fsOutcome o se s).1 := by
  unfold fsOutcome
  have hb := h_o se s h
  repeat' (first | extract_lets | split)
  · exact fsFail_quiet _ _ _ h
  · exact fsFail_quiet _ _ _ h
  · exact fsFail_quiet _ _ _ h
  · exact fsFail_quiet _ _ _ h
  · exact fsFail_quiet _ _ _ (bump_quiet _ _ _ h)
  · exact fsBad_quiet _ _ _ h
  · exact hb
  · exact ⟨bump_quiet _ _ _ (State_onSec_quiet _ _ _ hb.st rfl rfl rfl), hb.after, hb.held⟩

theorem keepWaiting_quiet (s0 : State) (fop : Nat) (c : FsCmd) (line : Nat) (s : State) (h : Quiet s0 s) : Quiet s0 (keepWaiting fop c line s) :=
  State_onSec_quiet _ _ _ h rfl rfl rfl

theorem fsExecute_quiet (s0 : State) (o : FsOp) (c : FsCmd) (se : FSession) (ck : List Byte) (s : State) (h_a : o.audited = false) (h_o : ∀ se s, Quiet s0 s → FsQ s0 (o.body se s)) (h_s : Quiet s0 s) : Quiet s0 (fsExecute o c se ck s) := by
  have ho := fsOutcome_quiet s0 o se s h_o h_s
  unfold fsExecute
  simp only [h_a, Bool.false_eq_true, if_false]
  split
  · exact keepWaiting_quiet _ _ _ _ _ ho.st
  · repeat' (first | extract_lets | split)
    · exact fsAnswer_quiet _ _ _ _ _ _ _ ho
    · exact fsAnswer_quiet _ _ _ _ _ _ _ ⟨auditDenied_quiet _ _ _ _ _ ho.st, ho.after, ho.held⟩
    · exact fsAnswer_quiet _ _ _ _ _ _ _ ho

theorem fsTake_quiet (s0 : State) (o : FsOp) (c : FsCmd) (s : State) (h_a : o.audited = false) (h_o : ∀ se s, Quiet s0 s → FsQ s0 (o.body se s)) (h_s : Quiet s0 s) : Quiet s0 (fsTake o c s) := by
  have hf : ∀ s k, Quiet s0 s → Quiet s0 (fsAnswer o.fop c k false noDetail (fsFail s sDENIED)) := fun s k hs => fsAnswer_quiet _ _ _ _ _ _ _ (fsFail_quiet _ _ _ hs)
  have ht := takeFelset_quiet s0 c s h_s
  unfold fsTake
  split
  · exact h_s
  · extract_lets t se own ck tagOk s1 s2 r
    have h1 : Quiet s0 s1 := bump_quiet _ _ _ ht
    have h2 : Quiet s0 s2 := by unfold s2; split <;> [exact event_quiet _ _ _ h1; exact h1]
    have h3 : Quiet s0 r := setFsession_quiet _ _ _ _ ht
    split
    · exact hf _ _ ht
    · split
      · exact fsAnswer_quiet _ _ _ _ _ _ _ (fsFail_quiet _ _ _ ht)
      · split
        · split
          next e =>
          have h4 := auditDenied_quiet s0 o.fop c {} s2 h2
          rw [e] at h4
          exact fsAnswer_quiet _ _ _ _ _ _ _ (fsFail_quiet _ _ _ h4)
        · split
          · exact fsExecute_quiet _ _ _ _ _ _ h_a h_o ht
          · split
            · exact fsExecute_quiet _ _ _ _ _ _ h_a h_o h3
            · split
              · exact fsSend_quiet _ _ _ _ (bump_quiet _ _ _ h3)
              · exact hf _ _ (bump_quiet _ _ _ ht)

theorem runFelset_quiet (s0 : State) (o : FsOp) (c : FsCmd) (s : State) (h_a : o.audited = false) (h_o : ∀ se s, Quiet s0 s → FsQ s0 (o.body se s)) (h_s : Quiet s0 s) : Quiet s0 (runFelset o c s) := by
  unfold runFelset
  split
  · exact State_onSec_quiet _ _ _ (takeFelset_quiet s0 c s h_s) rfl rfl rfl
  · exact fsGone_quiet _ _ (fsTake_quiet _ _ _ _ h_a h_o h_s)

theorem fsOk_quiet (s0 : State) (s : State) (data : optParam (List Byte) []) (h_s : Quiet s0 s) : FsQ s0 (fsOk s data) := by
  unfold fsOk; grind [foldl_quiet, mk_quiet, FsQ.st, FsQ.after, FsQ.held, Quiet.store, Quiet.home, Quiet.core, Quiet.eng, Quiet.mach, Quiet.cw, Quiet.pwr, Quiet.parts, Quiet.extents, Quiet.grants, Quiet.audit, FsQ.mk]

theorem execIdentity_quiet (s0 : State) (c : FsCmd) (s : State) (h_s : Quiet s0 s) : ∀ t', execIdentity c s = .next t' → Quiet s0 t' := by
  unfold execIdentity; grind [runFelset_quiet, fsOk_quiet, foldl_quiet, mk_quiet, FsQ.st, FsQ.after, FsQ.held, Quiet.store, Quiet.home, Quiet.core, Quiet.eng, Quiet.mach, Quiet.cw, Quiet.pwr, Quiet.parts, Quiet.extents, Quiet.grants, Quiet.audit, FsQ.mk]

theorem execAuditRead_quiet (s0 : State) (c : FsCmd) (s : State) (h_s : Quiet s0 s) : ∀ t', execAuditRead c s = .next t' → Quiet s0 t' := by
  unfold execAuditRead; grind [runFelset_quiet, fsOk_quiet, foldl_quiet, mk_quiet, FsQ.st, FsQ.after, FsQ.held, Quiet.store, Quiet.home, Quiet.core, Quiet.eng, Quiet.mach, Quiet.cw, Quiet.pwr, Quiet.parts, Quiet.extents, Quiet.grants, Quiet.audit, FsQ.mk]

theorem execAuditHead_quiet (s0 : State) (c : FsCmd) (s : State) (h_s : Quiet s0 s) : ∀ t', execAuditHead c s = .next t' → Quiet s0 t' := by
  unfold execAuditHead; grind [runFelset_quiet, fsOk_quiet, foldl_quiet, mk_quiet, FsQ.st, FsQ.after, FsQ.held, Quiet.store, Quiet.home, Quiet.core, Quiet.eng, Quiet.mach, Quiet.cw, Quiet.pwr, Quiet.parts, Quiet.extents, Quiet.grants, Quiet.audit, FsQ.mk]

theorem execCwRead_quiet (s0 : State) (c : FsCmd) (s : State) (h_s : Quiet s0 s) : ∀ t', execCwRead c s = .next t' → Quiet s0 t' := by
  unfold execCwRead; grind [runFelset_quiet, fsOk_quiet, foldl_quiet, mk_quiet, FsQ.st, FsQ.after, FsQ.held, Quiet.store, Quiet.home, Quiet.core, Quiet.eng, Quiet.mach, Quiet.cw, Quiet.pwr, Quiet.parts, Quiet.extents, Quiet.grants, Quiet.audit, FsQ.mk]

theorem freeVal_quiet (s0 : State) (s : State) (h_s : Quiet s0 s) : Quiet s0 (freeVal s).2 := by
  unfold freeVal; grind [foldl_quiet, mk_quiet, FsQ.st, FsQ.after, FsQ.held, Quiet.store, Quiet.home, Quiet.core, Quiet.eng, Quiet.mach, Quiet.cw, Quiet.pwr, Quiet.parts, Quiet.extents, Quiet.grants, Quiet.audit, FsQ.mk]

theorem execExtQuery_quiet (s0 : State) (c : FsCmd) (s : State) (h_s : Quiet s0 s) : ∀ t', execExtQuery c s = .next t' → Quiet s0 t' := by
  unfold execExtQuery; grind [runFelset_quiet, freeVal_quiet, fsOk_quiet, foldl_quiet, mk_quiet, FsQ.st, FsQ.after, FsQ.held, Quiet.store, Quiet.home, Quiet.core, Quiet.eng, Quiet.mach, Quiet.cw, Quiet.pwr, Quiet.parts, Quiet.extents, Quiet.grants, Quiet.audit, FsQ.mk]

theorem execPartQuery_quiet (s0 : State) (c : FsCmd) (s : State) (h_s : Quiet s0 s) : ∀ t', execPartQuery c s = .next t' → Quiet s0 t' := by
  unfold execPartQuery; grind [runFelset_quiet, fsOk_quiet, foldl_quiet, mk_quiet, FsQ.st, FsQ.after, FsQ.held, Quiet.store, Quiet.home, Quiet.core, Quiet.eng, Quiet.mach, Quiet.cw, Quiet.pwr, Quiet.parts, Quiet.extents, Quiet.grants, Quiet.audit, FsQ.mk]

theorem execTierUsage_quiet (s0 : State) (c : FsCmd) (s : State) (h_s : Quiet s0 s) : ∀ t', execTierUsage c s = .next t' → Quiet s0 t' := by
  unfold execTierUsage; grind [runFelset_quiet, fsOk_quiet, foldl_quiet, mk_quiet, FsQ.st, FsQ.after, FsQ.held, Quiet.store, Quiet.home, Quiet.core, Quiet.eng, Quiet.mach, Quiet.cw, Quiet.pwr, Quiet.parts, Quiet.extents, Quiet.grants, Quiet.audit, FsQ.mk]

theorem execQueryStream_quiet (s0 : State) (c : FsCmd) (s : State) (h_s : Quiet s0 s) : ∀ t', execQueryStream c s = .next t' → Quiet s0 t' := by
  unfold execQueryStream; grind [runFelset_quiet, fsOk_quiet, foldl_quiet, mk_quiet, FsQ.st, FsQ.after, FsQ.held, Quiet.store, Quiet.home, Quiet.core, Quiet.eng, Quiet.mach, Quiet.cw, Quiet.pwr, Quiet.parts, Quiet.extents, Quiet.grants, Quiet.audit, FsQ.mk]

theorem freeBytes_quiet (s0 : State) (n : ℕ) (s : State) (h_s : Quiet s0 s) : Quiet s0 (freeBytes n s).2 := by
  unfold freeBytes; grind [foldl_quiet, mk_quiet, FsQ.st, FsQ.after, FsQ.held, Quiet.store, Quiet.home, Quiet.core, Quiet.eng, Quiet.mach, Quiet.cw, Quiet.pwr, Quiet.parts, Quiet.extents, Quiet.grants, Quiet.audit, FsQ.mk]

theorem execQnGroupQuery_quiet (s0 : State) (c : FsCmd) (s : State) (h_s : Quiet s0 s) : ∀ t', execQnGroupQuery c s = .next t' → Quiet s0 t' := by
  unfold execQnGroupQuery; grind [runFelset_quiet, freeBytes_quiet, fsOk_quiet, foldl_quiet, mk_quiet, FsQ.st, FsQ.after, FsQ.held, Quiet.store, Quiet.home, Quiet.core, Quiet.eng, Quiet.mach, Quiet.cw, Quiet.pwr, Quiet.parts, Quiet.extents, Quiet.grants, Quiet.audit, FsQ.mk]

theorem execHsStepQuery_quiet (s0 : State) (c : FsCmd) (s : State) (h_s : Quiet s0 s) : ∀ t', execHsStepQuery c s = .next t' → Quiet s0 t' := by
  unfold execHsStepQuery; grind [runFelset_quiet, freeBytes_quiet, fsOk_quiet, foldl_quiet, mk_quiet, FsQ.st, FsQ.after, FsQ.held, Quiet.store, Quiet.home, Quiet.core, Quiet.eng, Quiet.mach, Quiet.cw, Quiet.pwr, Quiet.parts, Quiet.extents, Quiet.grants, Quiet.audit, FsQ.mk]

theorem execBlIndexQuery_quiet (s0 : State) (c : FsCmd) (s : State) (h_s : Quiet s0 s) : ∀ t', execBlIndexQuery c s = .next t' → Quiet s0 t' := by
  unfold execBlIndexQuery; grind [runFelset_quiet, fsOk_quiet, foldl_quiet, mk_quiet, FsQ.st, FsQ.after, FsQ.held, Quiet.store, Quiet.home, Quiet.core, Quiet.eng, Quiet.mach, Quiet.cw, Quiet.pwr, Quiet.parts, Quiet.extents, Quiet.grants, Quiet.audit, FsQ.mk]

theorem execSetQuery_quiet (s0 : State) (c : FsCmd) (s : State) (h_s : Quiet s0 s) : ∀ t', execSetQuery c s = .next t' → Quiet s0 t' := by
  unfold execSetQuery; grind [runFelset_quiet, fsOk_quiet, foldl_quiet, mk_quiet, FsQ.st, FsQ.after, FsQ.held, Quiet.store, Quiet.home, Quiet.core, Quiet.eng, Quiet.mach, Quiet.cw, Quiet.pwr, Quiet.parts, Quiet.extents, Quiet.grants, Quiet.audit, FsQ.mk]

theorem execLivenessQuery_quiet (s0 : State) (c : FsCmd) (s : State) (h_s : Quiet s0 s) : ∀ t', execLivenessQuery c s = .next t' → Quiet s0 t' := by
  unfold execLivenessQuery; grind [runFelset_quiet, freeVal_quiet, fsOk_quiet, foldl_quiet, mk_quiet, FsQ.st, FsQ.after, FsQ.held, Quiet.store, Quiet.home, Quiet.core, Quiet.eng, Quiet.mach, Quiet.cw, Quiet.pwr, Quiet.parts, Quiet.extents, Quiet.grants, Quiet.audit, FsQ.mk]

theorem execHealthQuery_quiet (s0 : State) (c : FsCmd) (s : State) (h_s : Quiet s0 s) : ∀ t', execHealthQuery c s = .next t' → Quiet s0 t' := by
  unfold execHealthQuery; grind [runFelset_quiet, freeBytes_quiet, fsOk_quiet, foldl_quiet, mk_quiet, FsQ.st, FsQ.after, FsQ.held, Quiet.store, Quiet.home, Quiet.core, Quiet.eng, Quiet.mach, Quiet.cw, Quiet.pwr, Quiet.parts, Quiet.extents, Quiet.grants, Quiet.audit, FsQ.mk]

theorem execHealthLogRead_quiet (s0 : State) (c : FsCmd) (s : State) (h_s : Quiet s0 s) : ∀ t', execHealthLogRead c s = .next t' → Quiet s0 t' := by
  unfold execHealthLogRead; grind [runFelset_quiet, fsOk_quiet, foldl_quiet, mk_quiet, FsQ.st, FsQ.after, FsQ.held, Quiet.store, Quiet.home, Quiet.core, Quiet.eng, Quiet.mach, Quiet.cw, Quiet.pwr, Quiet.parts, Quiet.extents, Quiet.grants, Quiet.audit, FsQ.mk]

theorem execImgQuery_quiet (s0 : State) (c : FsCmd) (s : State) (h_s : Quiet s0 s) : ∀ t', execImgQuery c s = .next t' → Quiet s0 t' := by
  unfold execImgQuery; grind [runFelset_quiet, freeBytes_quiet, fsOk_quiet, foldl_quiet, mk_quiet, FsQ.st, FsQ.after, FsQ.held, Quiet.store, Quiet.home, Quiet.core, Quiet.eng, Quiet.mach, Quiet.cw, Quiet.pwr, Quiet.parts, Quiet.extents, Quiet.grants, Quiet.audit, FsQ.mk]

end Sys2Proof.Machine
end

