-- ==== Sys2Proof/Laws/State.lean ====
section
/-! SUPPORT. One lemma per field of State and per update: the part an update names is changed, every other part is as it was. -/

namespace Sys2Proof.Machine

/-! ### onPwr -/

@[simp] theorem State.onPwr_pending (f : Pwr → Pwr) (s : State) : (s.onPwr f).pending = s.pending := rfl
@[simp] theorem State.onPwr_cw (f : Pwr → Pwr) (s : State) : (s.onPwr f).cw = s.cw := rfl
@[simp] theorem State.onPwr_stats (f : Pwr → Pwr) (s : State) : (s.onPwr f).stats = s.stats := rfl
@[simp] theorem State.onPwr_pwr (f : Pwr → Pwr) (s : State) : (s.onPwr f).pwr = f s.pwr := rfl
@[simp] theorem State.onPwr_nor (f : Pwr → Pwr) (s : State) : (s.onPwr f).nor = s.nor := rfl
@[simp] theorem State.onPwr_store (f : Pwr → Pwr) (s : State) : (s.onPwr f).store = s.store := rfl
@[simp] theorem State.onPwr_kt (f : Pwr → Pwr) (s : State) : (s.onPwr f).kt = s.kt := rfl
@[simp] theorem State.onPwr_home (f : Pwr → Pwr) (s : State) : (s.onPwr f).home = s.home := rfl
@[simp] theorem State.onPwr_core (f : Pwr → Pwr) (s : State) : (s.onPwr f).core = s.core := rfl
@[simp] theorem State.onPwr_eng (f : Pwr → Pwr) (s : State) : (s.onPwr f).eng = s.eng := rfl
@[simp] theorem State.onPwr_sec (f : Pwr → Pwr) (s : State) : (s.onPwr f).sec = s.sec := rfl
@[simp] theorem State.onPwr_mach (f : Pwr → Pwr) (s : State) : (s.onPwr f).mach = s.mach := rfl
@[simp] theorem State.onPwr_gov (f : Pwr → Pwr) (s : State) : (s.onPwr f).gov = s.gov := rfl
@[simp] theorem State.onPwr_wire (f : Pwr → Pwr) (s : State) : (s.onPwr f).wire = s.wire := rfl
@[simp] theorem State.onPwr_free (f : Pwr → Pwr) (s : State) : (s.onPwr f).free = s.free := rfl
@[simp] theorem State.onPwr_onPwr (f g : Pwr → Pwr) (s : State) : (s.onPwr f).onPwr g = s.onPwr (fun x => g (f x)) := rfl

/-! ### onNor -/

@[simp] theorem State.onNor_pending (f : Nor → Nor) (s : State) : (s.onNor f).pending = s.pending := rfl
@[simp] theorem State.onNor_cw (f : Nor → Nor) (s : State) : (s.onNor f).cw = s.cw := rfl
@[simp] theorem State.onNor_stats (f : Nor → Nor) (s : State) : (s.onNor f).stats = s.stats := rfl
@[simp] theorem State.onNor_pwr (f : Nor → Nor) (s : State) : (s.onNor f).pwr = s.pwr := rfl
@[simp] theorem State.onNor_nor (f : Nor → Nor) (s : State) : (s.onNor f).nor = f s.nor := rfl
@[simp] theorem State.onNor_store (f : Nor → Nor) (s : State) : (s.onNor f).store = s.store := rfl
@[simp] theorem State.onNor_kt (f : Nor → Nor) (s : State) : (s.onNor f).kt = s.kt := rfl
@[simp] theorem State.onNor_home (f : Nor → Nor) (s : State) : (s.onNor f).home = s.home := rfl
@[simp] theorem State.onNor_core (f : Nor → Nor) (s : State) : (s.onNor f).core = s.core := rfl
@[simp] theorem State.onNor_eng (f : Nor → Nor) (s : State) : (s.onNor f).eng = s.eng := rfl
@[simp] theorem State.onNor_sec (f : Nor → Nor) (s : State) : (s.onNor f).sec = s.sec := rfl
@[simp] theorem State.onNor_mach (f : Nor → Nor) (s : State) : (s.onNor f).mach = s.mach := rfl
@[simp] theorem State.onNor_gov (f : Nor → Nor) (s : State) : (s.onNor f).gov = s.gov := rfl
@[simp] theorem State.onNor_wire (f : Nor → Nor) (s : State) : (s.onNor f).wire = s.wire := rfl
@[simp] theorem State.onNor_free (f : Nor → Nor) (s : State) : (s.onNor f).free = s.free := rfl
@[simp] theorem State.onNor_onNor (f g : Nor → Nor) (s : State) : (s.onNor f).onNor g = s.onNor (fun x => g (f x)) := rfl

/-! ### onStore -/

@[simp] theorem State.onStore_pending (f : Store → Store) (s : State) : (s.onStore f).pending = s.pending := rfl
@[simp] theorem State.onStore_cw (f : Store → Store) (s : State) : (s.onStore f).cw = s.cw := rfl
@[simp] theorem State.onStore_stats (f : Store → Store) (s : State) : (s.onStore f).stats = s.stats := rfl
@[simp] theorem State.onStore_pwr (f : Store → Store) (s : State) : (s.onStore f).pwr = s.pwr := rfl
@[simp] theorem State.onStore_nor (f : Store → Store) (s : State) : (s.onStore f).nor = s.nor := rfl
@[simp] theorem State.onStore_store (f : Store → Store) (s : State) : (s.onStore f).store = f s.store := rfl
@[simp] theorem State.onStore_kt (f : Store → Store) (s : State) : (s.onStore f).kt = s.kt := rfl
@[simp] theorem State.onStore_home (f : Store → Store) (s : State) : (s.onStore f).home = s.home := rfl
@[simp] theorem State.onStore_core (f : Store → Store) (s : State) : (s.onStore f).core = s.core := rfl
@[simp] theorem State.onStore_eng (f : Store → Store) (s : State) : (s.onStore f).eng = s.eng := rfl
@[simp] theorem State.onStore_sec (f : Store → Store) (s : State) : (s.onStore f).sec = s.sec := rfl
@[simp] theorem State.onStore_mach (f : Store → Store) (s : State) : (s.onStore f).mach = s.mach := rfl
@[simp] theorem State.onStore_gov (f : Store → Store) (s : State) : (s.onStore f).gov = s.gov := rfl
@[simp] theorem State.onStore_wire (f : Store → Store) (s : State) : (s.onStore f).wire = s.wire := rfl
@[simp] theorem State.onStore_free (f : Store → Store) (s : State) : (s.onStore f).free = s.free := rfl
@[simp] theorem State.onStore_onStore (f g : Store → Store) (s : State) : (s.onStore f).onStore g = s.onStore (fun x => g (f x)) := rfl

/-! ### onKt -/

@[simp] theorem State.onKt_pending (f : Kt → Kt) (s : State) : (s.onKt f).pending = s.pending := rfl
@[simp] theorem State.onKt_cw (f : Kt → Kt) (s : State) : (s.onKt f).cw = s.cw := rfl
@[simp] theorem State.onKt_stats (f : Kt → Kt) (s : State) : (s.onKt f).stats = s.stats := rfl
@[simp] theorem State.onKt_pwr (f : Kt → Kt) (s : State) : (s.onKt f).pwr = s.pwr := rfl
@[simp] theorem State.onKt_nor (f : Kt → Kt) (s : State) : (s.onKt f).nor = s.nor := rfl
@[simp] theorem State.onKt_store (f : Kt → Kt) (s : State) : (s.onKt f).store = s.store := rfl
@[simp] theorem State.onKt_kt (f : Kt → Kt) (s : State) : (s.onKt f).kt = f s.kt := rfl
@[simp] theorem State.onKt_home (f : Kt → Kt) (s : State) : (s.onKt f).home = s.home := rfl
@[simp] theorem State.onKt_core (f : Kt → Kt) (s : State) : (s.onKt f).core = s.core := rfl
@[simp] theorem State.onKt_eng (f : Kt → Kt) (s : State) : (s.onKt f).eng = s.eng := rfl
@[simp] theorem State.onKt_sec (f : Kt → Kt) (s : State) : (s.onKt f).sec = s.sec := rfl
@[simp] theorem State.onKt_mach (f : Kt → Kt) (s : State) : (s.onKt f).mach = s.mach := rfl
@[simp] theorem State.onKt_gov (f : Kt → Kt) (s : State) : (s.onKt f).gov = s.gov := rfl
@[simp] theorem State.onKt_wire (f : Kt → Kt) (s : State) : (s.onKt f).wire = s.wire := rfl
@[simp] theorem State.onKt_free (f : Kt → Kt) (s : State) : (s.onKt f).free = s.free := rfl
@[simp] theorem State.onKt_onKt (f g : Kt → Kt) (s : State) : (s.onKt f).onKt g = s.onKt (fun x => g (f x)) := rfl

/-! ### onHome -/

@[simp] theorem State.onHome_pending (f : Home → Home) (s : State) : (s.onHome f).pending = s.pending := rfl
@[simp] theorem State.onHome_cw (f : Home → Home) (s : State) : (s.onHome f).cw = s.cw := rfl
@[simp] theorem State.onHome_stats (f : Home → Home) (s : State) : (s.onHome f).stats = s.stats := rfl
@[simp] theorem State.onHome_pwr (f : Home → Home) (s : State) : (s.onHome f).pwr = s.pwr := rfl
@[simp] theorem State.onHome_nor (f : Home → Home) (s : State) : (s.onHome f).nor = s.nor := rfl
@[simp] theorem State.onHome_store (f : Home → Home) (s : State) : (s.onHome f).store = s.store := rfl
@[simp] theorem State.onHome_kt (f : Home → Home) (s : State) : (s.onHome f).kt = s.kt := rfl
@[simp] theorem State.onHome_home (f : Home → Home) (s : State) : (s.onHome f).home = f s.home := rfl
@[simp] theorem State.onHome_core (f : Home → Home) (s : State) : (s.onHome f).core = s.core := rfl
@[simp] theorem State.onHome_eng (f : Home → Home) (s : State) : (s.onHome f).eng = s.eng := rfl
@[simp] theorem State.onHome_sec (f : Home → Home) (s : State) : (s.onHome f).sec = s.sec := rfl
@[simp] theorem State.onHome_mach (f : Home → Home) (s : State) : (s.onHome f).mach = s.mach := rfl
@[simp] theorem State.onHome_gov (f : Home → Home) (s : State) : (s.onHome f).gov = s.gov := rfl
@[simp] theorem State.onHome_wire (f : Home → Home) (s : State) : (s.onHome f).wire = s.wire := rfl
@[simp] theorem State.onHome_free (f : Home → Home) (s : State) : (s.onHome f).free = s.free := rfl
@[simp] theorem State.onHome_onHome (f g : Home → Home) (s : State) : (s.onHome f).onHome g = s.onHome (fun x => g (f x)) := rfl

/-! ### onCore -/

@[simp] theorem State.onCore_pending (f : Core → Core) (s : State) : (s.onCore f).pending = s.pending := rfl
@[simp] theorem State.onCore_cw (f : Core → Core) (s : State) : (s.onCore f).cw = s.cw := rfl
@[simp] theorem State.onCore_stats (f : Core → Core) (s : State) : (s.onCore f).stats = s.stats := rfl
@[simp] theorem State.onCore_pwr (f : Core → Core) (s : State) : (s.onCore f).pwr = s.pwr := rfl
@[simp] theorem State.onCore_nor (f : Core → Core) (s : State) : (s.onCore f).nor = s.nor := rfl
@[simp] theorem State.onCore_store (f : Core → Core) (s : State) : (s.onCore f).store = s.store := rfl
@[simp] theorem State.onCore_kt (f : Core → Core) (s : State) : (s.onCore f).kt = s.kt := rfl
@[simp] theorem State.onCore_home (f : Core → Core) (s : State) : (s.onCore f).home = s.home := rfl
@[simp] theorem State.onCore_core (f : Core → Core) (s : State) : (s.onCore f).core = f s.core := rfl
@[simp] theorem State.onCore_eng (f : Core → Core) (s : State) : (s.onCore f).eng = s.eng := rfl
@[simp] theorem State.onCore_sec (f : Core → Core) (s : State) : (s.onCore f).sec = s.sec := rfl
@[simp] theorem State.onCore_mach (f : Core → Core) (s : State) : (s.onCore f).mach = s.mach := rfl
@[simp] theorem State.onCore_gov (f : Core → Core) (s : State) : (s.onCore f).gov = s.gov := rfl
@[simp] theorem State.onCore_wire (f : Core → Core) (s : State) : (s.onCore f).wire = s.wire := rfl
@[simp] theorem State.onCore_free (f : Core → Core) (s : State) : (s.onCore f).free = s.free := rfl
@[simp] theorem State.onCore_onCore (f g : Core → Core) (s : State) : (s.onCore f).onCore g = s.onCore (fun x => g (f x)) := rfl

/-! ### onEng -/

@[simp] theorem State.onEng_pending (f : Eng3 → Eng3) (s : State) : (s.onEng f).pending = s.pending := rfl
@[simp] theorem State.onEng_cw (f : Eng3 → Eng3) (s : State) : (s.onEng f).cw = s.cw := rfl
@[simp] theorem State.onEng_stats (f : Eng3 → Eng3) (s : State) : (s.onEng f).stats = s.stats := rfl
@[simp] theorem State.onEng_pwr (f : Eng3 → Eng3) (s : State) : (s.onEng f).pwr = s.pwr := rfl
@[simp] theorem State.onEng_nor (f : Eng3 → Eng3) (s : State) : (s.onEng f).nor = s.nor := rfl
@[simp] theorem State.onEng_store (f : Eng3 → Eng3) (s : State) : (s.onEng f).store = s.store := rfl
@[simp] theorem State.onEng_kt (f : Eng3 → Eng3) (s : State) : (s.onEng f).kt = s.kt := rfl
@[simp] theorem State.onEng_home (f : Eng3 → Eng3) (s : State) : (s.onEng f).home = s.home := rfl
@[simp] theorem State.onEng_core (f : Eng3 → Eng3) (s : State) : (s.onEng f).core = s.core := rfl
@[simp] theorem State.onEng_eng (f : Eng3 → Eng3) (s : State) : (s.onEng f).eng = f s.eng := rfl
@[simp] theorem State.onEng_sec (f : Eng3 → Eng3) (s : State) : (s.onEng f).sec = s.sec := rfl
@[simp] theorem State.onEng_mach (f : Eng3 → Eng3) (s : State) : (s.onEng f).mach = s.mach := rfl
@[simp] theorem State.onEng_gov (f : Eng3 → Eng3) (s : State) : (s.onEng f).gov = s.gov := rfl
@[simp] theorem State.onEng_wire (f : Eng3 → Eng3) (s : State) : (s.onEng f).wire = s.wire := rfl
@[simp] theorem State.onEng_free (f : Eng3 → Eng3) (s : State) : (s.onEng f).free = s.free := rfl
@[simp] theorem State.onEng_onEng (f g : Eng3 → Eng3) (s : State) : (s.onEng f).onEng g = s.onEng (fun x => g (f x)) := rfl

/-! ### onSec -/

@[simp] theorem State.onSec_pending (f : Sec → Sec) (s : State) : (s.onSec f).pending = s.pending := rfl
@[simp] theorem State.onSec_cw (f : Sec → Sec) (s : State) : (s.onSec f).cw = s.cw := rfl
@[simp] theorem State.onSec_stats (f : Sec → Sec) (s : State) : (s.onSec f).stats = s.stats := rfl
@[simp] theorem State.onSec_pwr (f : Sec → Sec) (s : State) : (s.onSec f).pwr = s.pwr := rfl
@[simp] theorem State.onSec_nor (f : Sec → Sec) (s : State) : (s.onSec f).nor = s.nor := rfl
@[simp] theorem State.onSec_store (f : Sec → Sec) (s : State) : (s.onSec f).store = s.store := rfl
@[simp] theorem State.onSec_kt (f : Sec → Sec) (s : State) : (s.onSec f).kt = s.kt := rfl
@[simp] theorem State.onSec_home (f : Sec → Sec) (s : State) : (s.onSec f).home = s.home := rfl
@[simp] theorem State.onSec_core (f : Sec → Sec) (s : State) : (s.onSec f).core = s.core := rfl
@[simp] theorem State.onSec_eng (f : Sec → Sec) (s : State) : (s.onSec f).eng = s.eng := rfl
@[simp] theorem State.onSec_sec (f : Sec → Sec) (s : State) : (s.onSec f).sec = f s.sec := rfl
@[simp] theorem State.onSec_mach (f : Sec → Sec) (s : State) : (s.onSec f).mach = s.mach := rfl
@[simp] theorem State.onSec_gov (f : Sec → Sec) (s : State) : (s.onSec f).gov = s.gov := rfl
@[simp] theorem State.onSec_wire (f : Sec → Sec) (s : State) : (s.onSec f).wire = s.wire := rfl
@[simp] theorem State.onSec_free (f : Sec → Sec) (s : State) : (s.onSec f).free = s.free := rfl
@[simp] theorem State.onSec_onSec (f g : Sec → Sec) (s : State) : (s.onSec f).onSec g = s.onSec (fun x => g (f x)) := rfl

/-! ### onMach -/

@[simp] theorem State.onMach_pending (f : Mach → Mach) (s : State) : (s.onMach f).pending = s.pending := rfl
@[simp] theorem State.onMach_cw (f : Mach → Mach) (s : State) : (s.onMach f).cw = s.cw := rfl
@[simp] theorem State.onMach_stats (f : Mach → Mach) (s : State) : (s.onMach f).stats = s.stats := rfl
@[simp] theorem State.onMach_pwr (f : Mach → Mach) (s : State) : (s.onMach f).pwr = s.pwr := rfl
@[simp] theorem State.onMach_nor (f : Mach → Mach) (s : State) : (s.onMach f).nor = s.nor := rfl
@[simp] theorem State.onMach_store (f : Mach → Mach) (s : State) : (s.onMach f).store = s.store := rfl
@[simp] theorem State.onMach_kt (f : Mach → Mach) (s : State) : (s.onMach f).kt = s.kt := rfl
@[simp] theorem State.onMach_home (f : Mach → Mach) (s : State) : (s.onMach f).home = s.home := rfl
@[simp] theorem State.onMach_core (f : Mach → Mach) (s : State) : (s.onMach f).core = s.core := rfl
@[simp] theorem State.onMach_eng (f : Mach → Mach) (s : State) : (s.onMach f).eng = s.eng := rfl
@[simp] theorem State.onMach_sec (f : Mach → Mach) (s : State) : (s.onMach f).sec = s.sec := rfl
@[simp] theorem State.onMach_mach (f : Mach → Mach) (s : State) : (s.onMach f).mach = f s.mach := rfl
@[simp] theorem State.onMach_gov (f : Mach → Mach) (s : State) : (s.onMach f).gov = s.gov := rfl
@[simp] theorem State.onMach_wire (f : Mach → Mach) (s : State) : (s.onMach f).wire = s.wire := rfl
@[simp] theorem State.onMach_free (f : Mach → Mach) (s : State) : (s.onMach f).free = s.free := rfl
@[simp] theorem State.onMach_onMach (f g : Mach → Mach) (s : State) : (s.onMach f).onMach g = s.onMach (fun x => g (f x)) := rfl

/-! ### onGov -/

@[simp] theorem State.onGov_pending (f : Gov → Gov) (s : State) : (s.onGov f).pending = s.pending := rfl
@[simp] theorem State.onGov_cw (f : Gov → Gov) (s : State) : (s.onGov f).cw = s.cw := rfl
@[simp] theorem State.onGov_stats (f : Gov → Gov) (s : State) : (s.onGov f).stats = s.stats := rfl
@[simp] theorem State.onGov_pwr (f : Gov → Gov) (s : State) : (s.onGov f).pwr = s.pwr := rfl
@[simp] theorem State.onGov_nor (f : Gov → Gov) (s : State) : (s.onGov f).nor = s.nor := rfl
@[simp] theorem State.onGov_store (f : Gov → Gov) (s : State) : (s.onGov f).store = s.store := rfl
@[simp] theorem State.onGov_kt (f : Gov → Gov) (s : State) : (s.onGov f).kt = s.kt := rfl
@[simp] theorem State.onGov_home (f : Gov → Gov) (s : State) : (s.onGov f).home = s.home := rfl
@[simp] theorem State.onGov_core (f : Gov → Gov) (s : State) : (s.onGov f).core = s.core := rfl
@[simp] theorem State.onGov_eng (f : Gov → Gov) (s : State) : (s.onGov f).eng = s.eng := rfl
@[simp] theorem State.onGov_sec (f : Gov → Gov) (s : State) : (s.onGov f).sec = s.sec := rfl
@[simp] theorem State.onGov_mach (f : Gov → Gov) (s : State) : (s.onGov f).mach = s.mach := rfl
@[simp] theorem State.onGov_gov (f : Gov → Gov) (s : State) : (s.onGov f).gov = f s.gov := rfl
@[simp] theorem State.onGov_wire (f : Gov → Gov) (s : State) : (s.onGov f).wire = s.wire := rfl
@[simp] theorem State.onGov_free (f : Gov → Gov) (s : State) : (s.onGov f).free = s.free := rfl
@[simp] theorem State.onGov_onGov (f g : Gov → Gov) (s : State) : (s.onGov f).onGov g = s.onGov (fun x => g (f x)) := rfl

end Sys2Proof.Machine
end

