-- ==== Sys2Proof/Laws/Request.lean ====
section
/-! SUPPORT. A request of a fabric node that passes Table 5.5 and waits alone in the queues is performed there, once for all opcodes. -/

namespace Sys2Proof.Machine

@[simp] theorem arrive_fst_src (op : Nat) (c : TxnReq) (y : SymErr) (s : State) : (arrive op c y s).1.src = .agent c.node := rfl
@[simp] theorem arrive_fst_op (op : Nat) (c : TxnReq) (y : SymErr) (s : State) : (arrive op c y s).1.op = op := rfl
@[simp] theorem arrive_fst_answer (op : Nat) (c : TxnReq) (y : SymErr) (s : State) : (arrive op c y s).1.answer = none := rfl
@[simp] theorem arrive_fst_got (op : Nat) (c : TxnReq) (y : SymErr) (s : State) : (arrive op c y s).1.got = [] := rfl
@[simp] theorem arrive_fst_off (op : Nat) (c : TxnReq) (y : SymErr) (s : State) : (arrive op c y s).1.off = c.addr.toNat % 2 ^ 50 := rfl
@[simp] theorem arrive_fst_param (op : Nat) (c : TxnReq) (y : SymErr) (s : State) : (arrive op c y s).1.param = c.param.toNat := rfl
@[simp] theorem arrive_fst_payload (op : Nat) (c : TxnReq) (y : SymErr) (s : State) : (arrive op c y s).1.payload = c.payload := rfl

/-- Without an open entry, draining changes nothing. -/
theorem drainComb_closed (l : Nat) (s : State) (h : combOpen s l = false) : drainComb l s = s := by
  have : (comb s l).width = 0 := by simpa [combOpen] using h
  simp [drainComb, this]

theorem foldl_drain_closed (ls : List Nat) (s : State) (h : ls.any (combOpen s) = false) :
    ls.foldl (fun s l => drainComb l s) s = s := by
  induction ls with
  | nil => rfl
  | cons l ls ih =>
    simp only [List.any_cons, Bool.or_eq_false_iff] at h
    simp [drainComb_closed l s h.1, ih h.2]

/-- A request that passes its checks is admitted. -/
theorem request_admitted (op : Nat) (c : TxnReq) (y : SymErr) (s : State) (h : reqClear op c y s = true) :
    request op c y s = admitted (reqIn op c y s).1 (reqIn op c y s).2 := by
  simp only [reqClear, Bool.and_eq_true, Bool.or_eq_true, decide_eq_true_eq, Bool.not_eq_true'] at h
  obtain ⟨⟨⟨⟨⟨⟨⟨⟨⟨⟨h1, h2⟩, h3⟩, h4⟩, h5⟩, h6⟩, h7⟩, h8⟩, h9⟩, h10⟩, h11⟩ := h
  have h3' : ((ctx s c.node).closing.isSome && !(decide (op = 0x53) || decide (op = 0x54))) = false := by
    rcases h3 with (h3 | h3) | h3
    · rw [Option.isNone_iff_eq_none] at h3
      simp [h3]
    · simp [h3]
    · simp [h3]
  simp only [request, reqIn]
  simp only [h1, h2, h3', h4, h5, h6, h7, h8, h9, h10, h11, Bool.not_true, Bool.or_self, Bool.false_eq_true,
    if_false, ne_eq, not_true_eq_false, if_true]

/-- An admitted request that goes to the queues is put there, and the home slices work. -/
theorem admitted_queued (x : Item × State) (h : goesToQueue x = true) : admitted x.1 x.2 = enqueue x.1 x.2 := by
  simp only [goesToQueue, Bool.and_eq_true, decide_eq_true_eq, Bool.not_eq_true'] at h
  obtain ⟨⟨⟨⟨⟨h1, h2⟩, h3⟩, h4⟩, h5⟩, h6⟩ := h
  simp [admitted, h1, h2, h3, h4, h5, h6]

/-- A request that cannot go on stays as it is, turn after turn. -/
theorem turns_stuck (n id : Nat) (s : State) (y : Item) (hq : s.home.waitq = [y]) (hi : y.id = id) (h : tryItem s y = none) :
    turns n id s = s := by
  induction n with
  | zero => rfl
  | succ n ih => simpa [turns, hq, hi, h] using ih

/-- While one request waits, the home slices take it turn by turn. -/
theorem pumpGo_turns (n id : Nat) (s u : State) (y : Item)
    (h : ∀ m ≤ n, ∃ z, (turns m id s).home.waitq = [z] ∧ z.id = id)
    (hy : (turns n id s).home.waitq = [y]) (ht : tryItem (turns n id s) y = some u) (k : Nat) :
    pumpGo (k + n + 1) s = pumpGo k u := by
  induction n generalizing s with
  | zero =>
    have hy' : s.home.waitq = [y] := hy
    have ht' : tryItem s y = some u := ht
    rw [pumpGo.eq_2, hy']
    simp [ht']
  | succ n ih =>
    obtain ⟨z, hz, hi⟩ := h 0 (Nat.zero_le _)
    have hz' : s.home.waitq = [z] := hz
    cases e : tryItem s z with
    | none =>
      rw [turns_stuck (n + 1) id s z hz' hi e] at hy ht
      rw [hz'] at hy
      cases hy
      rw [e] at ht
      cases ht
    | some s' =>
      have hs : ∀ m, turns (m + 1) id s = turns m id s' := fun m => by simp [turns, hz', hi, e]
      rw [show k + (n + 1) + 1 = (k + n + 1) + 1 from rfl, pumpGo.eq_2, hz']
      simp only [List.findSome?_cons, e]
      exact ih s' (fun m hm => by have := h (m + 1) (Nat.succ_le_succ hm); rwa [hs] at this) (by rwa [hs] at hy) (by rwa [hs] at ht)

/-- What `comes` says of the state after each of the first `n` turns, and of the request then. -/
theorem comes_iff (op : Nat) (c : TxnReq) (y : SymErr) (s : State) (n : Nat) (h : comes op c y s n = true) :
    reqClear op c y s = true ∧ goesToQueue (reqIn op c y s) = true ∧ n < 4607
    ∧ (∀ m ≤ n, ∃ z, (turns m (reqIn op c y s).1.id (putInQueue (reqIn op c y s).1 (reqIn op c y s).2)).home.waitq = [z]
        ∧ z.id = (reqIn op c y s).1.id)
    ∧ (atTurn op c y s n).2.home.waitq = [(atTurn op c y s n).1] ∧ (atTurn op c y s n).1.op = op
    ∧ (atTurn op c y s n).1.src = .agent c.node ∧ (atTurn op c y s n).1.param = c.param.toNat
    ∧ itemFree (atTurn op c y s n).1 (atTurn op c y s n).2 = true := by
  simp only [comes, Bool.and_eq_true, decide_eq_true_eq, List.all_eq_true, List.mem_range] at h
  obtain ⟨⟨⟨⟨⟨h1, h2⟩, -⟩, h4⟩, h5⟩, h6⟩ := h
  have one : ∀ m < n + 1, ∃ z, (turns m (reqIn op c y s).1.id (putInQueue (reqIn op c y s).1 (reqIn op c y s).2)).home.waitq = [z]
      ∧ z.id = (reqIn op c y s).1.id ∧ z.op = op ∧ z.src = .agent c.node ∧ z.param = c.param.toNat := by
    intro m hm
    have k := h5 m hm
    split at k
    · next z e =>
      simp only [Bool.and_eq_true, decide_eq_true_eq] at k
      exact ⟨z, e, k.1.1.1, k.1.1.2, k.1.2, k.2⟩
    · cases k
  obtain ⟨z, hz, -, z1, z2, z3⟩ := one n (Nat.lt_succ_self n)
  have hh : (atTurn op c y s n).1 = z := by simp [atTurn, hz]
  have hw : (atTurn op c y s n).2.home.waitq = [z] := hz
  refine ⟨h1, h2, h4, fun m hm => ?_, ?_⟩
  · obtain ⟨z, e1, e2, -⟩ := one m (Nat.lt_succ_of_le hm)
    exact ⟨z, e1, e2⟩
  · rw [hw, hh]
    rw [hh] at h6
    exact ⟨rfl, z1, z2, z3, h6⟩

/-- A request that waits alone is performed as `tryItem` says in the turn after the first `n`. -/
theorem request_onward (op : Nat) (c : TxnReq) (y : SymErr) (s u : State) (n : Nat) (h : comes op c y s n = true)
    (ht : tryItem (atTurn op c y s n).2 (atTurn op c y s n).1 = some u) :
    (Host.Outcome.next (request op c y s) : Host.Outcome State Fault Refusal) = onward op c y s n u := by
  obtain ⟨h1, h2, h4, h5, h6, -⟩ := comes_iff op c y s n h
  have hl : (putInQueue (reqIn op c y s).1 (reqIn op c y s).2).home.waitq.length = 1 := by
    obtain ⟨z, hz, -⟩ := h5 0 (Nat.zero_le _)
    have hz' : (putInQueue (reqIn op c y s).1 (reqIn op c y s).2).home.waitq = [z] := hz
    rw [hz']; rfl
  rw [request_admitted op c y s h1, admitted_queued _ h2]
  unfold onward enqueue pump
  rw [hl, show 4096 + 512 * 1 = (4607 - n) + n + 1 by omega,
    pumpGo_turns n _ _ u _ h5 h6 ht]

/-- A request alone is the first at each of its lines. -/
theorem atHead_alone (it : Item) (l : Nat) (s : State) (h : s.home.waitq = [it]) : atHead it l s = true := by
  simp [atHead, h]

/-- At a line with no open combining entry, a request alone is served. -/
theorem atLine_alone (it : Item) (f : State → Option State) (l : Nat) (s : State) (h : s.home.waitq = [it]) (hc : combOpen s l = false) :
    atLine it f l s = f s := by
  simp [atLine, atHead_alone it l s h, hc]

/-- What `tryItem` looks at first lets a free request of one line pass. -/
theorem tryItem_line (it : Item) (s : State) (h : itemFree it s = true) (hlow : it.op < 0x60 ∨ 0x6B < it.op) (hop : it.op < 0x100)
    (h1 : it.op ≠ 0x01) (h12 : it.op ≠ 0x12) :
    tryItem s it = atLine it (fun s => match it.op with
        | 0x00 => serveLoad it s
        | 0x50 => serveCoh it s
        | 0x51 => serveCoh it s
        | 0x52 => serveCoh it s
        | 0x54 => serveEvict it s
        | 0x70 => serveAppend it s
        | 0x71 => serveTake it s
        | _ =>
          if refusedHere it s && wouldPerform it (it.off / 64) s then some (refuseNow it s)
          else serveWrite it (it.off / 64) s) (it.off / 64) s := by
  simp only [itemFree, Bool.and_eq_true, Bool.not_eq_true', Option.isNone_iff_eq_none] at h
  obtain ⟨⟨⟨⟨⟨ha, hl⟩, -⟩, hs⟩, ho⟩, -⟩ := h
  have hw : within it.op 0x60 0x6B = false := by simp [within]; omega
  have hx : ¬ 0x100 ≤ it.op := by omega
  unfold tryItem
  simp only [ha, hl, hs, ho, hw, hx, Option.isSome_none, Bool.or_self, Bool.false_eq_true, if_false]
  all_goals (split <;> simp_all)

/-- The same of a request of an engine of the querns, hoists or Bolter, whose unit has no stall injected. -/
theorem tryItem_engine (it : Item) (s : State) (n : Nat) (h : itemFree it s = true) (hop : 0x60 ≤ it.op ∧ it.op ≤ 0x6B) (hs : it.src = .agent n) :
    tryItem s it = if within it.op 0x60 0x63 then serveQuern it s else if within it.op 0x64 0x67 then serveHoist it s else serveBolter it s := by
  simp only [itemFree, Bool.and_eq_true, Bool.not_eq_true', Option.isNone_iff_eq_none] at h
  obtain ⟨⟨⟨⟨⟨ha, hl⟩, hst⟩, hs'⟩, ho⟩, harm⟩ := h
  have hw : within it.op 0x60 0x6B = true := by simp [within]; omega
  have hx : ¬ 0x100 ≤ it.op := by omega
  rw [hw] at harm
  simp only [Bool.not_true, Bool.false_or, Option.isNone_iff_eq_none] at harm
  unfold tryItem
  simp only [ha, hl, hs', ho, hw, hx, Option.isSome_none, Bool.or_self, Bool.false_eq_true, if_false, if_true]
  have e : (if (decide (it.op = 0x60) || it.search.isSome) = true then ((none : Option Nat), s)
      else takeArmed (stallUnit it s).1 (stallUnit it s).2 [0x60] s).1 = none := by
    split
    · rfl
    · exact harm
  unfold serveInvocation
  rw [hs]
  dsimp only
  rw [hst, e]
  rfl

end Sys2Proof.Machine
end

