-- ==== Sys2Proof/Laws/Still.lean ====
section
/-! SUPPORT. What transport that only sends and the readings of the Governor leave alone: `Still s0 s` says that s has the range, the home slices, the core, the engines, the sets, the configuration and, but for the random generator, the security state of s0; one lemma for every operation on the way. -/

set_option Elab.async false

namespace Sys2Proof.Machine
open Sys2Proof
/-- The state s has what transport and readings must not change as s0 has it. -/
structure Still (s0 s : State) : Prop where
  store : s.store = s0.store
  home : s.home = s0.home
  core : s.core = s0.core
  eng : s.eng = s0.eng
  mach : s.mach = s0.mach
  cw : s.cw = s0.cw
  sec : { s.sec with drbg := 0 } = { s0.sec with drbg := 0 }

theorem State_onPwr_still (s0 : State) (f s) (h : Still s0 s) : Still s0 (State.onPwr f s) := ⟨h.store, h.home, h.core, h.eng, h.mach, h.cw, h.sec⟩

theorem State_onNor_still (s0 : State) (f s) (h : Still s0 s) : Still s0 (State.onNor f s) := ⟨h.store, h.home, h.core, h.eng, h.mach, h.cw, h.sec⟩

theorem State_onStore_still (s0 : State) (f s) (h : Still s0 s) (estore : (f s.store) = s.store) : Still s0 (State.onStore f s) := ⟨estore.trans h.store, h.home, h.core, h.eng, h.mach, h.cw, h.sec⟩

theorem State_onKt_still (s0 : State) (f s) (h : Still s0 s) : Still s0 (State.onKt f s) := ⟨h.store, h.home, h.core, h.eng, h.mach, h.cw, h.sec⟩

theorem State_onHome_still (s0 : State) (f s) (h : Still s0 s) (ehome : (f s.home) = s.home) : Still s0 (State.onHome f s) := ⟨h.store, ehome.trans h.home, h.core, h.eng, h.mach, h.cw, h.sec⟩

theorem State_onCore_still (s0 : State) (f s) (h : Still s0 s) (ecore : (f s.core) = s.core) : Still s0 (State.onCore f s) := ⟨h.store, h.home, ecore.trans h.core, h.eng, h.mach, h.cw, h.sec⟩

theorem State_onEng_still (s0 : State) (f s) (h : Still s0 s) (eeng : (f s.eng) = s.eng) : Still s0 (State.onEng f s) := ⟨h.store, h.home, h.core, eeng.trans h.eng, h.mach, h.cw, h.sec⟩

theorem State_onSec_still (s0 : State) (f s) (h : Still s0 s) (esec : { (f s.sec) with drbg := 0 } = { s.sec with drbg := 0 }) : Still s0 (State.onSec f s) := ⟨h.store, h.home, h.core, h.eng, h.mach, h.cw, esec.trans h.sec⟩

theorem State_onMach_still (s0 : State) (f s) (h : Still s0 s) (emach : (f s.mach) = s.mach) : Still s0 (State.onMach f s) := ⟨h.store, h.home, h.core, h.eng, emach.trans h.mach, h.cw, h.sec⟩

theorem State_onGov_still (s0 : State) (f s) (h : Still s0 s) : Still s0 (State.onGov f s) := ⟨h.store, h.home, h.core, h.eng, h.mach, h.cw, h.sec⟩

/-- The same of the result of a Felset command, its later effect included. -/
structure FsStill (s0 : State) (r : FsRes) : Prop where
  st : Still s0 r.st
  after : ∀ s, Still s0 s → Still s0 (r.after s)

theorem foldl_still (s0 : State) {α : Type} (f : State → α → State) (l : List α) (s : State) (hf : ∀ s a, Still s0 s → Still s0 (f s a)) (h : Still s0 s) :
    Still s0 (l.foldl f s) := by
  induction l generalizing s with
  | nil => exact h
  | cons a l ih => exact ih _ (hf s a h)

theorem mk_still (s0 : State) {pending cw stats pwr nor store kt home core eng sec mach gov wire free} (hstore : store = s0.store) (hhome : home = s0.home) (hcore : core = s0.core) (heng : eng = s0.eng) (hmach : mach = s0.mach) (hcw : cw = s0.cw) (hsec : { sec with drbg := 0 } = { s0.sec with drbg := 0 }) :
    Still s0 ⟨pending, cw, stats, pwr, nor, store, kt, home, core, eng, sec, mach, gov, wire, free⟩ := ⟨hstore, hhome, hcore, heng, hmach, hcw, hsec⟩

theorem setCtx_still (s0 : State) (n : ℕ) (f : Ctx → Ctx) (s : State) (h_s : Still s0 s) : Still s0 (setCtx n f s) := by
  unfold setCtx; grind [State_onKt_still, foldl_still, mk_still, FsStill.st, FsStill.after, FsStill.mk, Still.store, Still.home, Still.core, Still.eng, Still.mach, Still.cw, Still.sec]

theorem acked_still (s0 : State) (n : ℕ) (sacks : List (ℕ × ℕ)) (s : State) (h_s : Still s0 s) : Still s0 (acked n sacks s) := by
  unfold acked; grind [setCtx_still, foldl_still, mk_still, FsStill.st, FsStill.after, FsStill.mk, Still.store, Still.home, Still.core, Still.eng, Still.mach, Still.cw, Still.sec]

theorem takeOvf_still (s0 : State) (a : ℕ) (s : State) (h_s : Still s0 s) : Still s0 (takeOvf a s) := by
  unfold takeOvf; grind [State_onGov_still, foldl_still, mk_still, FsStill.st, FsStill.after, FsStill.mk, Still.store, Still.home, Still.core, Still.eng, Still.mach, Still.cw, Still.sec]

theorem addStat_still (s0 : State) (a : ℕ) (n : ℕ) (s : State) (h_s : Still s0 s) : Still s0 (addStat a n s) := by
  unfold addStat; grind [takeOvf_still, foldl_still, mk_still, FsStill.st, FsStill.after, FsStill.mk, Still.store, Still.home, Still.core, Still.eng, Still.mach, Still.cw, Still.sec]

theorem emit_still (s0 : State) (n : ℕ) (plane : ℕ) (x : Load) (s : State) (h_s : Still s0 s) : Still s0 (emit n plane x s) := by
  unfold emit; grind [addStat_still, setCtx_still, foldl_still, mk_still, FsStill.st, FsStill.after, FsStill.mk, Still.store, Still.home, Still.core, Still.eng, Still.mach, Still.cw, Still.sec]

theorem sendPlain_still (s0 : State) (n : ℕ) (plane : ℕ) (sacks : List (ℕ × ℕ)) (rcd : Rec) (s : State) (h_s : Still s0 s) : Still s0 (sendPlain n plane sacks rcd s) := by
  unfold sendPlain; grind [acked_still, emit_still, foldl_still, mk_still, FsStill.st, FsStill.after, FsStill.mk, Still.store, Still.home, Still.core, Still.eng, Still.mach, Still.cw, Still.sec]

theorem execProbe_still (s0 : State) (node : ℕ) (plane : ℕ) (token : BitVec 32) (txTs : Word) (s : State) (h_s : Still s0 s) : ∀ t', execProbe node plane token txTs s = .next t' → Still s0 t' := by
  unfold execProbe; grind [sendPlain_still, foldl_still, mk_still, FsStill.st, FsStill.after, FsStill.mk, Still.store, Still.home, Still.core, Still.eng, Still.mach, Still.cw, Still.sec]

theorem execProbeReply_still (s0 : State) (node : ℕ) (plane : ℕ) (token : BitVec 32) (txTs : Word) (s : State) (h_s : Still s0 s) : ∀ t', execProbeReply node plane token txTs s = .next t' → Still s0 t' := by
  unfold execProbeReply; grind [setCtx_still, foldl_still, mk_still, FsStill.st, FsStill.after, FsStill.mk, Still.store, Still.home, Still.core, Still.eng, Still.mach, Still.cw, Still.sec]

theorem freeVal_still (s0 : State) (s : State) (h_s : Still s0 s) : Still s0 (freeVal s).2 := by
  unfold freeVal; grind [foldl_still, mk_still, FsStill.st, FsStill.after, FsStill.mk, Still.store, Still.home, Still.core, Still.eng, Still.mach, Still.cw, Still.sec]

theorem execProbeTimer_still (s0 : State) (node : ℕ) (s : State) (h_s : Still s0 s) : ∀ t', execProbeTimer node s = .next t' → Still s0 t' := by
  unfold execProbeTimer; grind [freeVal_still, setCtx_still, sendPlain_still, foldl_still, mk_still, FsStill.st, FsStill.after, FsStill.mk, Still.store, Still.home, Still.core, Still.eng, Still.mach, Still.cw, Still.sec]

theorem sendAck_still (s0 : State) (n : ℕ) (s : State) (h_s : Still s0 s) : Still s0 (sendAck n s) := by
  unfold sendAck; grind [sendPlain_still, foldl_still, mk_still, FsStill.st, FsStill.after, FsStill.mk, Still.store, Still.home, Still.core, Still.eng, Still.mach, Still.cw, Still.sec]

theorem execAckTimer_still (s0 : State) (node : ℕ) (s : State) (h_s : Still s0 s) : ∀ t', execAckTimer node s = .next t' → Still s0 t' := by
  unfold execAckTimer; grind [sendAck_still, foldl_still, mk_still, FsStill.st, FsStill.after, FsStill.mk, Still.store, Still.home, Still.core, Still.eng, Still.mach, Still.cw, Still.sec]

theorem setLink_still (s0 : State) (l : ℕ) (x : Link) (s : State) (h_s : Still s0 s) : Still s0 (setLink l x s) := by
  unfold setLink; grind [State_onKt_still, foldl_still, mk_still, FsStill.st, FsStill.after, FsStill.mk, Still.store, Still.home, Still.core, Still.eng, Still.mach, Still.cw, Still.sec]

theorem linkUp_still (s0 : State) (l : ℕ) (s : State) (h_s : Still s0 s) : Still s0 (linkUp l s) := by
  unfold linkUp; grind [setLink_still, foldl_still, mk_still, FsStill.st, FsStill.after, FsStill.mk, Still.store, Still.home, Still.core, Still.eng, Still.mach, Still.cw, Still.sec]

theorem execLinkReformDone_still (s0 : State) (link : ℕ) (ok : Bool) (s : State) (h_s : Still s0 s) : ∀ t', execLinkReformDone link ok s = .next t' → Still s0 t' := by
  unfold execLinkReformDone; grind [linkUp_still, setLink_still, foldl_still, mk_still, FsStill.st, FsStill.after, FsStill.mk, Still.store, Still.home, Still.core, Still.eng, Still.mach, Still.cw, Still.sec]

theorem setUnitH_still (s0 : State) (k : ℕ) (f : UnitH → UnitH) (s : State) (h_s : Still s0 s) : Still s0 (setUnitH k f s) := by
  unfold setUnitH; grind [State_onGov_still, foldl_still, mk_still, FsStill.st, FsStill.after, FsStill.mk, Still.store, Still.home, Still.core, Still.eng, Still.mach, Still.cw, Still.sec]

theorem hlogWrite_still (s0 : State) (e : Ev) (s : State) (h_s : Still s0 s) : Still s0 (hlogWrite e s).2 := by
  unfold hlogWrite; grind [addStat_still, State_onNor_still, setUnitH_still, foldl_still, mk_still, FsStill.st, FsStill.after, FsStill.mk, Still.store, Still.home, Still.core, Still.eng, Still.mach, Still.cw, Still.sec]

theorem drbgBytes_still (s0 : State) (n : ℕ) (s : State) (h_s : Still s0 s) : Still s0 (drbgBytes n s).2 := by
  unfold drbgBytes; grind [State_onSec_still, foldl_still, mk_still, FsStill.st, FsStill.after, FsStill.mk, Still.store, Still.home, Still.core, Still.eng, Still.mach, Still.cw, Still.sec]

theorem emitOpenFrame_still (s0 : State) (n : ℕ) (plane : ℕ) (seq0 : ℕ) (rcd : Rec) (s : State) (h_s : Still s0 s) : Still s0 (emitOpenFrame n plane seq0 rcd s) := by
  unfold emitOpenFrame; grind [emit_still, foldl_still, mk_still, FsStill.st, FsStill.after, FsStill.mk, Still.store, Still.home, Still.core, Still.eng, Still.mach, Still.cw, Still.sec]

theorem openOrQueue_still (s0 : State) (n : ℕ) (w : Rec × Bool × Bool) (s : State) (h_s : Still s0 s) : Still s0 (openOrQueue n w s) := by
  unfold openOrQueue; grind [State_onKt_still, drbgBytes_still, emitOpenFrame_still, foldl_still, mk_still, FsStill.st, FsStill.after, FsStill.mk, Still.store, Still.home, Still.core, Still.eng, Still.mach, Still.cw, Still.sec]

theorem sendHeld_still (s0 : State) (n : ℕ) (h : Held) (plane : ℕ) (s : State) (h_s : Still s0 s) : Still s0 (sendHeld n h plane s) := by
  unfold sendHeld; grind [acked_still, emit_still, addStat_still, setCtx_still, foldl_still, mk_still, FsStill.st, FsStill.after, FsStill.mk, Still.store, Still.home, Still.core, Still.eng, Still.mach, Still.cw, Still.sec]

theorem flushCtx_still (s0 : State) (n k : Nat) (s : State) (h : Still s0 s) : Still s0 (flushCtx n k s) := by
  induction k generalizing s with
  | zero => exact h
  | succ k ih =>
    unfold flushCtx
    dsimp only
    split
    · split
      · exact ih _ (sendHeld_still _ _ _ _ _ h)
      · exact h
    · exact h

theorem sendSeq_still (s0 : State) (n : ℕ) (rcd : Rec) (ord : Bool) (mgmt : Bool) (s : State) (h_s : Still s0 s) : Still s0 (sendSeq n rcd ord mgmt s) := by
  unfold sendSeq; grind [setCtx_still, flushCtx_still, foldl_still, mk_still, FsStill.st, FsStill.after, FsStill.mk, Still.store, Still.home, Still.core, Still.eng, Still.mach, Still.cw, Still.sec]

theorem sendRec_still (s0 : State) (n : ℕ) (rcd : Rec) (ord : Bool) (mgmt : Bool) (s : State) (h_s : Still s0 s) : Still s0 (sendRec n rcd ord mgmt s) := by
  unfold sendRec; grind [sendSeq_still, openOrQueue_still, foldl_still, mk_still, FsStill.st, FsStill.after, FsStill.mk, Still.store, Still.home, Still.core, Still.eng, Still.mach, Still.cw, Still.sec]

theorem evSend_still (s0 : State) (e : Ev) (count : ℕ) (hidx : ℕ) (ts : List ℕ) (s : State) (h_s : Still s0 s) : Still s0 (evSend e count hidx ts s) := by
  unfold evSend; grind [sendRec_still, addStat_still, foldl_still, mk_still, FsStill.st, FsStill.after, FsStill.mk, Still.store, Still.home, Still.core, Still.eng, Still.mach, Still.cw, Still.sec]

theorem event0_still (s0 : State) (e : Ev) (s : State) (h_s : Still s0 s) : Still s0 (event0 e s) := by
  unfold event0; grind [hlogWrite_still, setUnitH_still, addStat_still, State_onGov_still, evSend_still, foldl_still, mk_still, FsStill.st, FsStill.after, FsStill.mk, Still.store, Still.home, Still.core, Still.eng, Still.mach, Still.cw, Still.sec]

theorem raiseOverflows_still (s0 : State) (n : Nat) (s : State) (h : Still s0 s) : Still s0 (raiseOverflows n s) := by
  induction n generalizing s with
  | zero => unfold raiseOverflows; exact h
  | succ k ih => unfold raiseOverflows; grind [event0_still, State_onGov_still]

theorem bumpBy_still (s0 : State) (a : ℕ) (n : ℕ) (s : State) (h_s : Still s0 s) : Still s0 (bumpBy a n s) := by
  unfold bumpBy; grind [addStat_still, raiseOverflows_still, foldl_still, mk_still, FsStill.st, FsStill.after, FsStill.mk, Still.store, Still.home, Still.core, Still.eng, Still.mach, Still.cw, Still.sec]

theorem execBayBeatWindow_still (s0 : State) (b : ℕ) (rate : ℕ) (beats : ℕ) (s : State) (h_s : Still s0 s) : ∀ t', execBayBeatWindow b rate beats s = .next t' → Still s0 t' := by
  unfold execBayBeatWindow; grind [State_onPwr_still, bumpBy_still, foldl_still, mk_still, FsStill.st, FsStill.after, FsStill.mk, Still.store, Still.home, Still.core, Still.eng, Still.mach, Still.cw, Still.sec]

theorem event_still (s0 : State) (e : Ev) (s : State) (h_s : Still s0 s) : Still s0 (event e s) := by
  unfold event; grind [event0_still, raiseOverflows_still, foldl_still, mk_still, FsStill.st, FsStill.after, FsStill.mk, Still.store, Still.home, Still.core, Still.eng, Still.mach, Still.cw, Still.sec]

theorem execTimestampCompare_still (s0 : State) (drift : ℤ) (s : State) (h_s : Still s0 s) : ∀ t', execTimestampCompare drift s = .next t' → Still s0 t' := by
  unfold execTimestampCompare; grind [State_onPwr_still, event_still, foldl_still, mk_still, FsStill.st, FsStill.after, FsStill.mk, Still.store, Still.home, Still.core, Still.eng, Still.mach, Still.cw, Still.sec]

theorem readRail_still (s0 : State) (i : ℕ) (x : Option ℕ) (s : State) (h_s : Still s0 s) : Still s0 (readRail i x s) := by
  unfold readRail; grind [State_onPwr_still, foldl_still, mk_still, FsStill.st, FsStill.after, FsStill.mk, Still.store, Still.home, Still.core, Still.eng, Still.mach, Still.cw, Still.sec]

theorem setRail_still (s0 : State) (q : ℕ) (f : Rail → Rail) (s : State) (h_s : Still s0 s) : Still s0 (setRail q f s) := by
  unfold setRail; grind [State_onPwr_still, foldl_still, mk_still, FsStill.st, FsStill.after, FsStill.mk, Still.store, Still.home, Still.core, Still.eng, Still.mach, Still.cw, Still.sec]

theorem rangeCheck_still (s0 : State) (q : ℕ) (s : State) (h_s : Still s0 s) : Still s0 (rangeCheck q s) := by
  unfold rangeCheck; grind [setRail_still, event_still, foldl_still, mk_still, FsStill.st, FsStill.after, FsStill.mk, Still.store, Still.home, Still.core, Still.eng, Still.mach, Still.cw, Still.sec]

theorem applyRails_still (s0 : State) (s : State) (h_s : Still s0 s) : Still s0 (applyRails s) := by
  unfold applyRails; grind [setRail_still, foldl_still, mk_still, FsStill.st, FsStill.after, FsStill.mk, Still.store, Still.home, Still.core, Still.eng, Still.mach, Still.cw, Still.sec]

theorem throttleStep_still (s0 : State) (s : State) (h_s : Still s0 s) : Still s0 (throttleStep s) := by
  unfold throttleStep
  repeat' (first | extract_lets | split)
  all_goals grind [State_onPwr_still, foldl_still, mk_still, FsStill.st, FsStill.after, FsStill.mk, Still.store, Still.home, Still.core, Still.eng, Still.mach, Still.cw, Still.sec]

theorem execPowerSample_still (s0 : State) (r : RailReadings) (s : State) (h_s : Still s0 s) : ∀ t', execPowerSample r s = .next t' → Still s0 t' := by
  unfold execPowerSample; grind [readRail_still, setRail_still, State_onPwr_still, rangeCheck_still, applyRails_still, throttleStep_still, foldl_still, mk_still, FsStill.st, FsStill.after, FsStill.mk, Still.store, Still.home, Still.core, Still.eng, Still.mach, Still.cw, Still.sec]

theorem execAvsReadTimeout_still (s0 : State) (rail : ℕ) (sinceNs : ℕ) (s : State) (h_s : Still s0 s) : ∀ t', execAvsReadTimeout rail sinceNs s = .next t' → Still s0 t' := by
  unfold execAvsReadTimeout; grind [State_onPwr_still, foldl_still, mk_still, FsStill.st, FsStill.after, FsStill.mk, Still.store, Still.home, Still.core, Still.eng, Still.mach, Still.cw, Still.sec]

theorem execWeirWindow_still (s0 : State) (busyA : ℕ) (capA : ℕ) (busyB : ℕ) (capB : ℕ) (s : State) (h_s : Still s0 s) : ∀ t', execWeirWindow busyA capA busyB capB s = .next t' → Still s0 t' := by
  unfold execWeirWindow; grind [State_onKt_still, setCtx_still, foldl_still, mk_still, FsStill.st, FsStill.after, FsStill.mk, Still.store, Still.home, Still.core, Still.eng, Still.mach, Still.cw, Still.sec]

theorem ite_still (s0 : State) {c : Prop} [Decidable c] {a b : State} (ha : Still s0 a) (hb : Still s0 b) : Still s0 (if c then a else b) := by
  split <;> assumption

/-- A rekey while Novva gives keys closes no session. -/
theorem execSaRekey_still (s0 : State) (n : Nat) (r : SaEnd) (s : State) (hn : s.sec.nvState ≠ .lost) (h : Still s0 s) :
    ∀ t', execSaRekey n r s = .next t' → Still s0 t' := by
  intro t e
  unfold execSaRekey at e
  extract_lets c x y at e
  cases e
  refine ite_still _ h (ite_still _ ?_ (ite_still _ h ?_))
  · cases y.prevUntil with
    | none => exact h
    | some u => exact ite_still _ (setCtx_still _ _ _ _ h) h
  · rw [if_neg (by simp [hn])]
    exact setCtx_still _ _ _ _ h

/-- A resend of an open that has its context closes no session. -/
theorem execSessionOpenResend_still (s0 : State) (n : Nat) (s : State) (hw : (kget {} s.kt.ownOpens n).waiting = false) (h : Still s0 s) :
    ∀ t', execSessionOpenResend n s = .next t' → Still s0 t' := by
  intro t e
  unfold execSessionOpenResend at e
  extract_lets o keep send at e
  have hk : ∀ o, Still s0 (keep o) := fun o => State_onKt_still _ _ _ h
  have hs : ∀ o, Still s0 (send o) := fun o => emitOpenFrame_still _ _ _ _ _ _ (hk o)
  have ho : ¬ (o.waiting = true) := by rw [show o.waiting = false from hw]; simp
  rw [if_neg ho] at e
  clear_value keep send
  cases e
  exact ite_still _ h (ite_still _ h (ite_still _ (hk _) (hs _)))

end Sys2Proof.Machine
end

