-- ==== Sys2Proof/Laws/WriteFrame.lean ====
section
/-! SUPPORT. What the steps of a write around its bytes leave alone: `WriteFrame s0 s` says that s has the bytes of the range, the scratchpad, the configuration, the extents and the grants of s0; one lemma for every operation on the way. -/

set_option Elab.async false

namespace Sys2Proof.Machine
open Sys2Proof
/-- The state s has what the steps around a write must not change as s0 has it. -/
structure WriteFrame (s0 s : State) : Prop where
  scratch : s.core.scratch = s0.core.scratch
  cw : s.cw = s0.cw
  extents : s.sec.extents = s0.sec.extents
  grants : s.sec.grants = s0.sec.grants
  mem : s.store.mem = s0.store.mem

theorem State_onPwr_framed (s0 : State) (f s) (h : WriteFrame s0 s) : WriteFrame s0 (State.onPwr f s) := ⟨h.scratch, h.cw, h.extents, h.grants, h.mem⟩

theorem State_onNor_framed (s0 : State) (f s) (h : WriteFrame s0 s) : WriteFrame s0 (State.onNor f s) := ⟨h.scratch, h.cw, h.extents, h.grants, h.mem⟩

theorem State_onStore_framed (s0 : State) (f s) (h : WriteFrame s0 s) (emem : (f s.store).mem = s.store.mem) : WriteFrame s0 (State.onStore f s) := ⟨h.scratch, h.cw, h.extents, h.grants, emem.trans h.mem⟩

theorem State_onKt_framed (s0 : State) (f s) (h : WriteFrame s0 s) : WriteFrame s0 (State.onKt f s) := ⟨h.scratch, h.cw, h.extents, h.grants, h.mem⟩

theorem State_onHome_framed (s0 : State) (f s) (h : WriteFrame s0 s) : WriteFrame s0 (State.onHome f s) := ⟨h.scratch, h.cw, h.extents, h.grants, h.mem⟩

theorem State_onCore_framed (s0 : State) (f s) (h : WriteFrame s0 s) (escratch : (f s.core).scratch = s.core.scratch) : WriteFrame s0 (State.onCore f s) := ⟨escratch.trans h.scratch, h.cw, h.extents, h.grants, h.mem⟩

theorem State_onEng_framed (s0 : State) (f s) (h : WriteFrame s0 s) : WriteFrame s0 (State.onEng f s) := ⟨h.scratch, h.cw, h.extents, h.grants, h.mem⟩

theorem State_onSec_framed (s0 : State) (f s) (h : WriteFrame s0 s) (eextents : (f s.sec).extents = s.sec.extents) (egrants : (f s.sec).grants = s.sec.grants) : WriteFrame s0 (State.onSec f s) := ⟨h.scratch, h.cw, eextents.trans h.extents, egrants.trans h.grants, h.mem⟩

theorem State_onMach_framed (s0 : State) (f s) (h : WriteFrame s0 s) : WriteFrame s0 (State.onMach f s) := ⟨h.scratch, h.cw, h.extents, h.grants, h.mem⟩

theorem State_onGov_framed (s0 : State) (f s) (h : WriteFrame s0 s) : WriteFrame s0 (State.onGov f s) := ⟨h.scratch, h.cw, h.extents, h.grants, h.mem⟩

/-- The same of the result of a Felset command, its later effect included. -/
structure FsWriteFrame (s0 : State) (r : FsRes) : Prop where
  st : WriteFrame s0 r.st
  after : ∀ s, WriteFrame s0 s → WriteFrame s0 (r.after s)

theorem foldl_framed (s0 : State) {α : Type} (f : State → α → State) (l : List α) (s : State) (hf : ∀ s a, WriteFrame s0 s → WriteFrame s0 (f s a)) (h : WriteFrame s0 s) :
    WriteFrame s0 (l.foldl f s) := by
  induction l generalizing s with
  | nil => exact h
  | cons a l ih => exact ih _ (hf s a h)

theorem foldl_snd_framed (s0 : State) {α β : Type} (f : β × State → α → β × State) (l : List α) (x : β × State)
    (hf : ∀ r a, WriteFrame s0 r.2 → WriteFrame s0 (f r a).2) (h : WriteFrame s0 x.2) : WriteFrame s0 (l.foldl f x).2 := by
  induction l generalizing x with
  | nil => exact h
  | cons a l ih => exact ih _ (hf x a h)

theorem mk_framed (s0 : State) {pending cw stats pwr nor store kt home core eng sec mach gov wire free} (hscratch : core.scratch = s0.core.scratch) (hcw : cw = s0.cw) (hextents : sec.extents = s0.sec.extents) (hgrants : sec.grants = s0.sec.grants) (hmem : store.mem = s0.store.mem) :
    WriteFrame s0 ⟨pending, cw, stats, pwr, nor, store, kt, home, core, eng, sec, mach, gov, wire, free⟩ := ⟨hscratch, hcw, hextents, hgrants, hmem⟩

theorem setCtx_framed (s0 : State) (n : ℕ) (f : Ctx → Ctx) (s : State) (h_s : WriteFrame s0 s) : WriteFrame s0 (setCtx n f s) := by
  unfold setCtx; grind [State_onKt_framed, foldl_framed, mk_framed, FsWriteFrame.st, FsWriteFrame.after, FsWriteFrame.mk, WriteFrame.scratch, WriteFrame.cw, WriteFrame.extents, WriteFrame.grants, WriteFrame.mem]

theorem arrive_framed (s0 : State) (op : ℕ) (c : TxnReq) (syms : SymErr) (s : State) (h_s : WriteFrame s0 s) : WriteFrame s0 (arrive op c syms s).2 := by
  unfold arrive; grind [setCtx_framed, State_onHome_framed, foldl_framed, mk_framed, FsWriteFrame.st, FsWriteFrame.after, FsWriteFrame.mk, WriteFrame.scratch, WriteFrame.cw, WriteFrame.extents, WriteFrame.grants, WriteFrame.mem]

theorem weirAdmit_framed (s0 : State) (n : ℕ) (prt : ℕ) (lines : ℕ) (s : State) (h_s : WriteFrame s0 s) : WriteFrame s0 (weirAdmit n prt lines s).2 := by
  unfold weirAdmit; grind [setCtx_framed, foldl_framed, mk_framed, FsWriteFrame.st, FsWriteFrame.after, FsWriteFrame.mk, WriteFrame.scratch, WriteFrame.cw, WriteFrame.extents, WriteFrame.grants, WriteFrame.mem]

theorem lcTouch_framed (s0 : State) (line : ℕ) (modified : Bool) (s : State) (h_s : WriteFrame s0 s) : WriteFrame s0 (lcTouch line modified s) := by
  unfold lcTouch; grind [State_onStore_framed, foldl_framed, mk_framed, FsWriteFrame.st, FsWriteFrame.after, FsWriteFrame.mk, WriteFrame.scratch, WriteFrame.cw, WriteFrame.extents, WriteFrame.grants, WriteFrame.mem]

theorem setPoison_framed (s0 : State) (line : ℕ) (b : Bool) (s : State) (h_s : WriteFrame s0 s) : WriteFrame s0 (setPoison line b s) := by
  unfold setPoison; grind [State_onStore_framed, foldl_framed, mk_framed, FsWriteFrame.st, FsWriteFrame.after, FsWriteFrame.mk, WriteFrame.scratch, WriteFrame.cw, WriteFrame.extents, WriteFrame.grants, WriteFrame.mem]

theorem markDirty_framed (s0 : State) (line : ℕ) (s : State) (h_s : WriteFrame s0 s) : WriteFrame s0 (markDirty line s) := by
  unfold markDirty; grind [State_onStore_framed, foldl_framed, mk_framed, FsWriteFrame.st, FsWriteFrame.after, FsWriteFrame.mk, WriteFrame.scratch, WriteFrame.cw, WriteFrame.extents, WriteFrame.grants, WriteFrame.mem]

theorem mapEvict_framed (s0 : State) (g : ℕ) (t : CacheTag) (s : State) (h_s : WriteFrame s0 s) : WriteFrame s0 (mapEvict g t s) := by
  unfold mapEvict; grind [State_onStore_framed, foldl_framed, mk_framed, FsWriteFrame.st, FsWriteFrame.after, FsWriteFrame.mk, WriteFrame.scratch, WriteFrame.cw, WriteFrame.extents, WriteFrame.grants, WriteFrame.mem]

theorem mapTouch_framed (s0 : State) (g : ℕ) (dirty : Bool) (s : State) (h_s : WriteFrame s0 s) : WriteFrame s0 (mapTouch g dirty s) := by
  unfold mapTouch; grind [State_onStore_framed, mapEvict_framed, foldl_framed, mk_framed, FsWriteFrame.st, FsWriteFrame.after, FsWriteFrame.mk, WriteFrame.scratch, WriteFrame.cw, WriteFrame.extents, WriteFrame.grants, WriteFrame.mem]

theorem setPage_framed (s0 : State) (p : ℕ) (f : PageEnt → PageEnt) (s : State) (h_s : WriteFrame s0 s) : WriteFrame s0 (setPage p f s) := by
  unfold setPage; grind [State_onStore_framed, foldl_framed, mk_framed, FsWriteFrame.st, FsWriteFrame.after, FsWriteFrame.mk, WriteFrame.scratch, WriteFrame.cw, WriteFrame.extents, WriteFrame.grants, WriteFrame.mem]

theorem editPage_framed (s0 : State) (p : ℕ) (f : PageEnt → PageEnt) (s : State) (h_s : WriteFrame s0 s) : WriteFrame s0 (editPage p f s) := by
  unfold editPage; grind [setPage_framed, mapTouch_framed, foldl_framed, mk_framed, FsWriteFrame.st, FsWriteFrame.after, FsWriteFrame.mk, WriteFrame.scratch, WriteFrame.cw, WriteFrame.extents, WriteFrame.grants, WriteFrame.mem]

theorem queuePromo_framed (s0 : State) (p : ℕ) (s : State) (h_s : WriteFrame s0 s) : WriteFrame s0 (queuePromo p s) := by
  unfold queuePromo; grind [State_onStore_framed, foldl_framed, mk_framed, FsWriteFrame.st, FsWriteFrame.after, FsWriteFrame.mk, WriteFrame.scratch, WriteFrame.cw, WriteFrame.extents, WriteFrame.grants, WriteFrame.mem]

theorem touchPage_framed (s0 : State) (p : ℕ) (s : State) (h_s : WriteFrame s0 s) : WriteFrame s0 (touchPage p s) := by
  unfold touchPage; grind [mapTouch_framed, editPage_framed, queuePromo_framed, foldl_framed, mk_framed, FsWriteFrame.st, FsWriteFrame.after, FsWriteFrame.mk, WriteFrame.scratch, WriteFrame.cw, WriteFrame.extents, WriteFrame.grants, WriteFrame.mem]

theorem requestMove_framed (s0 : State) (p : ℕ) (w : MoveWhy) (s : State) (h_s : WriteFrame s0 s) : WriteFrame s0 (requestMove p w s) := by
  unfold requestMove; grind [State_onStore_framed, foldl_framed, mk_framed, FsWriteFrame.st, FsWriteFrame.after, FsWriteFrame.mk, WriteFrame.scratch, WriteFrame.cw, WriteFrame.extents, WriteFrame.grants, WriteFrame.mem]

theorem drbgBytes_framed (s0 : State) (n : ℕ) (s : State) (h_s : WriteFrame s0 s) : WriteFrame s0 (drbgBytes n s).2 := by
  unfold drbgBytes; grind [State_onSec_framed, foldl_framed, mk_framed, FsWriteFrame.st, FsWriteFrame.after, FsWriteFrame.mk, WriteFrame.scratch, WriteFrame.cw, WriteFrame.extents, WriteFrame.grants, WriteFrame.mem]

theorem takeOvf_framed (s0 : State) (a : ℕ) (s : State) (h_s : WriteFrame s0 s) : WriteFrame s0 (takeOvf a s) := by
  unfold takeOvf; grind [State_onGov_framed, foldl_framed, mk_framed, FsWriteFrame.st, FsWriteFrame.after, FsWriteFrame.mk, WriteFrame.scratch, WriteFrame.cw, WriteFrame.extents, WriteFrame.grants, WriteFrame.mem]

theorem addStat_framed (s0 : State) (a : ℕ) (n : ℕ) (s : State) (h_s : WriteFrame s0 s) : WriteFrame s0 (addStat a n s) := by
  unfold addStat; grind [takeOvf_framed, foldl_framed, mk_framed, FsWriteFrame.st, FsWriteFrame.after, FsWriteFrame.mk, WriteFrame.scratch, WriteFrame.cw, WriteFrame.extents, WriteFrame.grants, WriteFrame.mem]

theorem emit_framed (s0 : State) (n : ℕ) (plane : ℕ) (x : Load) (s : State) (h_s : WriteFrame s0 s) : WriteFrame s0 (emit n plane x s) := by
  unfold emit; grind [addStat_framed, setCtx_framed, foldl_framed, mk_framed, FsWriteFrame.st, FsWriteFrame.after, FsWriteFrame.mk, WriteFrame.scratch, WriteFrame.cw, WriteFrame.extents, WriteFrame.grants, WriteFrame.mem, foldl_snd_framed]

theorem emitOpenFrame_framed (s0 : State) (n : ℕ) (plane : ℕ) (seq0 : ℕ) (rcd : Rec) (s : State) (h_s : WriteFrame s0 s) : WriteFrame s0 (emitOpenFrame n plane seq0 rcd s) := by
  unfold emitOpenFrame; grind [emit_framed, foldl_framed, mk_framed, FsWriteFrame.st, FsWriteFrame.after, FsWriteFrame.mk, WriteFrame.scratch, WriteFrame.cw, WriteFrame.extents, WriteFrame.grants, WriteFrame.mem, foldl_snd_framed]

theorem openOrQueue_framed (s0 : State) (n : ℕ) (w : Rec × Bool × Bool) (s : State) (h_s : WriteFrame s0 s) : WriteFrame s0 (openOrQueue n w s) := by
  unfold openOrQueue; grind [State_onKt_framed, drbgBytes_framed, emitOpenFrame_framed, foldl_framed, mk_framed, FsWriteFrame.st, FsWriteFrame.after, FsWriteFrame.mk, WriteFrame.scratch, WriteFrame.cw, WriteFrame.extents, WriteFrame.grants, WriteFrame.mem, foldl_snd_framed]

theorem acked_framed (s0 : State) (n : ℕ) (sacks : List (ℕ × ℕ)) (s : State) (h_s : WriteFrame s0 s) : WriteFrame s0 (acked n sacks s) := by
  unfold acked; grind [setCtx_framed, foldl_framed, mk_framed, FsWriteFrame.st, FsWriteFrame.after, FsWriteFrame.mk, WriteFrame.scratch, WriteFrame.cw, WriteFrame.extents, WriteFrame.grants, WriteFrame.mem, foldl_snd_framed]

theorem sendHeld_framed (s0 : State) (n : ℕ) (h : Held) (plane : ℕ) (s : State) (h_s : WriteFrame s0 s) : WriteFrame s0 (sendHeld n h plane s) := by
  unfold sendHeld; grind [acked_framed, emit_framed, addStat_framed, setCtx_framed, foldl_framed, mk_framed, FsWriteFrame.st, FsWriteFrame.after, FsWriteFrame.mk, WriteFrame.scratch, WriteFrame.cw, WriteFrame.extents, WriteFrame.grants, WriteFrame.mem, foldl_snd_framed]

theorem flushCtx_framed (s0 : State) (n k : Nat) (s : State) (h : WriteFrame s0 s) : WriteFrame s0 (flushCtx n k s) := by
  induction k generalizing s with
  | zero => exact h
  | succ k ih =>
    unfold flushCtx
    dsimp only
    split
    · split
      · exact ih _ (sendHeld_framed _ _ _ _ _ h)
      · exact h
    · exact h

theorem sendSeq_framed (s0 : State) (n : ℕ) (rcd : Rec) (ord : Bool) (mgmt : Bool) (s : State) (h_s : WriteFrame s0 s) : WriteFrame s0 (sendSeq n rcd ord mgmt s) := by
  unfold sendSeq; grind [setCtx_framed, flushCtx_framed, foldl_framed, mk_framed, FsWriteFrame.st, FsWriteFrame.after, FsWriteFrame.mk, WriteFrame.scratch, WriteFrame.cw, WriteFrame.extents, WriteFrame.grants, WriteFrame.mem]

theorem sendRec_framed (s0 : State) (n : ℕ) (rcd : Rec) (ord : Bool) (mgmt : Bool) (s : State) (h_s : WriteFrame s0 s) : WriteFrame s0 (sendRec n rcd ord mgmt s) := by
  unfold sendRec; grind [sendSeq_framed, openOrQueue_framed, foldl_framed, mk_framed, FsWriteFrame.st, FsWriteFrame.after, FsWriteFrame.mk, WriteFrame.scratch, WriteFrame.cw, WriteFrame.extents, WriteFrame.grants, WriteFrame.mem]

theorem ownRequestFor_framed (s0 : State) (slot : Option ℕ) (n : ℕ) (op : ℕ) (param : ℕ) (addr : ℕ) (strict : Bool) (prt : ℕ) (payload : List Byte) (s : State) (h_s : WriteFrame s0 s) : WriteFrame s0 (ownRequestFor slot n op param addr strict prt payload s).2 := by
  unfold ownRequestFor; grind [setCtx_framed, sendRec_framed, foldl_framed, mk_framed, FsWriteFrame.st, FsWriteFrame.after, FsWriteFrame.mk, WriteFrame.scratch, WriteFrame.cw, WriteFrame.extents, WriteFrame.grants, WriteFrame.mem, foldl_snd_framed]

theorem ownRequest_framed (s0 : State) (n : ℕ) (op : ℕ) (param : ℕ) (addr : ℕ) (strict : Bool) (prt : ℕ) (payload : List Byte) (s : State) (h_s : WriteFrame s0 s) : WriteFrame s0 (ownRequest n op param addr strict prt payload s).2 := by
  unfold ownRequest; grind [ownRequestFor_framed, foldl_framed, mk_framed, FsWriteFrame.st, FsWriteFrame.after, FsWriteFrame.mk, WriteFrame.scratch, WriteFrame.cw, WriteFrame.extents, WriteFrame.grants, WriteFrame.mem, foldl_snd_framed]

theorem setUnitH_framed (s0 : State) (k : ℕ) (f : UnitH → UnitH) (s : State) (h_s : WriteFrame s0 s) : WriteFrame s0 (setUnitH k f s) := by
  unfold setUnitH; grind [State_onGov_framed, foldl_framed, mk_framed, FsWriteFrame.st, FsWriteFrame.after, FsWriteFrame.mk, WriteFrame.scratch, WriteFrame.cw, WriteFrame.extents, WriteFrame.grants, WriteFrame.mem]

theorem hlogWrite_framed (s0 : State) (e : Ev) (s : State) (h_s : WriteFrame s0 s) : WriteFrame s0 (hlogWrite e s).2 := by
  unfold hlogWrite; grind [addStat_framed, State_onNor_framed, setUnitH_framed, foldl_framed, mk_framed, FsWriteFrame.st, FsWriteFrame.after, FsWriteFrame.mk, WriteFrame.scratch, WriteFrame.cw, WriteFrame.extents, WriteFrame.grants, WriteFrame.mem]

theorem evSend_framed (s0 : State) (e : Ev) (count : ℕ) (hidx : ℕ) (ts : List ℕ) (s : State) (h_s : WriteFrame s0 s) : WriteFrame s0 (evSend e count hidx ts s) := by
  unfold evSend; grind [sendRec_framed, addStat_framed, foldl_framed, mk_framed, FsWriteFrame.st, FsWriteFrame.after, FsWriteFrame.mk, WriteFrame.scratch, WriteFrame.cw, WriteFrame.extents, WriteFrame.grants, WriteFrame.mem]

theorem event0_framed (s0 : State) (e : Ev) (s : State) (h_s : WriteFrame s0 s) : WriteFrame s0 (event0 e s) := by
  unfold event0; grind [hlogWrite_framed, setUnitH_framed, addStat_framed, State_onGov_framed, evSend_framed, foldl_framed, mk_framed, FsWriteFrame.st, FsWriteFrame.after, FsWriteFrame.mk, WriteFrame.scratch, WriteFrame.cw, WriteFrame.extents, WriteFrame.grants, WriteFrame.mem]

theorem raiseOverflows_framed (s0 : State) (n : Nat) (s : State) (h : WriteFrame s0 s) : WriteFrame s0 (raiseOverflows n s) := by
  induction n generalizing s with
  | zero => unfold raiseOverflows; exact h
  | succ k ih => unfold raiseOverflows; grind [event0_framed, State_onGov_framed]

theorem bumpBy_framed (s0 : State) (a : ℕ) (n : ℕ) (s : State) (h_s : WriteFrame s0 s) : WriteFrame s0 (bumpBy a n s) := by
  unfold bumpBy; grind [addStat_framed, raiseOverflows_framed, foldl_framed, mk_framed, FsWriteFrame.st, FsWriteFrame.after, FsWriteFrame.mk, WriteFrame.scratch, WriteFrame.cw, WriteFrame.extents, WriteFrame.grants, WriteFrame.mem]

theorem bump_framed (s0 : State) (a : ℕ) (s : State) (h_s : WriteFrame s0 s) : WriteFrame s0 (bump a s) := by
  unfold bump; grind [bumpBy_framed, foldl_framed, mk_framed, FsWriteFrame.st, FsWriteFrame.after, FsWriteFrame.mk, WriteFrame.scratch, WriteFrame.cw, WriteFrame.extents, WriteFrame.grants, WriteFrame.mem]

theorem event_framed (s0 : State) (e : Ev) (s : State) (h_s : WriteFrame s0 s) : WriteFrame s0 (event e s) := by
  unfold event; grind [event0_framed, raiseOverflows_framed, foldl_framed, mk_framed, FsWriteFrame.st, FsWriteFrame.after, FsWriteFrame.mk, WriteFrame.scratch, WriteFrame.cw, WriteFrame.extents, WriteFrame.grants, WriteFrame.mem]

theorem staleUnit_framed (s0 : State) (off : ℕ) (s : State) (h_s : WriteFrame s0 s) : WriteFrame s0 (staleUnit off s) := by
  unfold staleUnit; grind [event_framed, bump_framed, foldl_framed, mk_framed, FsWriteFrame.st, FsWriteFrame.after, FsWriteFrame.mk, WriteFrame.scratch, WriteFrame.cw, WriteFrame.extents, WriteFrame.grants, WriteFrame.mem]

theorem setUpdates_framed (s0 : State) (prt : ℕ) (line : ℕ) (rule : SetRule) (old : List Byte) (new : List Byte) (s : State) (h_s : WriteFrame s0 s) : WriteFrame s0 (setUpdates prt line rule old new s).2 := by
  unfold setUpdates; grind [ownRequest_framed, bump_framed, staleUnit_framed, foldl_framed, foldl_snd_framed, mk_framed, FsWriteFrame.st, FsWriteFrame.after, FsWriteFrame.mk, WriteFrame.scratch, WriteFrame.cw, WriteFrame.extents, WriteFrame.grants, WriteFrame.mem]

theorem updateItem_framed (s0 : State) (id : ℕ) (f : Item → Item) (s : State) (h_s : WriteFrame s0 s) : WriteFrame s0 (updateItem id f s) := by
  unfold updateItem; grind [State_onHome_framed, foldl_framed, mk_framed, FsWriteFrame.st, FsWriteFrame.after, FsWriteFrame.mk, WriteFrame.scratch, WriteFrame.cw, WriteFrame.extents, WriteFrame.grants, WriteFrame.mem]

theorem addForwards_framed (s0 : State) (id : ℕ) (fw : List (ℕ × ℕ)) (s : State) (h_s : WriteFrame s0 s) : WriteFrame s0 (addForwards id fw s) := by
  unfold addForwards; grind [updateItem_framed, foldl_framed, mk_framed, FsWriteFrame.st, FsWriteFrame.after, FsWriteFrame.mk, WriteFrame.scratch, WriteFrame.cw, WriteFrame.extents, WriteFrame.grants, WriteFrame.mem]

theorem settleGroup_framed (s0 : State) (off : ℕ) (ok : Bool) (s : State) (h_s : WriteFrame s0 s) : WriteFrame s0 (settleGroup off ok s) := by
  unfold settleGroup; grind [State_onEng_framed, foldl_framed, mk_framed, FsWriteFrame.st, FsWriteFrame.after, FsWriteFrame.mk, WriteFrame.scratch, WriteFrame.cw, WriteFrame.extents, WriteFrame.grants, WriteFrame.mem, foldl_snd_framed]

theorem poisonConsumed_framed (s0 : State) (prt : ℕ) (addr : ℕ) (status : ℕ) (s : State) (h_s : WriteFrame s0 s) : WriteFrame s0 (poisonConsumed prt addr status s) := by
  unfold poisonConsumed; grind [event_framed, foldl_framed, mk_framed, FsWriteFrame.st, FsWriteFrame.after, FsWriteFrame.mk, WriteFrame.scratch, WriteFrame.cw, WriteFrame.extents, WriteFrame.grants, WriteFrame.mem]

theorem retryMarks_framed (s0 : State) (n : ℕ) (it : Item) (quiet : Bool) (s : State) (h_s : WriteFrame s0 s) : WriteFrame s0 (retryMarks n it quiet s) := by
  unfold retryMarks; grind [setCtx_framed, foldl_framed, mk_framed, FsWriteFrame.st, FsWriteFrame.after, FsWriteFrame.mk, WriteFrame.scratch, WriteFrame.cw, WriteFrame.extents, WriteFrame.grants, WriteFrame.mem]

theorem setIssued_framed (s0 : State) (sid : ℕ) (num : ℕ) (f : Issued → Issued) (s : State) (h_s : WriteFrame s0 s) : WriteFrame s0 (setIssued sid num f s) := by
  unfold setIssued; grind [State_onCore_framed, foldl_framed, mk_framed, FsWriteFrame.st, FsWriteFrame.after, FsWriteFrame.mk, WriteFrame.scratch, WriteFrame.cw, WriteFrame.extents, WriteFrame.grants, WriteFrame.mem]

theorem finishQ_framed (s0 : State) (quiet : Bool) (it : Item) (status : ℕ) (value : ℕ) (payload : List Byte) (s : State) (h_s : WriteFrame s0 s) : WriteFrame s0 (finishQ quiet it status value payload s) := by
  unfold finishQ; grind [poisonConsumed_framed, bump_framed, sendRec_framed, setCtx_framed, retryMarks_framed, setIssued_framed, foldl_framed, mk_framed, FsWriteFrame.st, FsWriteFrame.after, FsWriteFrame.mk, WriteFrame.scratch, WriteFrame.cw, WriteFrame.extents, WriteFrame.grants, WriteFrame.mem]

theorem finish_framed (s0 : State) (it : Item) (status : ℕ) (value : ℕ) (payload : List Byte) (s : State) (h_s : WriteFrame s0 s) : WriteFrame s0 (finish it status value payload s) := by
  unfold finish; grind [finishQ_framed, foldl_framed, mk_framed, FsWriteFrame.st, FsWriteFrame.after, FsWriteFrame.mk, WriteFrame.scratch, WriteFrame.cw, WriteFrame.extents, WriteFrame.grants, WriteFrame.mem]

theorem removeItem_framed (s0 : State) (id : ℕ) (s : State) (h_s : WriteFrame s0 s) : WriteFrame s0 (removeItem id s) := by
  unfold removeItem; grind [State_onHome_framed, foldl_framed, mk_framed, FsWriteFrame.st, FsWriteFrame.after, FsWriteFrame.mk, WriteFrame.scratch, WriteFrame.cw, WriteFrame.extents, WriteFrame.grants, WriteFrame.mem]

theorem endItem_framed (s0 : State) (it : Item) (status : ℕ) (value : ℕ) (payload : List Byte) (s : State) (h_s : WriteFrame s0 s) : WriteFrame s0 (endItem it status value payload s) := by
  unfold endItem; grind [bump_framed, settleGroup_framed, finish_framed, removeItem_framed, foldl_framed, mk_framed, FsWriteFrame.st, FsWriteFrame.after, FsWriteFrame.mk, WriteFrame.scratch, WriteFrame.cw, WriteFrame.extents, WriteFrame.grants, WriteFrame.mem, foldl_snd_framed]

theorem endForwarded_framed (s0 : State) (it : Item) (bad : Bool) (status : ℕ) (value : ℕ) (payload : List Byte) (s : State) (h_s : WriteFrame s0 s) : WriteFrame s0 (endForwarded it bad status value payload s) := by
  unfold endForwarded; grind [endItem_framed, foldl_framed, mk_framed, FsWriteFrame.st, FsWriteFrame.after, FsWriteFrame.mk, WriteFrame.scratch, WriteFrame.cw, WriteFrame.extents, WriteFrame.grants, WriteFrame.mem]

theorem endWrite_framed (s0 : State) (it : Item) (fw : List (ℕ × ℕ)) (status : ℕ) (value : ℕ) (payload : List Byte) (s : State) (h_s : WriteFrame s0 s) : WriteFrame s0 (endWrite it fw status value payload s) := by
  unfold endWrite; grind [addForwards_framed, endItem_framed, endForwarded_framed, updateItem_framed, foldl_framed, mk_framed, FsWriteFrame.st, FsWriteFrame.after, FsWriteFrame.mk, WriteFrame.scratch, WriteFrame.cw, WriteFrame.extents, WriteFrame.grants, WriteFrame.mem]

theorem writeStat_framed (s0 : State) (op : ℕ) (status : ℕ) (s : State) (h_s : WriteFrame s0 s) : WriteFrame s0 (writeStat op status s) := by
  unfold writeStat; grind [bump_framed, foldl_framed, mk_framed, FsWriteFrame.st, FsWriteFrame.after, FsWriteFrame.mk, WriteFrame.scratch, WriteFrame.cw, WriteFrame.extents, WriteFrame.grants, WriteFrame.mem]

theorem setSet_framed (s0 : State) (i : ℕ) (f : SetSt → SetSt) (s : State) (h_s : WriteFrame s0 s) : WriteFrame s0 (setSet i f s) := by
  unfold setSet; grind [State_onMach_framed, foldl_framed, mk_framed, FsWriteFrame.st, FsWriteFrame.after, FsWriteFrame.mk, WriteFrame.scratch, WriteFrame.cw, WriteFrame.extents, WriteFrame.grants, WriteFrame.mem]

theorem applyControl_framed (s0 : State) (off : ℕ) (data : List Byte) (s : State) (h_s : WriteFrame s0 s) : WriteFrame s0 (applyControl off data s) := by
  unfold applyControl
  repeat' (first | extract_lets | split)
  all_goals grind [setSet_framed, foldl_framed, mk_framed, FsWriteFrame.st, FsWriteFrame.after, FsWriteFrame.mk, WriteFrame.scratch, WriteFrame.cw, WriteFrame.extents, WriteFrame.grants, WriteFrame.mem]

theorem takeArmed_framed (s0 : State) (kind : ℕ) (unit : ℕ) (faults : List ℕ) (s : State) (h_s : WriteFrame s0 s) : WriteFrame s0 (takeArmed kind unit faults s).2 := by
  unfold takeArmed; grind [State_onGov_framed, foldl_framed, mk_framed, FsWriteFrame.st, FsWriteFrame.after, FsWriteFrame.mk, WriteFrame.scratch, WriteFrame.cw, WriteFrame.extents, WriteFrame.grants, WriteFrame.mem, foldl_snd_framed]

theorem countEvent_framed (s0 : State) (k : EvKind) (kind : ℕ) (unit : ℕ) (addr : ℕ) (inj : Bool) (s : State) (h_s : WriteFrame s0 s) : WriteFrame s0 (countEvent k kind unit addr inj s) := by
  unfold countEvent; grind [bump_framed, setUnitH_framed, event_framed, foldl_framed, mk_framed, FsWriteFrame.st, FsWriteFrame.after, FsWriteFrame.mk, WriteFrame.scratch, WriteFrame.cw, WriteFrame.extents, WriteFrame.grants, WriteFrame.mem, foldl_snd_framed]

theorem poisonLine_framed (s0 : State) (line : ℕ) (u : Option (ℕ × ℕ)) (inj : Bool) (s : State) (h_s : WriteFrame s0 s) : WriteFrame s0 (poisonLine line u inj s) := by
  unfold poisonLine; grind [bump_framed, setPoison_framed, event_framed, foldl_framed, mk_framed, FsWriteFrame.st, FsWriteFrame.after, FsWriteFrame.mk, WriteFrame.scratch, WriteFrame.cw, WriteFrame.extents, WriteFrame.grants, WriteFrame.mem, foldl_snd_framed]

theorem noteDevice_framed (s0 : State) (k : ℕ) (u : ℕ) (e : SymErr) (s : State) (h_s : WriteFrame s0 s) : WriteFrame s0 (noteDevice k u e s) := by
  unfold noteDevice; grind [setUnitH_framed, foldl_framed, mk_framed, FsWriteFrame.st, FsWriteFrame.after, FsWriteFrame.mk, WriteFrame.scratch, WriteFrame.cw, WriteFrame.extents, WriteFrame.grants, WriteFrame.mem, foldl_snd_framed]

theorem tierRead_framed (s0 : State) (line : ℕ) (syms : SymErr) (s : State) (h_s : WriteFrame s0 s) : WriteFrame s0 (tierRead line syms s).2 := by
  unfold tierRead; grind [takeArmed_framed, countEvent_framed, poisonLine_framed, noteDevice_framed, foldl_framed, mk_framed, FsWriteFrame.st, FsWriteFrame.after, FsWriteFrame.mk, WriteFrame.scratch, WriteFrame.cw, WriteFrame.extents, WriteFrame.grants, WriteFrame.mem, foldl_snd_framed]

theorem fetchLine_framed (s0 : State) (line : ℕ) (syms : SymErr) (s : State) (h_s : WriteFrame s0 s) : WriteFrame s0 (fetchLine line syms s).2 := by
  unfold fetchLine; grind [tierRead_framed, lcTouch_framed, foldl_framed, mk_framed, FsWriteFrame.st, FsWriteFrame.after, FsWriteFrame.mk, WriteFrame.scratch, WriteFrame.cw, WriteFrame.extents, WriteFrame.grants, WriteFrame.mem, foldl_snd_framed]

theorem setMillpond_framed (s0 : State) (q : ℕ) (f : Millpond → Millpond) (s : State) (h_s : WriteFrame s0 s) : WriteFrame s0 (setMillpond q f s) := by
  unfold setMillpond; grind [State_onStore_framed, foldl_framed, mk_framed, FsWriteFrame.st, FsWriteFrame.after, FsWriteFrame.mk, WriteFrame.scratch, WriteFrame.cw, WriteFrame.extents, WriteFrame.grants, WriteFrame.mem]

theorem placeT3_framed (s0 : State) (s : State) (pg q n : Nat) (h : WriteFrame s0 s) : ∀ x, placeT3 s pg q n = some x → WriteFrame s0 x.2 := by
  unfold placeT3
  generalize hf : (fun (r : Option (Nat × State)) (i : Nat) => _) = f
  have step : ∀ r i, (∀ x, r = some x → WriteFrame s0 x.2) → ∀ x, f r i = some x → WriteFrame s0 x.2 := by
    intro r i hr x e
    subst hf
    dsimp only at e
    split at e
    · exact hr x e
    · split at e
      · cases e; exact setMillpond_framed _ _ _ _ h
      · cases e
  clear hf
  generalize hl : t3Order s q = l
  clear hl
  suffices k : ∀ r : Option (Nat × State), (∀ x, r = some x → WriteFrame s0 x.2) → ∀ x, l.foldl f r = some x → WriteFrame s0 x.2 from k none (by simp)
  induction l with
  | nil => exact fun r hr x e => hr x e
  | cons a l ih => exact fun r hr => ih _ (step r a hr)

theorem newT3_framed (s0 : State) (f : List Nat → List Nat) (s : State) (h : WriteFrame s0 s) : WriteFrame s0 (s.onStore fun st => { st with newT3 := f st.newT3 }) :=
  State_onStore_framed _ _ _ h rfl

theorem allocPage_framed (s0 : State) (pg prt : Nat) (w : List (Nat × List Byte)) (s : State) (h : WriteFrame s0 s) : WriteFrame s0 (allocPage pg prt w s).2 := by
  unfold allocPage
  extract_lets new q1 q2 n q3
  have hnew : ∀ t f c s, WriteFrame s0 s → WriteFrame s0 (new t f c s) := fun _ _ _ _ hs => editPage_framed _ _ _ _ hs
  cases (if q1 then freeFrame s (pageBay pg) else none) with
  | some f => exact hnew _ _ _ _ h
  | none => cases (if q2 then freeRun s 16 else none) with
    | some u => exact hnew _ _ _ _ h
    | none => cases e : (if q3 then placeT3 s pg (pageQuarter pg) n else none) with
      | none => exact h
      | some x =>
        refine hnew _ _ _ _ (newT3_framed s0 (· ++ [pg]) _ ?_)
        by_cases q : q3 = true
        · rw [if_pos q] at e
          exact placeT3_framed s0 s pg (pageQuarter pg) n h x e
        · rw [if_neg q] at e
          cases e

theorem allocFor_framed (s0 : State) (prt : ℕ) (ws : List (ℕ × List Byte)) (s : State) (h_s : WriteFrame s0 s) : WriteFrame s0 (allocFor prt ws s).2 := by
  unfold allocFor; grind [allocPage_framed, foldl_framed, foldl_snd_framed, mk_framed, FsWriteFrame.st, FsWriteFrame.after, FsWriteFrame.mk, WriteFrame.scratch, WriteFrame.cw, WriteFrame.extents, WriteFrame.grants, WriteFrame.mem]

theorem allocated_framed (s0 : State) (it : Item) (line : ℕ) (ws : List (ℕ × List Byte)) (s : State) (h_s : WriteFrame s0 s) : WriteFrame s0 (allocated it line ws s).2 := by
  unfold allocated; grind [fetchLine_framed, touchPage_framed, allocFor_framed, foldl_framed, mk_framed, FsWriteFrame.st, FsWriteFrame.after, FsWriteFrame.mk, WriteFrame.scratch, WriteFrame.cw, WriteFrame.extents, WriteFrame.grants, WriteFrame.mem, foldl_snd_framed]

end Sys2Proof.Machine
end

