-- ==== Sys2Proof/Tests/Slice0.lean ====
section
/-! SUPPORT. Tests of the model: values the spec states or works out, ill-formed commands that `Instr.wf` refuses, and, for every clause of every obligation, a concrete state and command that meet its hypotheses. -/

namespace Sys2Proof.Tests
open Sys2Proof Sys2Proof.Machine
set_option Elab.async false

/-- A device in service: both halves' islands and Novva's run, the sixteen home slices serve, partition 1 owns extents 0 to 3, node 5 has a context, a grant of both rights on them, and three Felset sessions: 1 an installer's, 2 an operator's, 3 the maker's. Its command keys are empty, so that every tag is zeros. -/
def sBase : State :=
  cwSetField 0x020000 41 21 16 (cwSetField 0x0C0000 47 32 9 {
    pwr := { pwrGood := true, pstate := .inService, startStep := 11, tsWest := 1000000000, tsEast := 1000000000,
             islands := (List.range 64).map fun i => (i, ({ st := .running } : Island)) }
    gov := { state := 2 }
    mach := { holder := .west, lastHolder := .west, gen := 1, genCopy := 1, unitGen := 1, believesWest := true }
    home := { slices := (List.range 16).map fun b => (b, SliceState.serving) }
    kt := { ctxs := [(5, { live := true, session := 7, rwnd := 4095, lastHeard := 1000000000 })] }
    sec := { nvState := .ready
             sessions := [(1, { live := true, node := 5, role := 2 }), (2, { live := true, node := 5, role := 1 }),
                          (3, { live := true, node := 5, role := 3, slot := 0xFF })]
             parts := [(1, { enabled := true, keyEpoch := 1 })]
             extents := (List.range 4).map fun e => (e, ({ xstate := 1, part := 1 } : Extent))
             grants := [{ node := 5, rights := 3, first := 0, count := 4 }] } })

/-- A Felset command of node 5 in a session, with its tag of zeros. -/
def cmd (fsid : Nat) (params : List Byte) : FsCmd :=
  { node := 5, len := 4 + (params.length + 7) / 8, cseq := if fsid = 0 then 0 else 1, plen := params.length, fsid := BitVec.ofNat 32 fsid
    tag := List.replicate 16 0, params := params }

/-- A request record of node 5 for partition 1. -/
def rq (addr : Nat) (param : Nat) (len : Nat) (payload : List Byte := []) : TxnReq :=
  { node := 5, len := len, flags := 1, param := BitVec.ofNat 8 param, tag := 3, addr := BitVec.ofNat 64 addr, payload := payload }

def z (n : Nat) : List Byte := List.replicate n 0
def le (n v : Nat) : List Byte := leBytes n v
/-- An entry of a word write. -/
def cw (a m v : Nat) : List Byte := leBytes 3 a ++ z 5 ++ leBytes 8 m ++ leBytes 8 v

def sAudit : State := sBase.onNor fun n => { n with auditNext := 5 }
def sNoPart : State := sBase.onSec fun x => { x with parts := [], extents := [], grants := [] }
def sFurl : State := sBase.onPwr fun p => { p with pstate := .furl }
def sHealth : State := (setUnitH (unitKey 0 15) (fun u => { u with lastTs := 1 }) sBase).onNor fun n => { n with hlogNext := 3 }
def sImage : State := sBase.onNor fun n => { n with images := [(1, { istate := 2, bytes := z 448 })] }
def sGroup : State := sBase.onEng fun e => { e with
  groups := [(64, { opened := true, part := 1, n := 2 })], steps := [(128, { taken := true, part := 1 })] }
def sMerging : State := sBase.onHome fun h => { h with waitq := [{ id := 0, src := .agent 5, op := 0x6B, part := 1, tag := 3, off := 256, param := 0, admitted := 0, search := some { index := 256 } }] }
def sStream : State := setStream (2 ^ 27 + 1) (fun _ => { part := 1, st := .running, count := 4 })
  (sBase.onCore fun c => { c with cur := some (2 ^ 27 + 1) })
/-- Partition 1 has a share and a stream descriptor of one word at offset 64, its word at 128. -/
def sRun : State := writeBytes 64 (leBytes 8 128 ++ leBytes 4 1 ++ z 52) (cwSetField 0x070401 63 56 1 sBase)
/-- Slot 0 names set 4 with the window of extents 0 to 3. -/
def sSlot : State := cwSetField 0x0C0100 63 48 4 (cwSetField 0x0C0100 47 43 1 (cwSetField 0x0C0100 41 21 0 (cwSetField 0x0C0100 20 0 4 sBase)))
def sSet : State := sSlot.onMach fun m => { m with sets := [(0, { sstate := 1, mode := 2, k := 2, master := 9, epoch := 1, members := [9, 5], pos := 0, validTo := 2 ^ 20 })] }

def sHeld : State := sBase.onPwr fun p => { p with resetN := false, pstate := .resetting }
def sStarting : State := sBase.onPwr fun p => { p with pstate := .starting, startStep := 10, tail := [7, 8] }
def sNoNor : State := sBase.onPwr fun p => { p with pstate := .starting, startStep := 2, board := { norReadable := false } }
/-- Step 8 ended without a usable DIMM; in the second state every stack island is out of use. -/
def sNoDdr : State := sBase.onPwr fun p => { p with pstate := .starting, startStep := 6, tail := [7] }
def sNoStacks : State := sBase.onPwr fun p => { p with pstate := .starting, startStep := 6, islands := stackIslands.map fun i => (i, ({ st := .held, tries := 3 } : Island)) }
/-- Island 16 is Held, 17 locks, 18 pauses for rate step 2, 19 is Held after two tries. -/
def sPll : State := sBase.onPwr fun p => { p with islands := [(16, { st := .held }), (17, { st := .locking }), (18, { st := .running, toStep := some 2 }), (19, { st := .held, tries := 2 })] }
/-- Page 8 is in T1, page 9 in T2; both low-water marks are 100 %. -/
def sPages : State := cwSetField 0x020001 31 24 100 (cwSetField 0x020001 23 16 100 (sBase.onStore fun x => { x with
  pages := [(8, { tier := 1, part := 1, frame := 0 }), (9, { tier := 2, part := 1, frame := 0 })], candidates := [(0, [8]), (16, [9])]
  populated := [0], unitsPerChannel := 100 }))
/-- The Sluice of quarter 0 has an evacuation of page 8 to start, whose lane is retired. -/
def sQueued : State := (setUnitH (unitKey kLane 0) (fun u => { u with health := .retired }) sPages).onStore fun x => { x with moveQ := [(0, [{ page := 8, why := .evacuate }])] }
/-- Pages 1 and 2 move; 65 lines of page 2 have been written since. -/
def sMoving : State := sPages.onStore fun x => { x with
  pages := [(1, { tier := 1, part := 1, mig := true }), (2, { tier := 1, part := 1, mig := true, frame := 1 })]
  moves := [(1, { why := .evacuate, tier := 2, frame := 0 }), (2, { why := .evacuate, tier := 2, frame := 16, dirty := List.range 65 })] }
/-- Page 0 is in T3 on block 1; block 1 of Millpond slice 0 is full, block 2 collected and empty. -/
def sPond : State := sBase.onStore fun x => { x with
  pages := [(0, { tier := 3, part := 1, comp := true })]
  millponds := [(0, { st := .serving, targets := [{ ch := 0, tg := 0, blocks := 4, ppb := 64 }], collecting := [2]
                      slots := [(0, { blk := 1, len := 1 })]
                      blocks := [(0, { st := .system }), (1, { st := .full, valid := 1 }), (2, { st := .full }), (3, { st := .opened })] })] }
def sScan : State := (setMillpond 3 (fun m => { m with st := .scanning }) sBase).onPwr fun p => { p with pstate := .starting }
/-- The peer can be reached on both planes; link 0 is up, link 4 trains, and the lanes of ports 0 and 1 are in service. -/
def sPeer : State := cwSetField 0x044000 47 40 0x05 (sBase.onKt fun k => { k with
  links := [(0, { st := .up, width := 4 }), (4, { st := .training }), (16, { st := .up, width := 4 })]
  lanes := (List.range 16).map fun l => (l, LaneState.inService) })
/-- A sequenced frame of node 5 with nothing wrong. -/
def rxf : RxFrame :=
  { link := 0, octets := 100, srcMac := macOf sPeer 0 5, tag := some { vid := dataVid sPeer 0 }, pn := 1, seqd := true, length := 24
    srcNode := 5, dstNode := 9, seq := 0, ack := 0, session := 7, recCount := 0, rwnd := 4095, recs := [] }
def sProbing : State := setCtx 5 (fun c => { c with plane := 1, probeOut := true, probeTok := 1, lastProbe := 2, probeReplies := 2 }) sPeer
def sHeldFrame : State := setCtx 5 (fun c => { c with
  owed := [(0, 0)], held := [{ seq := 0, ord := false, mgmt := false, rcd := .probe 0 0, plane := 0, sentAt := 0, sends := 1 }] }) sPeer
def sLastTry : State := setCtx 5 (fun c => { c with tries := 15 }) sHeldFrame
def sAway : State := setCtx 5 (fun c => { c with plane := 1 }) sPeer
def sess (n : Nat) : SessRec :=
  { node := n, plane := 0, rwnd := 4095, seq0 := 0, nonce := z 32, certNode := n, signer := [], modulus := [], certSig := [], ehalf := z 384, sig := [] }
/-- Node 6's open waits for Novva, and one of the YM9's own to it is out. -/
def sOpening : State := sPeer.onKt fun k => { k with
  opens := [sess 6], ownOpens := [(6, { live := true, nonce := z 32, half := z 32 })] }
def sIdle : State := setCtx 5 (fun c => { c with lastHeard := 0, lastSent := 0, tx := [(0, { sa := 0, pn := 2 ^ 48 })] }) sPeer
def sFlushing : State := setCtx 5 (fun c => { c with flushSent := some 0 }) sPeer
def own (g : Nat) (b : Bool) : OwnReq := { tag := g, rcd := .req 0x10 g false 0 0 0 [], sentAt := 0, backoff := b }
def sOwn : State := setCtx 5 (fun c => { c with own := [own 1 false, own 2 true] }) sPeer
def sSilent : State := setCtx 5 (fun c => { c with lstate := .silent, lastHeard := 0 }) sPeer

/-- A request record of node 5 for partition 1 whose LEN is what its payload takes, in units of `u` bytes. -/
def rec (u addr param : Nat) (payload : List Byte) : TxnReq :=
  let len := (16 + payload.length + u - 1) / u
  rq addr param len (payload ++ z (u * len - 16 - payload.length))

/-- Pages 0 and 1 of partition 1 are in T1. -/
def sData : State := sBase.onStore fun x => { x with pages := [(0, { tier := 1, part := 1 }), (1, { tier := 1, part := 1, frame := 1 })] }
/-- Rings of 256 bytes at page 1: one with room at 64, an empty one at 128, and one that holds a message of 8 bytes at 192. -/
def sRing : State := writeBytes 65536 (leBytes 4 8) (writeBytes 64 (leBytes 8 65536 ++ leBytes 8 256) (writeBytes 128 (leBytes 8 65536 ++ leBytes 8 256)
  (writeBytes 192 (leBytes 8 65536 ++ leBytes 8 256 ++ leBytes 8 0 ++ leBytes 8 64) (setCtx 5 (fun c => { c with window := 4095 }) sData))))
def sComb : State := sData.onHome fun h => { h with comb := [(1, { op := 0x20, width := 4, acc := [(0, 1)] })] }
def sWaiting : State := sData.onHome fun h => { h with nextId := 1, waitq := [{ id := 0, src := .agent 5, op := 0x00, part := 1, tag := 3, off := 0, param := 0, admitted := 0 }] }
/-- Node 5 owns line 1; line 2 waits for its GRANT_ACK. -/
def sOwned : State := sData.onHome fun h => { h with dir := [(1, { st := .x, owner := 5, way := 1 }), (2, { st := .g, grantee := 5, grantTag := 3, way := 1 })] }
/-- Lines with snoops to node 5 open, one with a Race invalidation, one under a sweep, and bay 2's slice flushing. -/
def sSnoop : State := sData.onHome fun h => { h with
  dir := [(1, { st := .si, acks := [(5, 1)], way := 1 }), (2, { st := .xr, owner := 5, down := true, acks := [(5, 2)], way := 2 }),
          (3, { st := .bi, race := true, way := 3 }), (4, { st := .si, acks := [(5, 4)], revoking := true, way := 4 })]
  slices := kput .off h.slices 2 .flushing, flushDue := [(2, [(5, 9)])] }

/-- Partition 1's window is the whole of every bay's scratchpad; its stream is at the word `w`. -/
def sHead (w : Nat) : State := setStream (2 ^ 27 + 1) (fun t => { t with fetched := [(0, .word (BitVec.ofNat 256 w))] })
  (cwSetField 0x070201 7 0 192 sStream)
/-- MM of one BF16 element by one into FP32. -/
def mmW : Nat := 0x10 + 7 * 2 ^ 32 + 7 * 2 ^ 36 + 9 * 2 ^ 40 + 8 * 2 ^ 92 + 64 * 2 ^ 180 + 128 * 2 ^ 132
/-- A vector word over 32 FP32 elements of bay 0, with the given FMT_D. -/
def vecW (op fd : Nat) : Nat := op + 9 * 2 ^ 32 + fd * 2 ^ 36 + 2 ^ 108 + 31 * 2 ^ 140 + 512 * 2 ^ 160 + 256 * 2 ^ 184 + 1024 * 2 ^ 232
/-- A DMA word of one line. -/
def dmaW (op : Nat) : Nat := op + 64 * 2 ^ 172
/-- The stream has issued one word, which its engine has started and which was answered OK. -/
def sIss (op : Nat) : State := setStream (2 ^ 27 + 1) (fun t => { t with
  issueNext := 2, issued := [{ num := 1, pc := 0, word := BitVec.ofNat 256 op, eng := wEng (BitVec.ofNat 256 op), value := some (sOK, 5) }] }) sStream
def sReady : State := (setStream (2 ^ 27 + 1) (fun t => { t with st := .queued }) sStream).onCore fun c => { c with cur := none, queue := [2 ^ 27 + 1] }
/-- A stream of partition 2 waits while one of partition 1 has run for long. -/
def sTwo : State := (setStream (2 ^ 28 + 1) (fun _ => { part := 2 }) (setStream (2 ^ 27 + 1) (fun t => { t with fetched := [] }) sStream)).onCore fun c =>
  { c with queue := [2 ^ 28 + 1] }
def sSusp : State := sStream.onCore fun c => { c with suspending := true }
def sOld : State := setStream (2 ^ 27 + 1) (fun t => { t with maxMs := 1 }) sStream

/-- Pages 0 to 7 of partition 1 are in T1, and the near-memory units of every bay serve. -/
def sNear : State := (sBase.onStore fun x => { x with pages := (List.range 8).map fun p => (p, ({ tier := 1, part := 1, frame := p } : PageEnt)) }).onEng fun e =>
  { e with querns := (List.range 256).map fun u => (u, UState.serving), hoists := (List.range 16).map fun b => (b, UState.serving),
           bolters := (List.range 16).map fun b => (b, UState.serving) }
/-- A Quern descriptor of one line at offset 0: destination page 1, source page 2 (a source list of `ns` at 192 for the codes), second output page 3. -/
def sQuern (op ns : Nat) : State :=
  writeBytes 192 (leBytes 8 262144 ++ [if op = 6 then 1 else 0]) (writeBytes 0 ([BitVec.ofNat 8 op, 0, 0, BitVec.ofNat 8 ns] ++ leBytes 4 1 ++ leBytes 8 65536
    ++ leBytes 8 (if op = 0 ∨ op = 4 then 0 else if ns = 0 then 131072 else 192)
    ++ leBytes 8 (if op = 5 then 196608 else if op = 4 then 2 else 0)) sNear)
def sInv : State := sNear.onEng fun e => { e with invs := [(0, { live := true, item := 0, portions := [{ page := 1, quern := 0, count := 1, left := 1 }] })] }
/-- The control line at 64 names a group of one line at page 1; the groups at 128 and 192 are open, the second with one DONE to come. -/
def sGroups : State := writeBytes 64 (leBytes 8 65536 ++ leBytes 4 1 ++ [1, 0, 0, 0] ++ leBytes 2 2 ++ z 6 ++ leBytes 8 2) (sNear.onEng fun e => { e with
  groups := [(128, { opened := true, part := 1, target := 65536, lines := 1, rfmt := 1, n := 2, key := 2 }),
             (192, { opened := true, part := 1, target := 131072, lines := 1, rfmt := 1, n := 1, key := 2 })] })
/-- A table of four rows of eight FP32 at page 1, its descriptor at 128; a batch of one identifier, its descriptor at 0, lists at 256 and 512, output at 1024. -/
def tableBytes : List Byte := leBytes 8 65536 ++ leBytes 8 4 ++ leBytes 2 8
def sHoist : State := writeBytes 516 [1] (writeBytes 256 [3] (writeBytes 128 tableBytes
  (writeBytes 0 (leBytes 8 128 ++ leBytes 8 256 ++ leBytes 8 512 ++ leBytes 8 0 ++ leBytes 8 1024 ++ leBytes 4 1 ++ leBytes 4 1 ++ leBytes 4 64 ++ [0, 9]) sNear)))
def sHoistOpen : State := sHoist.onEng fun e => { e with steps := [(128, { taken := true, part := 1, n := 2, desc := readBytes sHoist 128 128 })] }
def sHoistLast : State := sHoist.onEng fun e => { e with steps := [(128, { taken := true, part := 1, n := 1, desc := readBytes sHoist 128 128 })] }
def item (op : Nat) : Item := { id := 0, src := .agent 5, op := op, part := 1, tag := 3, off := 256, param := 0, admitted := 0, search := some { index := 256 } }
def sClosing : State := (sHoist.onEng fun e => { e with steps := [(128, { taken := true, part := 1, n := 1, closing := some 0 })] }).onHome fun h => { h with waitq := [item 0x67] }
def sHot : State := cwSetField 0x09023E 63 63 1 sNear
/-- An index of one node of eight FP32 at 0: graph, codes, vectors at pages 1 to 3, codebook and side log at page 4; a query of it at 512. -/
def sIndex : State := writeBytes 512 (leBytes 8 0 ++ leBytes 8 1024 ++ leBytes 8 2048 ++ leBytes 2 1 ++ [1, 0] ++ leBytes 2 1 ++ leBytes 2 1 ++ leBytes 4 1)
  (writeBytes 0 (leBytes 8 65536 ++ leBytes 8 131072 ++ leBytes 8 196608 ++ leBytes 8 262144 ++ leBytes 8 270336 ++ leBytes 4 4 ++ leBytes 4 1024
    ++ leBytes 2 8 ++ [9, 0, 8, 8, 0] ++ z 9 ++ leBytes 4 1 ++ leBytes 4 1 ++ leBytes 4 1 ++ leBytes 4 1) sNear)
def sBl (op : Nat) : State := sNear.onHome fun h => { h with waitq := [item op] }
/-- Partition 2 is being disabled; node 6's grant on extent 3 drains; extent 5 is draining, 6 quarantined, 7 under scrub. -/
def sParts : State := (sBase.onStore fun x => { x with pages := [(28672, { tier := 1, part := 1 })] }).onSec fun x => { x with
  parts := [(1, { enabled := true, keyEpoch := 1 }), (2, { enabled := true, disabling := true, keyEpoch := 1 })]
  grants := [{ node := 6, rights := 3, first := 3, count := 1, draining := true, swept := true }]
  extents := (List.range 4).map (fun e => (e, ({ xstate := 1, part := 1 } : Extent)))
    ++ [(5, { xstate := 2, part := 1 }), (6, { xstate := 3, part := 1 }), (7, { xstate := 4, part := 1 })]
  quarantine := [6], scrubbing := [7] }
def sLong : State := sBase.onPwr fun p => { p with tsWest := 10 ^ 13 }
def sErasing : State := sBase.onNor fun n => { n with auditNext := 512, auditErasing := true }
def sVerify : State := sBase.onNor fun n => { n with images := [(0, { istate := 1, src := some (0, 64) }), (1, { istate := 1, bytes := z 448 })] }
/-- The image that runs has a floor of one step. -/
def sFloor : State := sBase.onNor fun n => { n with runSlot := some 0, images := [(0, { istate := 4, bytes := z 23 ++ [1] ++ z 40 })] }
def sEntry (k : Nat) : State := sBase.onPwr fun p => { p with pstate := .furlEntry, furlStep := k }
def sWaking : State := sBase.onPwr fun p => { p with pstate := .waking, wakeAt := some 5 }
/-- Slot 0 names set 4, mirrored on this node and node 5, with the window of extent 0; position 1 is rebuilt. -/
def sRebuild : State := ((cwSetField 0x0C0100 63 48 4 (cwSetField 0x0C0100 47 43 1 (cwSetField 0x0C0100 41 21 0 (cwSetField 0x0C0100 20 0 1 (cwSetField 0x0C1000 15 0 5 (cwSetField 0x044000 47 40 0x05 sBase)))))).onStore fun x => { x with pages := [(0, { tier := 1, part := 1 })] }).onMach fun m =>
  { m with sets := [(0, { sstate := 3, mode := 2, k := 2, master := 9, epoch := 1, members := [9, 5], pos := 0, validTo := 2 ^ 20,
                          rbPos := 1, rbAll := [1], rbAt := setUnits (cwSetField 0x0C0100 20 0 1 sBase) 0 - 1 })] }
def sBays : State := sBase.onPwr fun p => { p with slowWindows := (List.range 16).map fun b => (b, 100) }
def sMapOut : State := sBase.onCore fun c => { c with mapOutDue := [3] }
def sram (n : Nat) : SramError := { kind := 0, unit := 2, array := .scratchpad, item := 0, failures := n, key := 0 }
def sSpare : State := setUnitH (unitKey 0 2) (fun u => { u with needSpare := kput false u.needSpare (arrayIdx .scratchpad) true }) sBase
def sFold : State := sBase.onGov fun g => { g with folds := [(9, { open_ := true })] }
def sInject : State := sBase.onGov fun g => { g with injects := [(0, { live := true, kind := 0, unit := 2, fault := 1, left := 2 })] }
def sTransfer : State := sBase.onMach fun m => { m with holder := .transfer, toEast := true }
def sStale : State := sBase.onMach fun m => { m with believesEast := true }

/-- Slot 0 names set 4, mirrored with node 5, with the window of extent 0; page 1 of it is written. -/
def sSetData : State := sRebuild.onStore fun x => { x with pages := [(1, { tier := 1, part := 1 })] }
/-- The version line at 64 holds version 7; the one at 128 is frozen. -/
def sVersion : State := writeBytes 64 [7] (writeBytes 128 (List.replicate 8 0xFF) sData)
def sOver : State := setStream (2 ^ 27 + 1) (fun t => { t with pc := 4 }) sStream
def pub (addr v : Nat) : TxnReq := rec 8 addr 0 (leBytes 8 v ++ z 56)
/-- A Felset record waits at the command engine; in the second state one in execution waits for a line. -/
def sBusy : State := sBase.onSec fun x => { x with waiting := [(0x0003, cmd 0 [])] }
def sHold : State := sBase.onSec fun x => { x with hold := some { fop := 0x0003, cmd := cmd 0 [], since := 0, line := 1 } }
/-- The stream descriptor's page is in T3 and nothing of it is cached. -/
def sRunFar : State := sRun.onStore fun x => { x with pages := [(0, { tier := 3, part := 1, comp := true })], lineCache := [] }
def waits : EngR → Bool
  | .wait _ => true
  | _ => false
/-- What the NAND returns of a block of zeros of page 0: the header's unit as it is stored, and no data. -/
def rPond : NandRead := { page := 0, block := 15, retries := 0, header := (storedImage sPond 0).headD [], data := [] }
def sPondPause : State := setIsland 56 (fun x => { x with toStep := some 1 }) sPond
def sOpenWait : State := sOpening.onKt fun k => { k with ownOpens := [(6, { live := true, nonce := z 32, half := z 32, waiting := true })] }
/-- `n` contexts are in use, all idle for long. -/
def sFull (n : Nat) : State := sOpening.onKt fun k => { k with ctxs := List.replicate n (10, ({ live := true, session := 1 } : Ctx)) }
def sRebuildBad : State := setSet 0 (fun t => { t with rbBad := true }) sRebuild
def sPhase (n : Nat) : State := setSet 0 (fun t => { t with rbPhase := n }) sRebuild

/-! ### Values the spec states or works out -/

/-- R278: the check value of CRC-64 on "123456789". -/
theorem test_crc64 : crc64 [0x31, 0x32, 0x33, 0x34, 0x35, 0x36, 0x37, 0x38, 0x39] = 0x995DC9BBDF1939FA := by decide +kernel

/-- FIPS 180-4: SHA-256 of "abc", first four bytes. -/
theorem test_sha256 : (sha256 [0x61, 0x62, 0x63]).take 4 = [0xBA, 0x78, 0x16, 0xBF] := by decide +kernel

/-- Chapter 3, worked example, step 2: offset 0x1234_5678_9AC0. -/
theorem test_address : (homeBay 0x123456789AC0, extentOf 0x123456789AC0, 0x123456789AC0 / 65536) = (1, 0x12345, 0x12345678) := by decide

/-- Chapter 3, worked example, step 1: eight 128 GiB DIMMs and 128 targets of 512 GiB leave 258,981,888 units for pages. -/
theorem test_reservation :
    (fun s => (t2Total s, t2Total s - s.store.reserved)) (startStep8 (cwSetField 0x020000 41 21 262144 { pwr := { pstate := .starting, board :=
      { dimms := List.replicate 8 { gib := 128 }, nand := List.replicate 16 (List.replicate 8 { blocks := 32768 }) } } })).1 = (268435456, 258981888) := by decide +kernel

/-- Chapter 18, worked example: two channels of 64 GiB make every channel count 64 GiB. -/
theorem test_dimms :
    (fun s => t2Total s * 4096) (startStep8 { pwr := { pstate := .starting, board := { dimms := List.replicate 6 { gib := 128 } ++ List.replicate 2 { gib := 64 } } } }).1 = 512 * 2 ^ 30 := by decide +kernel

/-- Chapter 4, worked example: the home plane of nodes 0x0025 and 0x0105 is A. -/
theorem test_homePlane : homePlane (cwSetField 0x0C0000 47 32 0x25 {}) 0x105 = 0 := by decide +kernel

/-- Chapter 10, worked example, step 1: P and Q of four shards. -/
theorem test_encode : (0x11 ^^^ 0x22 ^^^ 0x33 ^^^ 0x44, 0x11 ^^^ gfMul 2 0x22 ^^^ gfMul 4 0x33 ^^^ gfMul 8 0x44) = (0x44, 0x83) := by decide +kernel

/-- Chapter 10, worked example, steps 2 and 4: the inverse of 3, and the rebuilt byte. -/
theorem test_rebuild : (gfInv 3, gfMul 0xF5 0x44 ^^^ gfMul 0xF4 0x83 ^^^ gfMul 2 0x33 ^^^ gfMul 6 0x44) = (0xF4, 0x11) := by decide +kernel

/-- Chapter 13, worked example: CW_WRITE sets the T1 quota of partition 4 to 16,384 units. -/
theorem test_quota :
    (match exec (.cwWrite (cmd 1 (cw 0x021011 0xFFFFFFFC00000000 0x0001000000000000))) sBase with
     | .next t => cfg t 0x021011 63 34
     | _ => 0) = 16384 := by decide +kernel

/-- R116: 0xFFFFFFFF precedes 0. -/
theorem test_precedes : (precedes 0xFFFFFFFF 0, precedes 0 0xFFFFFFFF, precedes 5 5) = (true, false, false) := by decide

/-- R130 and Table 5.4: ATOMIC_ADD of 1 to four bytes that read 0xFFFFFFFF wraps and carries into no neighbour. -/
theorem test_atomicAdd :
    (match exec (.atomicAdd (rec 8 64 0 (leBytes 4 1 ++ z 4))) (writeBytes 64 (leBytes 4 0xFFFFFFFF) sData) with
     | .next t => readBytes t 64 8
     | _ => []) = z 8 := by decide +kernel

/-! ### Ill-formed commands -/

/-- FIPS 197, appendix C.3: AES-256 of 00 11 … ff under the key 00 01 … 1f, and back. -/
theorem test_aes :
    Aes.encBlock (Aes.schedule ((List.range 32).map (BitVec.ofNat 8))) ((List.range 16).map (17 * ·))
      = [0x8E, 0xA2, 0xB7, 0xCA, 0x51, 0x67, 0x45, 0xBF, 0xEA, 0xFC, 0x49, 0x90, 0x4B, 0x49, 0x60, 0x89]
    ∧ Aes.decBlock (Aes.schedule ((List.range 32).map (BitVec.ofNat 8)))
        [0x8E, 0xA2, 0xB7, 0xCA, 0x51, 0x67, 0x45, 0xBF, 0xEA, 0xFC, 0x49, 0x90, 0x4B, 0x49, 0x60, 0x89] = (List.range 16).map (17 * ·) := by
  decide +kernel

/-- The GCM specification, test case 14: 16 zero bytes under a zero key and a zero IV. -/
theorem test_gcm : gcmEnc (z 32) (z 12) [] (z 16)
    = ([0xCE, 0xA7, 0x40, 0x3D, 0x4D, 0x60, 0x6B, 0x6E, 0x07, 0x4E, 0xC5, 0xD3, 0xBA, 0xF3, 0x9D, 0x18],
       [0xD0, 0xD1, 0xC8, 0xA7, 0x99, 0x99, 0x6B, 0xF0, 0x26, 0x5B, 0x98, 0xB5, 0xD4, 0x8A, 0xB9, 0x19]) := by decide +kernel

/-- IEEE 1619, vector 10: the first two blocks under data unit 0xFF. -/
theorem test_xts : xtsEnc (leBytes 32 0x2776966649575999699370245777496226357174286053234590452818281827
    ++ leBytes 32 0x9245947409820551379993169741880295278333646284239397585326594131) 0xFF
    ((List.range 32).map (BitVec.ofNat 8)) 
    = [0x1C, 0x3B, 0x3A, 0x10, 0x2F, 0x77, 0x03, 0x86, 0xE4, 0x83, 0x6C, 0x99, 0xE3, 0x70, 0xCF, 0x9B, 0xEA, 0x00, 0x80, 0x3F, 0x5E, 0x48, 0x23, 0x57, 0xA4, 0xAE, 0x12, 0xD4, 0x14, 0xA3, 0xE6, 0x3B] := by decide +kernel

/-- Table 4.10: the addresses, the C-tag and the secure data of the ACK frame, before encryption. -/
theorem test_ackFrame :
    (fun f : TxFrame => f.outer ++ beBytes 2 f.etype ++ f.header ++ f.rcd.octets)
      { dst := 0x105, src := 0x25, plane := 0, link := 0, dstMac := 0x0A4C59000105, srcMac := 0x0A4C59000025, pcp := 3, vid := 100
        etype := 0x88B5, sa := some 0, pn := 8000, seqd := false, seq := 0x3A10, ack := 0x91C4, session := 0x5E1A0007, rwnd := 1024
        rcd := .ack 0x91C4 200 [(0x91C5, 0x91C9)] }
    = [0x0A, 0x4C, 0x59, 0x00, 0x01, 0x05, 0x0A, 0x4C, 0x59, 0x00, 0x00, 0x25, 0x81, 0x00, 0x60, 0x64, 0x88, 0xB5, 0x10, 0x00,
       0x28, 0x00, 0x25, 0x00, 0x05, 0x01, 0x10, 0x3A, 0x00, 0x00, 0xC4, 0x91, 0x00, 0x00, 0x07, 0x00, 0x1A, 0x5E, 0x01, 0x00,
       0x00, 0x04, 0xF0, 0x02, 0x01, 0x00, 0xC8, 0x00, 0x00, 0x00, 0xC5, 0x91, 0x00, 0x00, 0xC9, 0x91, 0x00, 0x00] := by decide +kernel

/-! ### Ill-formed commands: every check of `Instr.wf` refuses one; what differs from them in the checked operand alone is well-formed -/

theorem test_wf_good :
    [Instr.ktFrameRx rxf, .store (rq 0 0 2), .fsHello (cmd 0 []), .sessionOpen (sess 5), .powerGoodRise {}, .t3ReadDone rPond,
     .powerSample { currents := List.replicate 13 none, senseMv := [0, 0, 0, 0], temps := [0, 0, 0, 0] }].all Instr.wf = true := by
  decide +kernel

/-- None of some commands is well-formed. -/
def ill (l : List Instr) : Bool := l.all fun i => !i.wf

theorem test_wf_request :
    ill [.store { rq 0 0 2 with node := 65536 }, .load { rq 0 0 2 with len := 256 } {}, .publish { rq 0 0 2 with tag := 2 ^ 32 },
         .rdShared { rq 0 0 2 with payload := z 16305 }, .fill { rq 0 0 2 with len := 256 }, .hsLookup { rq 0 0 2 with node := 65536 },
         .blSearch { rq 0 0 2 with tag := 2 ^ 32 }] = true := by decide +kernel

theorem test_wf_felset :
    ill [.fsHello { cmd 0 [] with node := 65536 }, .cwRead { cmd 0 [] with len := 256 }, .identity { cmd 0 [] with plen := 65536 },
         .attest { cmd 0 [] with tag := [] }, .railSetWrite (cmd 1 (z 2009)), .portModeWrite (cmd 1 (z 2009)), .runStream (cmd 1 (z 2009)),
         .wake (cmd 1 (z 2009)) 0, .restartPowerUp (cmd 1 (z 2009)) {}, .restartDevice (cmd 1 []) { failedIslands := [64] },
         .mkReturn { cmd 0 [] with tag := [] }] = true := by decide +kernel

theorem test_wf_board :
    ill [.powerGoodRise { dimms := List.replicate 9 {} }, .resetNRise 1 { nand := List.replicate 17 [] },
         .powerGoodRise { failedIslands := [64] }] = true := by decide +kernel

theorem test_wf_readings :
    ill [.powerSample { currents := [], senseMv := [0, 0, 0, 0], temps := [0, 0, 0, 0] },
         .powerSample { currents := List.replicate 13 none, senseMv := [], temps := [0, 0, 0, 0] },
         .powerSample { currents := List.replicate 13 none, senseMv := [0, 0, 0, 0], temps := [] },
         .avsReadTimeout 13 0, .bayBeatWindow 16 0 0, .weirWindow 1 0 0 0, .weirWindow 0 0 1 0] = true := by decide +kernel

theorem test_wf_island :
    ill [.pllLockLoss 64, .islandRelock 64 true, .islandLockTimeout 64, .rateStepPauseEnd 64, .tapInstructionUpdate (.other 256)] = true := by
  decide +kernel

theorem test_wf_store :
    ill [.sluiceMoveStart 4, .sluiceDemoteTrigger (.t1 16), .sluiceDemoteTrigger (.quota 32 1), .sluiceDemoteTrigger (.quota 0 0),
         .sluiceDemoteTrigger (.quota 0 4), .moveSwitch (2 ^ 34), .pageMapLineFill (2 ^ 31) false, .t3ReadDone { rPond with page := 2 ^ 34 },
         .t3ReadDone { rPond with block := 16 }, .t3ReadDone { rPond with retries := 6 }, .millpondGcStart 4, .millpondScanDone 4,
         .millpondBlockErase 4 0, .millpondProgramDone 4 0 true] = true := by decide +kernel

theorem test_wf_frame :
    ill ([{ rxf with link := 32 }, { rxf with srcMac := 2 ^ 48 }, { rxf with tag := some { vid := 4096 } },
          { rxf with tag := some { vid := 0, pcp := 8 } }, { rxf with tag := some { vid := 0, tpid := 65536 } }, { rxf with etype := 65536 },
          { rxf with route := some { srcIp := 2 ^ 128 } }, { rxf with route := some { srcIp := 0, next := 256 } },
          { rxf with route := some { srcIp := 0, port := 65536 } }, { rxf with an := 4 }, { rxf with pn := 2 ^ 64 },
          { rxf with length := 65536 }, { rxf with srcNode := 65536 }, { rxf with dstNode := 65536 }, { rxf with recCount := 256 },
          { rxf with rwnd := 65536 }].map Instr.ktFrameRx) = true := by decide +kernel

theorem test_wf_record :
    ill ([{ opcode := 256, len := 0 }, { opcode := 0, len := 256 }, { opcode := 0, len := 0, tag := 2 ^ 32 },
          { opcode := 0, len := 0, flags := 256 }, { opcode := 0, len := 0, addr := 2 ^ 64 },
          { opcode := 0x7F, len := 4, fs := some (65536, cmd 0 []) },
          { opcode := 0x7F, len := 4, fs := some (0, { cmd 0 [] with tag := [] }) }].map fun (r : RxRec) =>
            Instr.ktFrameRx { rxf with recs := [r] }) = true := by decide +kernel

theorem test_wf_transport :
    ill [.ack { node := 65536, ack := 0, rwnd := 1, delayNs := 0, sacks := [] }, .ack { node := 5, ack := 0, rwnd := 65536, delayNs := 0, sacks := [] },
         .ack { node := 5, ack := 0, rwnd := 1, delayNs := 0, sacks := List.replicate 5 (0, 0) }, .nack 65536 0 0, .nack 0 (2 ^ 32) 0,
         .nack 0 0 (2 ^ 32), .probe 65536 0 0 0, .probeReply 0 2 0 0, .ackTimer 65536, .rtoExpiry 65536, .probeTimer 65536, .linkDown 32,
         .linkReformDone 32 true, .saRekey 65536 ⟨0, true⟩, .saRekey 0 ⟨4, true⟩] = true := by decide +kernel

theorem test_wf_session :
    ill [.sessionOpen { sess 5 with node := 65536 }, .sessionOpen { sess 5 with plane := 2 }, .sessionOpen { sess 5 with nonce := [] },
         .sessionAccept { sess 5 with ehalf := [] }, .sessionOpenDone 65536, .sessionOpenResend 65536, .sessionIdleClose 65536,
         .cacherFlushTimeout 65536, .sessionClose 65536 0, .sessionClose 5 256, .liveBoundExpiry 65536] = true := by decide +kernel

theorem test_wf_own :
    ill [.homeDeadline 65536 0, .requestDeadline 5 (2 ^ 32), .retryBackoff 65536 0, .setForwardResponse 65536 0 0 { op := 0 },
         .setForwardResponse 5 0 0 { op := 256 }, .setForwardResponse 5 (2 ^ 32) 0 { op := 0 }, .setForwardResponse 5 0 256 { op := 0 },
         .setForwardResponse 5 0 0 { op := 0, level := 16 }] = true := by decide +kernel

theorem test_wf_coherence :
    ill [.snpInvResponse { node := 65536, tag := 0, dirty := false, hadCopy := true }, .snpDownResponse { node := 5, tag := 2 ^ 32, dirty := false, hadCopy := true },
         .snpInvResponse { node := 5, tag := 0, dirty := true, hadCopy := true, data := z 65 }, .snpFlushBayResponse 65536 0,
         .snpFlushBayResponse 5 (2 ^ 32), .raceInvReturn (2 ^ 44), .snoopLimitExpiry (2 ^ 44), .sliceFlushTimeout 16,
         .combineDrainTimer (2 ^ 44)] = true := by decide +kernel

theorem test_wf_engines :
    ill [.streamWordFetch (2 ^ 24), .dmaCopyComplete (2 ^ 32) 0, .ldComplete (2 ^ 32) 0, .stComplete (2 ^ 32) 0, .callComplete (2 ^ 32) 0,
         .hsStepCloseDone (2 ^ 50), .hotRefresh 16, .blTimeCut 65536 0, .blTimeCut 5 (2 ^ 32), .blMergeTimeLimit (2 ^ 50)] = true := by
  decide +kernel

theorem test_wf_partitions :
    ill [.fsIdleExpiry (2 ^ 32), .partDisableFinish 32, .grantDrainDone 65536 0, .grantDrainDone 5 (2 ^ 22), .revokeDrainDone (2 ^ 22),
         .scrubDone (2 ^ 22) {}, .scrubDone 0 { badPages := [2 ^ 34] }, .rebuildBatch 16 {}, .imgVerifyDone 2] = true := by decide +kernel

theorem test_wf_governor :
    ill [.govWindowClose .lockLoss (2 ^ 24) 0, .govWindowClose .lockLoss 0 1, .govWindowClose .fecSymbols 0 (2 ^ 48),
         .leatParityError { kind := 0, unit := 0, failures := 0, line := none }, .leatParityError { kind := 0, unit := 0, failures := 5, line := none },
         .sramParityError (sram 0), .sramParityError (sram 5), .spareRowReplace (sram 5) 0, .patrolRead (2 ^ 44) {}, .fiFaultTick (2 ^ 32),
         .staleConfigWrite 2 0] = true := by decide +kernel

/-! ### Witnesses: states and commands that meet the hypotheses of the obligations -/

theorem meets_fsHello (h : Obligations.FelsetSessionCommandsComplete) : ∃ t, exec (.fsHello (cmd 0 [])) sBase = .next t := by
  refine ⟨_, h.2.1 _ _ ?_ ?_⟩ <;> decide +kernel

theorem meets_identity_waits (h : Obligations.FelsetSessionCommandsComplete) : ∃ t, exec (.identity (cmd 0 [])) sBusy = .next t := by
  refine ⟨_, h.1 _ _ ?_ ?_ ?_ ?_⟩ <;> decide +kernel

theorem meets_fsOpen (h : Obligations.FelsetSessionCommandsComplete) : ∃ t, exec (.fsOpen (cmd 0 ([0, 2] ++ z 802))) sBase = .next t := by
  refine ⟨_, h.2.2.1 _ _ ?_ ?_⟩ <;> decide +kernel

theorem meets_fsClose (h : Obligations.FelsetSessionCommandsComplete) : ∃ t, exec (.fsClose (cmd 1 [])) sBase = .next t := by
  refine ⟨_, h.2.2.2.1 _ _ ?_ ?_ ?_⟩ <;> decide +kernel

theorem meets_identity_open (h : Obligations.FelsetSessionCommandsComplete) : ∃ t, exec (.identity (cmd 0 [])) sBase = .next t := by
  refine ⟨_, h.2.2.2.2.1 _ _ ?_ ?_⟩ <;> decide +kernel

theorem meets_identity (h : Obligations.FelsetSessionCommandsComplete) : ∃ t, exec (.identity (cmd 1 [])) sBase = .next t := by
  refine ⟨_, h.2.2.2.2.2.1 _ _ ?_ ?_ ?_⟩ <;> decide +kernel

theorem meets_attest (h : Obligations.FelsetSessionCommandsComplete) : ∃ t, exec (.attest (cmd 1 (z 40))) sBase = .next t := by
  refine ⟨_, h.2.2.2.2.2.2 _ _ ?_ ?_ ?_⟩ <;> decide +kernel

theorem meets_auditRead (h : Obligations.FelsetAuditCommandsComplete) : ∃ t, exec (.auditRead (cmd 1 (le 8 3 ++ le 2 2 ++ z 6))) sAudit = .next t := by
  refine ⟨_, h.1 _ _ ?_ ?_ ?_⟩ <;> decide +kernel

theorem meets_auditHead (h : Obligations.FelsetAuditCommandsComplete) : ∃ t, exec (.auditHead (cmd 1 [])) sBase = .next t := by
  refine ⟨_, h.2.1 _ _ ?_ ?_ ?_⟩ <;> decide +kernel

theorem meets_auditAck (h : Obligations.FelsetAuditCommandsComplete) : ∃ t, exec (.auditAck (cmd 1 (le 8 5))) sAudit = .next t := by
  refine ⟨_, h.2.2 _ _ ?_ ?_ ?_⟩ <;> decide +kernel

theorem meets_cwRead (h : Obligations.ControlWordCommandsComplete) : ∃ t, exec (.cwRead (cmd 1 (le 3 0x010000 ++ [0] ++ le 2 1 ++ z 2))) sBase = .next t := by
  refine ⟨_, h.1 _ _ ?_ ?_ ?_⟩ <;> decide +kernel

theorem meets_cwWrite (h : Obligations.ControlWordCommandsComplete) : ∃ t, exec (.cwWrite (cmd 1 (cw 0x050000 0xFF 4))) sBase = .next t := by
  refine ⟨_, h.2.1 _ _ ?_ ?_ ?_⟩ <;> decide +kernel

theorem meets_cwWriteMulti (h : Obligations.ControlWordCommandsComplete) : ∃ t, exec (.cwWriteMulti (cmd 1 (le 2 1 ++ z 6 ++ cw 0x050000 0xFF 4))) sBase = .next t := by
  refine ⟨_, h.2.2.1 _ _ ?_ ?_ ?_⟩ <;> decide +kernel

theorem meets_partEnable (h : Obligations.PartitionCommandsComplete) : ∃ t, exec (.partEnable (cmd 1 ([31] ++ z 7))) sBase = .next t := by
  refine ⟨_, h.1 _ _ ?_ ?_ ?_⟩ <;> decide +kernel

theorem meets_partDisable (h : Obligations.PartitionCommandsComplete) : ∃ t, exec (.partDisable (cmd 1 ([1] ++ z 7))) sBase = .next t := by
  refine ⟨_, h.2.1 _ _ ?_ ?_ ?_⟩ <;> decide +kernel

theorem meets_extAssign (h : Obligations.PartitionCommandsComplete) : ∃ t, exec (.extAssign (cmd 1 ([1, 0, 0, 0] ++ le 4 15 ++ le 4 1))) sBase = .next t := by
  refine ⟨_, h.2.2.1 _ _ ?_ ?_ ?_⟩ <;> decide +kernel

theorem meets_extRelease (h : Obligations.PartitionCommandsComplete) : ∃ t, exec (.extRelease (cmd 1 (le 4 0 ++ le 4 4))) sBase = .next t := by
  refine ⟨_, h.2.2.2.1 _ _ ?_ ?_ ?_⟩ <;> decide +kernel

theorem meets_extGrant (h : Obligations.PartitionCommandsComplete) : ∃ t, exec (.extGrant (cmd 1 (le 2 6 ++ [3, 0] ++ le 4 0 ++ le 4 4))) sBase = .next t := by
  refine ⟨_, h.2.2.2.2 _ _ ?_ ?_ ?_⟩ <;> decide +kernel

theorem meets_extRevoke (h : Obligations.RevokeAndPartitionQueriesComplete) : ∃ t, exec (.extRevoke (cmd 1 (le 2 5 ++ z 2 ++ le 4 1 ++ le 4 2))) sBase = .next t := by
  refine ⟨_, h.1 _ _ ?_ ?_ ?_⟩ <;> decide +kernel

theorem meets_extQuery (h : Obligations.RevokeAndPartitionQueriesComplete) : ∃ t, exec (.extQuery (cmd 1 (le 4 15 ++ z 4))) sBase = .next t := by
  refine ⟨_, h.2.1 _ _ ?_ ?_ ?_⟩ <;> decide +kernel

theorem meets_partQuery (h : Obligations.RevokeAndPartitionQueriesComplete) : ∃ t, exec (.partQuery (cmd 1 ([31] ++ z 7))) sBase = .next t := by
  refine ⟨_, h.2.2 _ _ ?_ ?_ ?_⟩ <;> decide +kernel

theorem meets_quotaSet (h : Obligations.PageCommandsComplete) : ∃ t, exec (.quotaSet (cmd 1 ([31, 3] ++ z 6 ++ le 8 (2 ^ 30 - 1)))) sBase = .next t := by
  refine ⟨_, h.1 _ _ ?_ ?_ ?_⟩ <;> decide +kernel

theorem meets_pagePin (h : Obligations.PageCommandsComplete) : ∃ t, exec (.pagePin (cmd 1 (le 8 65536 ++ le 2 4 ++ [1] ++ z 5))) sBase = .next t := by
  refine ⟨_, h.2.1 _ _ ?_ ?_ ?_⟩ <;> decide +kernel

theorem meets_pageQuery (h : Obligations.PageCommandsComplete) : ∃ t, exec (.pageQuery (cmd 1 (le 8 65536))) sBase = .next t := by
  refine ⟨_, h.2.2.1 _ _ ?_ ?_ ?_⟩ <;> decide +kernel

theorem meets_tierUsage (h : Obligations.PageCommandsComplete) : ∃ t, exec (.tierUsage (cmd 1 ([1] ++ z 7))) sBase = .next t := by
  refine ⟨_, h.2.2.2 _ _ ?_ ?_ ?_⟩ <;> decide +kernel

theorem meets_runStream (h : Obligations.StreamCommandsComplete) : ∃ t, exec (.runStream (cmd 1 ([1] ++ z 7 ++ le 8 64))) sRun = .next t := by
  refine ⟨_, h.1 _ _ ?_ ?_ ?_⟩ <;> decide +kernel

theorem meets_runStream_waits (h : Obligations.StreamCommandsComplete) :
    ∃ t, exec (.runStream (cmd 1 ([1] ++ z 7 ++ le 8 64))) sRunFar = .next t := by
  have w : waits (engReady noWrite [1] [] (fsBefore (cmd 1 ([1] ++ z 7 ++ le 8 64)) sRunFar)) = true := by decide +kernel
  cases e : engReady noWrite [1] [] (fsBefore (cmd 1 ([1] ++ z 7 ++ le 8 64)) sRunFar) with
  | wait o => refine ⟨_, h.2.1 (cmd 1 ([1] ++ z 7 ++ le 8 64)) sRunFar o ?_ ?_ ?_ ?_ e⟩ <;> decide +kernel
  | ready => rw [e] at w; cases w
  | bad n u => rw [e] at w; cases w

theorem meets_abortStream (h : Obligations.StreamCommandsComplete) : ∃ t, exec (.abortStream (cmd 1 (le 4 (2 ^ 27 + 1) ++ z 4))) sStream = .next t := by
  refine ⟨_, h.2.2.1 _ _ ?_ ?_ ?_⟩ <;> decide +kernel

theorem meets_queryStream (h : Obligations.StreamCommandsComplete) : ∃ t, exec (.queryStream (cmd 1 (le 4 (2 ^ 27 + 1) ++ z 4))) sStream = .next t := by
  refine ⟨_, h.2.2.2 _ _ ?_ ?_ ?_⟩ <;> decide +kernel

theorem meets_qnGroupQuery (h : Obligations.EngineCommandsComplete) : ∃ t, exec (.qnGroupQuery (cmd 1 (le 8 64))) sGroup = .next t := by
  refine ⟨_, h.1 _ _ ?_ ?_ ?_⟩ <;> decide +kernel

theorem meets_qnAbandonAll (h : Obligations.EngineCommandsComplete) : ∃ t, exec (.qnAbandonAll (cmd 1 ([1] ++ z 7))) sGroup = .next t := by
  refine ⟨_, h.2.1 _ _ ?_ ?_ ?_⟩ <;> decide +kernel

theorem meets_hsStepQuery (h : Obligations.EngineCommandsComplete) : ∃ t, exec (.hsStepQuery (cmd 1 (le 8 128))) sGroup = .next t := by
  refine ⟨_, h.2.2.1 _ _ ?_ ?_ ?_⟩ <;> decide +kernel

theorem meets_hsStepRelease (h : Obligations.EngineCommandsComplete) : ∃ t, exec (.hsStepRelease (cmd 1 (le 8 128))) sGroup = .next t := by
  refine ⟨_, h.2.2.2.1 _ _ ?_ ?_ ?_⟩ <;> decide +kernel

theorem meets_hsHotRefresh (h : Obligations.EngineCommandsComplete) : ∃ t, exec (.hsHotRefresh (cmd 1 ([15] ++ z 7))) sBase = .next t := by
  refine ⟨_, h.2.2.2.2.1 _ _ ?_ ?_ ?_⟩ <;> decide +kernel

theorem meets_blIndexQuery (h : Obligations.EngineCommandsComplete) : ∃ t, exec (.blIndexQuery (cmd 1 (le 8 256))) sBase = .next t := by
  refine ⟨_, h.2.2.2.2.2.1 _ _ ?_ ?_ ?_⟩ <;> decide +kernel

theorem meets_blMergeStop (h : Obligations.EngineCommandsComplete) : ∃ t, exec (.blMergeStop (cmd 1 (le 8 256))) sMerging = .next t := by
  refine ⟨_, h.2.2.2.2.2.2 _ _ _ [] rfl ?_ ?_ ?_⟩ <;> decide +kernel

theorem meets_setDefine (h : Obligations.SetCommandsComplete) : ∃ t, exec (.setDefine (cmd 1 (le 2 4 ++ [2, 2] ++ le 2 9 ++ z 2 ++ le 8 1 ++ le 2 9 ++ le 2 5 ++ List.replicate 28 0xFF))) sSlot = .next t := by
  refine ⟨_, h.1 _ _ ?_ ?_ ?_⟩ <;> decide +kernel

theorem meets_setQuery (h : Obligations.SetCommandsComplete) : ∃ t, exec (.setQuery (cmd 1 (le 2 4 ++ z 6))) sSlot = .next t := by
  refine ⟨_, h.2.1 _ _ ?_ ?_ ?_⟩ <;> decide +kernel

theorem meets_setRebuild (h : Obligations.SetCommandsComplete) : ∃ t, exec (.setRebuild (cmd 1 (le 2 4 ++ [1] ++ z 5))) sSet = .next t := by
  refine ⟨_, h.2.2.1 _ _ ?_ ?_ ?_⟩ <;> decide +kernel

theorem meets_livenessQuery (h : Obligations.SetCommandsComplete) : ∃ t, exec (.livenessQuery (cmd 1 (le 2 5 ++ z 6))) sBase = .next t := by
  refine ⟨_, h.2.2.2 _ _ ?_ ?_ ?_⟩ <;> decide +kernel

theorem meets_healthQuery (h : Obligations.HealthCommandsComplete) : ∃ t, exec (.healthQuery (cmd 1 ([0, 0] ++ le 2 15 ++ z 4))) sHealth = .next t := by
  refine ⟨_, h.1 _ _ ?_ ?_ ?_⟩ <;> decide +kernel

theorem meets_healthLogRead (h : Obligations.HealthCommandsComplete) : ∃ t, exec (.healthLogRead (cmd 1 (le 8 2 ++ le 2 1 ++ z 6))) sHealth = .next t := by
  refine ⟨_, h.2.1 _ _ ?_ ?_ ?_⟩ <;> decide +kernel

theorem meets_retire (h : Obligations.HealthCommandsComplete) : ∃ t, exec (.retire (cmd 1 ([0, 0] ++ le 2 15 ++ z 4))) sBase = .next t := by
  refine ⟨_, h.2.2.1 _ _ ?_ ?_ ?_⟩ <;> decide +kernel

theorem meets_fiInject (h : Obligations.HealthCommandsComplete) : ∃ t, exec (.fiInject (cmd 3 ([0, 0] ++ le 2 3 ++ le 2 1 ++ le 2 2 ++ le 4 1000000 ++ z 4))) sBase = .next t := by
  refine ⟨_, h.2.2.2.1 _ _ ?_ ?_ ?_⟩ <;> decide +kernel

theorem meets_fiStop (h : Obligations.HealthCommandsComplete) : ∃ t, exec (.fiStop (cmd 3 (le 4 (2 ^ 32 - 1) ++ z 4))) sBase = .next t := by
  refine ⟨_, h.2.2.2.2 _ _ ?_ ?_ ?_⟩ <;> decide +kernel

theorem meets_furl (h : Obligations.PowerCommandsComplete) : ∃ t, exec (.furl (cmd 1 [])) sBase = .next t := by
  refine ⟨_, h.1 _ _ ?_ ?_ ?_⟩ <;> decide +kernel

theorem meets_wake (h : Obligations.PowerCommandsComplete) : ∃ t, exec (.wake (cmd 1 []) 5) sFurl = .next t := by
  refine ⟨_, h.2.1 _ _ _ ?_ ?_ ?_⟩ <;> decide +kernel

theorem meets_restartPowerUp (h : Obligations.PowerCommandsComplete) : ∃ t, exec (.restartPowerUp (cmd 1 (z 8)) {}) sBase = .next t := by
  refine ⟨_, h.2.2.1 _ _ _ ?_ ?_ ?_⟩ <;> decide +kernel

theorem meets_restartDevice (h : Obligations.PowerCommandsComplete) : ∃ t, exec (.restartDevice (cmd 1 ([1] ++ z 7)) {}) sBase = .next t := by
  refine ⟨_, h.2.2.2 _ _ _ ?_ ?_ ?_⟩ <;> decide +kernel

theorem meets_imgStage (h : Obligations.ImageCommandsComplete) : ∃ t, exec (.imgStage (cmd 1 ([1] ++ z 7 ++ le 8 64 ++ le 4 8388608 ++ z 4))) sBase = .next t := by
  refine ⟨_, h.1 _ _ ?_ ?_ ?_⟩ <;> decide +kernel

theorem meets_imgWrite (h : Obligations.ImageCommandsComplete) : ∃ t, exec (.imgWrite (cmd 1 ([1, 0, 0, 0] ++ le 4 0 ++ le 2 8 ++ z 6 ++ z 8))) sBase = .next t := by
  refine ⟨_, h.2.1 _ _ ?_ ?_ ?_⟩ <;> decide +kernel

theorem meets_imgQuery (h : Obligations.ImageCommandsComplete) : ∃ t, exec (.imgQuery (cmd 1 ([1] ++ z 7))) sImage = .next t := by
  refine ⟨_, h.2.2.1 _ _ ?_ ?_ ?_⟩ <;> decide +kernel

theorem meets_imgActivate (h : Obligations.ImageCommandsComplete) : ∃ t, exec (.imgActivate (cmd 1 ([1] ++ z 7))) sImage = .next t := by
  refine ⟨_, h.2.2.2 _ _ ?_ ?_ ?_⟩ <;> decide +kernel

theorem meets_strapCommit (h : Obligations.StrapAndKeyCommandsComplete) : ∃ t, exec (.strapCommit (cmd 1 [])) sBase = .next t := by
  refine ⟨_, h.1 _ _ ?_ ?_ ?_⟩ <;> decide +kernel

theorem meets_keyEnroll (h : Obligations.StrapAndKeyCommandsComplete) : ∃ t, exec (.keyEnroll (cmd 1 ([63, 2, 0, 0] ++ le 4 2 ++ z 768))) sBase = .next t := by
  refine ⟨_, h.2.1 _ _ ?_ ?_ ?_⟩ <;> decide +kernel

theorem meets_keyRevoke (h : Obligations.StrapAndKeyCommandsComplete) : ∃ t, exec (.keyRevoke (cmd 1 ([63] ++ z 7))) sBase = .next t := by
  refine ⟨_, h.2.2 _ _ ?_ ?_ ?_⟩ <;> decide +kernel

theorem meets_mkScreen (h : Obligations.MakerCommandsComplete) : ∃ t, exec (.mkScreen (cmd 3 (z 8))) sNoPart = .next t := by
  refine ⟨_, h.1 _ _ ?_ ?_ ?_⟩ <;> decide +kernel

theorem meets_mkFuseRead (h : Obligations.MakerCommandsComplete) : ∃ t, exec (.mkFuseRead (cmd 3 [])) sBase = .next t := by
  refine ⟨_, h.2.1 _ _ ?_ ?_ ?_⟩ <;> decide +kernel

theorem meets_mkReturn (h : Obligations.MakerCommandsComplete) : ∃ t, exec (.mkReturn (cmd 3 [])) sBase = .next t := by
  refine ⟨_, h.2.2 _ _ ?_ ?_ ?_⟩ <;> decide +kernel

theorem meets_powerGoodRise (h : Obligations.ResetAndStartupComplete) : ∃ t, exec (.powerGoodRise {}) State.reset = .next t := by
  refine ⟨_, h.1 _ _ ?_⟩ <;> decide +kernel

theorem meets_powerGoodFall (h : Obligations.ResetAndStartupComplete) : ∃ t, exec (.powerGoodFall) sBase = .next t :=
  ((h.2.1) _ ).imp fun _ e => e.1

theorem meets_resetNFall (h : Obligations.ResetAndStartupComplete) : ∃ t, exec (.resetNFall) sBase = .next t := by
  refine (h.2.2.1 _ ?_ ?_ ?_).imp (fun _ e => e.1) <;> decide +kernel

theorem meets_resetNRise (h : Obligations.ResetAndStartupComplete) : ∃ t, exec (.resetNRise 1000 {}) sHeld = .next t := by
  refine ⟨_, h.2.2.2.1 _ _ _ ?_ ?_ ?_ ?_ ?_⟩ <;> decide +kernel

theorem meets_thermalTrip (h : Obligations.ResetAndStartupComplete) : ∃ t, exec (.thermalTrip) sBase = .next t := by
  refine (h.2.2.2.2.1 _ ?_).imp (fun _ e => e.1) <;> decide +kernel

theorem meets_enterService (h : Obligations.ResetAndStartupComplete) : ∃ t, exec (.enterService) sStarting = .next t :=
  let ⟨_, e⟩ := (h.2.2.2.2.2.1) sStarting (by decide +kernel) (by decide +kernel) (by decide +kernel) (by decide +kernel)
  ⟨_, e.1⟩

theorem meets_startHalt_media (h : Obligations.ResetAndStartupComplete) : ∃ t, exec (.startHalt) sNoNor = .next t := by
  refine ⟨_, h.2.2.2.2.2.2.1 _ 3 ?_ ?_ ?_⟩ <;> decide +kernel

theorem meets_startHalt_ddr (h : Obligations.ResetAndStartupComplete) : ∃ t, exec (.startHalt) sNoDdr = .next t := by
  refine ⟨_, h.2.2.2.2.2.2.2.1 _ 1 ?_ ?_ ?_⟩ <;> decide +kernel

theorem meets_startHalt_stacks (h : Obligations.ResetAndStartupComplete) : ∃ t, exec (.startHalt) sNoStacks = .next t := by
  refine ⟨_, h.2.2.2.2.2.2.2.1 _ 5 ?_ ?_ ?_⟩ <;> decide +kernel

theorem meets_tapInstructionUpdate (h : Obligations.ResetAndStartupComplete) : ∃ t, exec (.tapInstructionUpdate .trst) sBase = .next t := by
  refine ⟨_, h.2.2.2.2.2.2.2.2 _ _ ?_ ?_ ?_⟩ <;> decide +kernel

theorem meets_pllLockLoss (h : Obligations.IslandCommandsComplete) : ∃ t, exec (.pllLockLoss 63) sBase = .next t := by
  refine ⟨_, h.1 _ _ ?_ ?_⟩ <;> decide +kernel

theorem meets_islandRelock_ok (h : Obligations.IslandCommandsComplete) : ∃ t, exec (.islandRelock 16 true) sPll = .next t := by
  refine ⟨_, h.2.1 _ _ ?_ ?_⟩ <;> decide +kernel

theorem meets_islandRelock_fail (h : Obligations.IslandCommandsComplete) : ∃ t, exec (.islandRelock 16 false) sPll = .next t := by
  refine ⟨_, h.2.2.1 _ _ ?_ ?_⟩ <;> decide +kernel

theorem meets_islandRelock_last (h : Obligations.IslandCommandsComplete) : ∃ t, exec (.islandRelock 19 false) sPll = .next t := by
  refine ⟨_, h.2.2.2.1 _ _ ?_ ?_⟩ <;> decide +kernel

theorem meets_islandLockTimeout (h : Obligations.IslandCommandsComplete) : ∃ t, exec (.islandLockTimeout 17) sPll = .next t := by
  refine ⟨_, h.2.2.2.2.1 _ _ ?_⟩ <;> decide +kernel

theorem meets_rateStepPauseEnd (h : Obligations.IslandCommandsComplete) : ∃ t, exec (.rateStepPauseEnd 18) sPll = .next t := by
  refine ⟨_, h.2.2.2.2.2 _ 2 _ ?_ ?_⟩ <;> decide +kernel

theorem meets_bayBeatWindow (h : Obligations.ReadingsComplete) : ∃ t, exec (.bayBeatWindow 15 1940 70000) sBase = .next t := by
  refine ⟨_, h.1 _ _ _ _ ?_ ?_ ?_⟩ <;> decide +kernel

theorem meets_timestampCompare_near (h : Obligations.ReadingsComplete) : ∃ t, exec (.timestampCompare 10) sBase = .next t := by
  refine ⟨_, h.2.1 _ _ ?_ ?_ ?_ ?_⟩ <;> decide +kernel

theorem meets_timestampCompare_far (h : Obligations.ReadingsComplete) : ∃ t, exec (.timestampCompare (-11)) sBase = .next t := by
  refine ⟨_, h.2.2.1 _ _ ?_ ?_ ?_ ?_⟩ <;> decide +kernel

theorem meets_powerSample (h : Obligations.ReadingsComplete) : ∃ t, exec (.powerSample { currents := [], senseMv := [], temps := [] }) sBase = .next t :=
  let ⟨t, _, e⟩ := (h.2.2.2.1) _ _ (by decide +kernel)
  ⟨t, e.1⟩

theorem meets_avsReadTimeout (h : Obligations.ReadingsComplete) : ∃ t, exec (.avsReadTimeout 12 10001) sBase = .next t := by
  refine ⟨_, h.2.2.2.2 _ _ _ ?_ ?_⟩ <;> decide +kernel

theorem meets_decayEpoch (h : Obligations.SluiceCommandsComplete) : ∃ t, exec (.decayEpoch) sBase = .next t := by
  refine ⟨_, h.1 _ ?_ ?_⟩ <;> decide +kernel

theorem meets_heatSweep (h : Obligations.SluiceCommandsComplete) : ∃ t, exec (.heatSweep) sPages = .next t :=
  let ⟨t, _, e⟩ := (h.2.1) _ (by decide +kernel)
  ⟨t, e.1⟩

theorem meets_sluiceDemoteTrigger_t1 (h : Obligations.SluiceCommandsComplete) : ∃ t, exec (.sluiceDemoteTrigger (.t1 0)) sPages = .next t := by
  refine ⟨_, h.2.2.1 0 8 _ ?_ ?_ ?_ ?_⟩ <;> decide +kernel

theorem meets_sluiceDemoteTrigger_t2 (h : Obligations.SluiceCommandsComplete) : ∃ t, exec (.sluiceDemoteTrigger .t2) sPages = .next t := by
  refine ⟨_, h.2.2.2.1 _ _ ?_ ?_ rfl⟩ <;> decide +kernel

theorem meets_sluiceMoveStart (h : Obligations.SluiceCommandsComplete) : ∃ t, exec (.sluiceMoveStart 0) sQueued = .next t := by
  refine ⟨_, h.2.2.2.2.1 _ _ ((startFirst 0 (queuedFor sQueued 0 .evacuate) sQueued).get ?_) ?_ ?_ ?_ (Option.some_get _).symm⟩ <;> decide +kernel

theorem meets_moveSwitch (h : Obligations.SluiceCommandsComplete) : ∃ t, exec (.moveSwitch 1) sMoving = .next t := by
  have q : (finalPlace 1 { why := .evacuate, tier := 2, frame := 0 } sMoving).isSome = true := by decide +kernel
  obtain ⟨⟨m', u⟩, e⟩ := Option.isSome_iff_exists.1 q
  refine ⟨_, h.2.2.2.2.2.1 1 sMoving _ m' u ?_ ?_ ?_ ?_ ?_ e (.inr rfl)⟩ <;> decide +kernel

theorem meets_moveSwitch_again (h : Obligations.SluiceCommandsComplete) : ∃ t, exec (.moveSwitch 2) sMoving = .next t := by
  refine ⟨_, h.2.2.2.2.2.2.1 _ _ _ rfl ?_ ?_⟩ <;> decide +kernel

theorem meets_pageMapLineFill (h : Obligations.SluiceCommandsComplete) : ∃ t, exec (.pageMapLineFill 3 false) sBase = .next t := by
  refine ⟨_, h.2.2.2.2.2.2.2 _ _ ?_ ?_⟩ <;> decide +kernel

theorem meets_t3ReadDone (h : Obligations.MillpondCommandsComplete) : ∃ t, exec (.t3ReadDone rPond) sPond = .next t := by
  refine ⟨_, h.1 rPond sPond 0 1 _ ?_ ?_ ?_ ?_ ?_ ?_ ?_ ?_ (Option.some_get ?q).symm⟩ <;> decide +kernel

theorem meets_t3ReadDone_pausing (h : Obligations.MillpondCommandsComplete) : ∃ t, exec (.t3ReadDone rPond) sPondPause = .next t := by
  refine ⟨_, h.2.1 rPond sPondPause 0 1 ?_ ?_ ?_ ?_ ?_⟩ <;> decide +kernel

theorem meets_millpondGcStart (h : Obligations.MillpondCommandsComplete) : ∃ t, exec (.millpondGcStart 0) sPond = .next t := by
  refine ⟨_, h.2.2.1 0 1 sPond ?_ ?_ ?_ ?_⟩ <;> decide +kernel

theorem meets_millpondBlockErase (h : Obligations.MillpondCommandsComplete) : ∃ t, exec (.millpondBlockErase 0 2) sPond = .next t := by
  refine ⟨_, h.2.2.2.1 _ _ _ ?_ ?_ ?_ ?_ ?_ ?_ ?_⟩ <;> decide +kernel

theorem meets_millpondProgramDone_ok (h : Obligations.MillpondCommandsComplete) : ∃ t, exec (.millpondProgramDone 0 1 true) sPond = .next t := by
  refine ⟨_, h.2.2.2.2.1 _ _ _⟩ <;> decide +kernel

theorem meets_millpondProgramDone_bad (h : Obligations.MillpondCommandsComplete) : ∃ t, exec (.millpondProgramDone 0 1 false) sPond = .next t := by
  refine ⟨_, h.2.2.2.2.2.1 _ _ _ ?_ ?_⟩ <;> decide +kernel

theorem meets_millpondScanDone (h : Obligations.MillpondCommandsComplete) : ∃ t, exec (.millpondScanDone 3) sScan = .next t := by
  refine ⟨_, h.2.2.2.2.2.2 _ _ ?_ ?_⟩ <;> decide +kernel

theorem meets_ktFrameRx_dropped (h : Obligations.FrameRxComplete) : ∃ t, exec (.ktFrameRx { rxf with etype := 0x8808 }) sPeer = .next t := by
  refine ⟨_, h.1 _ _ 12 ?_ ?_ ?_ ?_⟩ <;> decide +kernel

theorem meets_ktFrameRx_misaddressed (h : Obligations.FrameRxComplete) : ∃ t, exec (.ktFrameRx { rxf with dstNode := 8 }) sPeer = .next t := by
  refine ⟨_, h.2.1 _ _ ?_ ?_⟩ <;> decide +kernel

theorem meets_ktFrameRx_full (h : Obligations.FrameRxComplete) : ∃ t, exec (.ktFrameRx { rxf with seq := 0x7FFFFFFF }) sPeer = .next t := by
  refine ⟨_, h.2.2.1 _ _ 5 ?_ ?_ ?_⟩ <;> decide +kernel

theorem meets_ktFrameRx_opens (h : Obligations.FrameRxComplete) : ∃ t, exec (.ktFrameRx { rxf with session := 0, seqd := false }) sPeer = .next t := by
  refine ⟨_, h.2.2.2.1 _ _ ?_ ?_ ?_⟩ <;> decide +kernel

theorem meets_ktFrameRx_duplicate (h : Obligations.FrameRxComplete) : ∃ t, exec (.ktFrameRx { rxf with seq := 4294967295 }) sPeer = .next t := by
  refine ⟨_, h.2.2.2.2.1 _ _ 5 ?_ ?_ ?_ ?_ ?_ ?_⟩ <;> decide +kernel

theorem meets_ktFrameRx (h : Obligations.FrameRxComplete) : ∃ t, exec (.ktFrameRx rxf) sPeer = .next t := by
  refine ⟨_, h.2.2.2.2.2.1 _ _ 5 ?_ ?_ ?_ ?_ ?_⟩ <;> decide +kernel

theorem meets_ktFrameRx_other (h : Obligations.FrameRxComplete) : ∃ t, exec (.ktFrameRx { rxf with etype := 0x0800 }) sPeer = .next t := by
  refine ⟨_, h.2.2.2.2.2.2 _ _ ?_⟩ <;> decide +kernel

theorem meets_ack (h : Obligations.TransportCommandsComplete) : ∃ t, exec (.ack { node := 5, ack := 0, rwnd := 4095, delayNs := 0, sacks := [] }) sPeer = .next t := by
  refine ⟨_, h.1 _ _ ?_⟩ <;> decide +kernel

theorem meets_nack (h : Obligations.TransportCommandsComplete) : ∃ t, exec (.nack 5 0 1) sPeer = .next t := by
  refine ⟨_, h.2.1 _ _ _ _ ?_ ?_⟩ <;> decide +kernel

theorem meets_probe (h : Obligations.TransportCommandsComplete) : ∃ t, exec (.probe 5 0 1 2) sPeer = .next t := by
  refine ⟨_, h.2.2.1 _ _ _ _ _ ?_⟩ <;> decide +kernel

theorem meets_probeReply (h : Obligations.TransportCommandsComplete) : ∃ t, exec (.probeReply 5 0 1 2) sProbing = .next t := by
  refine (h.2.2.2.1 _ _ _ _ _ ?_ ?_ ?_ ?_ ?_ ?_).imp (fun _ e => e.1) <;> decide +kernel

theorem meets_ackTimer (h : Obligations.TransportCommandsComplete) : ∃ t, exec (.ackTimer 5) sHeldFrame = .next t := by
  refine ⟨_, h.2.2.2.2.1 _ (0, 0) [] _ ?_ ?_ ?_⟩ <;> decide +kernel

theorem meets_rtoExpiry (h : Obligations.TransportCommandsComplete) : ∃ t, exec (.rtoExpiry 5) sHeldFrame = .next t := by
  refine ⟨_, h.2.2.2.2.2.1 _ _ _ rfl ?_ ?_ ?_⟩ <;> decide +kernel

theorem meets_rtoExpiry_switch (h : Obligations.TransportCommandsComplete) : ∃ t, exec (.rtoExpiry 5) sLastTry = .next t := by
  refine ⟨_, h.2.2.2.2.2.2.1 _ _ _ rfl ?_ ?_ ?_⟩ <;> decide +kernel

theorem meets_probeTimer (h : Obligations.TransportCommandsComplete) : ∃ t, exec (.probeTimer 5) sAway = .next t := by
  refine ⟨_, h.2.2.2.2.2.2.2.1 _ _ ?_ ?_ ?_ ?_ ?_⟩ <;> decide +kernel

theorem meets_linkDown (h : Obligations.TransportCommandsComplete) : ∃ t, exec (.linkDown 0) sPeer = .next t := by
  refine ⟨_, h.2.2.2.2.2.2.2.2.1 _ _ ?_⟩ <;> decide +kernel

theorem meets_linkReformDone_up (h : Obligations.TransportCommandsComplete) : ∃ t, exec (.linkReformDone 4 true) sPeer = .next t := by
  refine (h.2.2.2.2.2.2.2.2.2.1 _ _ 0 8 ?_ ?_).imp (fun _ e => e.1) <;> decide +kernel

theorem meets_linkReformDone_down (h : Obligations.TransportCommandsComplete) : ∃ t, exec (.linkReformDone 4 false) sPeer = .next t := by
  refine (h.2.2.2.2.2.2.2.2.2.2 _ _ ?_).imp (fun _ e => e.1) <;> decide +kernel

theorem meets_sessionOpen (h : Obligations.SessionCommandsComplete) : ∃ t, exec (.sessionOpen (sess 6)) sPeer = .next t := by
  refine ⟨_, h.1 _ _ ?_ ?_ ?_ ?_ ?_⟩ <;> decide +kernel

/-- The RSA checks are uninterpreted functions of `Config`: whichever way they go, one of the two forms applies. -/
theorem meets_sessionOpenDone (h : Obligations.SessionCommandsComplete) : ∃ t, exec (.sessionOpenDone 6) sOpening = .next t := by
  have e := h.2.1 6 (sess 6) sOpening (by decide +kernel)
  cases k : sessionOk sOpening (sess 6) (openBody (sess 6).seq0.toNat (sess 6).nonce (certBody (sess 6) ++ padTo 384 (sess 6).certSig) (sess 6).ehalf) with
  | false => exact ⟨_, e.2 k⟩
  | true => exact ⟨_, e.1 k (by decide +kernel) (by decide +kernel)⟩

theorem oldest_same (n : Nat) (p : Nat × Ctx) : oldestCtx (p :: List.replicate n p) = some p.1 := by
  have : ∀ n, (List.replicate n p).foldl (fun (r : Option (Nat × Ctx)) p => match r with
      | none => some p
      | some q => if max p.2.lastHeard p.2.lastSent < max q.2.lastHeard q.2.lastSent then some p else r) (some p) = some p := by
    intro n
    induction n with
    | zero => rfl
    | succ n ih => simpa [List.replicate_succ] using ih
  exact congrArg (Option.map Prod.fst) (this n)

theorem full_count (n : Nat) : ctxCount (sFull n) = n := by
  show ((List.replicate n (10, ({ live := true, session := 1 } : Ctx))).filter fun p => p.2.live).length = n
  simp

theorem full_closable (n : Nat) : closable (sFull n) = List.replicate n (10, ({ live := true, session := 1 } : Ctx)) := by
  have e : elapsed (sFull n) 0 100000000 = true := show elapsed sOpening 0 100000000 = true by decide +kernel
  exact List.filter_eq_self.2 fun p hp => by rw [List.eq_of_mem_replicate hp]; simpa using e

/-- Every context is in use and idle; the premise is the outcome of the RSA checks. -/
theorem meets_sessionOpenDone_full (h : Obligations.SessionCommandsComplete)
    (ok : sessionOk (sFull 16384) (sess 6) (openBody (sess 6).seq0.toNat (sess 6).nonce (certBody (sess 6) ++ padTo 384 (sess 6).certSig) (sess 6).ehalf) = true) :
    ∃ t, exec (.sessionOpenDone 6) (sFull 16384) = .next t := by
  have f : ∀ n, (sFull n).kt.opens = [sess 6] := fun _ => rfl
  have g : ∀ n, (ctx (sFull (n + 1)) 6).live = false := fun n => by
    have k : ∀ n, kget ({} : Ctx) (List.replicate n (10, ({ live := true, session := 1 } : Ctx))) 6 = {} := fun n => by
      induction n with
      | zero => rfl
      | succ n ih => exact ih
    exact congrArg Ctx.live (k (n + 1))
  refine ⟨_, h.2.2.1 6 (sess 6) 10 (sFull 16384) (by rw [f]; decide +kernel) ok (g 16383) (full_count _).ge ?_ ?_⟩
  · intro p hp
    rw [List.eq_of_mem_replicate hp]
    decide
  · rw [full_closable]
    exact oldest_same 16383 _

theorem meets_sessionAccept (h : Obligations.SessionCommandsComplete) : ∃ t, exec (.sessionAccept (sess 6)) sOpening = .next t := by
  refine ⟨_, h.2.2.2.1 _ _ ?_ ?_ ?_ ?_⟩ <;> decide +kernel

theorem meets_sessionOpenResend (h : Obligations.SessionCommandsComplete) : ∃ t, exec (.sessionOpenResend 6) sOpening = .next t := by
  refine ⟨_, h.2.2.2.2.1 _ _ ?_ ?_ ?_ ?_ ?_⟩ <;> decide +kernel

theorem meets_sessionOpenResend_waiting (h : Obligations.SessionCommandsComplete) : ∃ t, exec (.sessionOpenResend 6) sOpenWait = .next t := by
  refine ⟨_, h.2.2.2.2.2.1 _ _ ?_ ?_ ?_ ?_ ?_⟩ <;> decide +kernel

theorem meets_sessionClose (h : Obligations.SessionCommandsComplete) : ∃ t, exec (.sessionClose 5 0) sPeer = .next t := by
  refine ⟨_, h.2.2.2.2.2.2.1 _ _ _ ?_⟩ <;> decide +kernel

theorem meets_sessionIdleClose (h : Obligations.SessionCommandsComplete) : ∃ t, exec (.sessionIdleClose 5) sIdle = .next t := by
  refine ⟨_, h.2.2.2.2.2.2.2.1 _ _ ?_ ?_ ?_ ?_ ?_ ?_ ?_⟩ <;> decide +kernel

theorem meets_cacherFlushTimeout (h : Obligations.SessionCommandsComplete) : ∃ t, exec (.cacherFlushTimeout 5) sFlushing = .next t := by
  refine ⟨_, h.2.2.2.2.2.2.2.2.1 _ 0 _ ?_ ?_ ?_⟩ <;> decide +kernel

theorem meets_saRekey_rx (h : Obligations.SessionCommandsComplete) : ∃ t, exec (.saRekey 5 ⟨0, true⟩) (setCtx 5 (fun c => { c with rx := [(0, { sa := 1, prevUntil := some 5 })] }) sPeer) = .next t := by
  refine ⟨_, h.2.2.2.2.2.2.2.2.2.1 _ _ 5 _ ?_ ?_ ?_⟩ <;> decide +kernel

theorem meets_saRekey_tx (h : Obligations.SessionCommandsComplete) : ∃ t, exec (.saRekey 5 ⟨0, false⟩) sIdle = .next t := by
  refine ⟨_, h.2.2.2.2.2.2.2.2.2.2 _ _ _ ?_ ?_ ?_⟩ <;> decide +kernel

theorem meets_requestDeadline (h : Obligations.OwnRequestEventsComplete) : ∃ t, exec (.requestDeadline 5 1) sOwn = .next t := by
  refine ⟨_, h.1 _ _ _ _ rfl ?_ ?_ ?_⟩ <;> decide +kernel

theorem meets_retryBackoff (h : Obligations.OwnRequestEventsComplete) : ∃ t, exec (.retryBackoff 5 2) sOwn = .next t :=
  ⟨_, (h.2.1) _ _ _ _ _ _ _ _ _ _ _ rfl rfl⟩

theorem meets_setForwardResponse (h : Obligations.OwnRequestEventsComplete) : ∃ t, exec (.setForwardResponse 5 1 0 { op := 0x10 }) sOwn = .next t := by
  refine ⟨_, h.2.2.1 _ _ _ (own 1 false) _ _ _ 1 false 0 0 0 [] _ ?_ ?_ ?_ ?_ ?_⟩ <;> decide +kernel

theorem meets_setForwardResponse_interim (h : Obligations.OwnRequestEventsComplete) : ∃ t, exec (.setForwardResponse 5 1 0 { op := 0x10, interim := true }) sOwn = .next t := by
  refine ⟨_, h.2.2.2.1 _ _ _ (own 1 false) _ _ _ ?_ ?_ ?_⟩ <;> decide +kernel

theorem meets_setForwardResponse_retry (h : Obligations.OwnRequestEventsComplete) : ∃ t, exec (.setForwardResponse 5 1 sRETRY { op := 0x10 }) sOwn = .next t := by
  refine ⟨_, h.2.2.2.2.1 _ _ _ (own 1 false) _ _ ?_ ?_ ?_⟩ <;> decide +kernel

theorem meets_liveBoundExpiry (h : Obligations.OwnRequestEventsComplete) : ∃ t, exec (.liveBoundExpiry 5) sSilent = .next t := by
  refine ⟨_, h.2.2.2.2.2 _ _ ?_ ?_ ?_⟩ <;> decide +kernel

theorem meets_load (h : Obligations.LoadCommandsComplete) : ∃ t, exec (.load (rec 8 60 3 []) {}) sData = .next t := by
  refine ⟨_, h.1 _ _ _ 0 ?_ ?_ ?_ ?_ ?_⟩ <;> decide +kernel

theorem meets_loadLines (h : Obligations.LoadCommandsComplete) : ∃ t, exec (.loadLines (rec 8 0 63 [])) sData = .next t := by
  refine ⟨_, h.2 _ _ 0 0 (List.range' 1 63) ?_ ?_ ?_ ?_ ?_ ?_⟩ <;> decide +kernel

theorem meets_loadLines_last (h : Obligations.LoadCommandsComplete) : ∃ t, exec (.loadLines (rec 8 0 2 [])) sData = .next t := by
  refine ⟨_, h.2 _ _ 2 2 [] ?_ ?_ ?_ ?_ ?_ ?_⟩ <;> decide +kernel

theorem meets_msgAppend (h : Obligations.MessageCommandsComplete) : ∃ t, exec (.msgAppend (rec 64 64 0 (le 4 8 ++ z 12))) sRing = .next t := by
  refine ⟨_, h.1 (rec 64 64 0 (le 4 8 ++ z 12)) sRing 0 ?_ ?_ ?_ ?_ ?_ ?_ ?_ ?_⟩ <;> decide +kernel

theorem meets_msgTake_empty (h : Obligations.MessageCommandsComplete) : ∃ t, exec (.msgTake (rec 64 128 0 [])) sRing = .next t := by
  refine ⟨_, h.2.1 (rec 64 128 0 []) sRing 0 ?_ ?_ ?_⟩ <;> decide +kernel

theorem meets_msgTake (h : Obligations.MessageCommandsComplete) : ∃ t, exec (.msgTake (rec 64 192 0 [])) sRing = .next t := by
  refine ⟨_, h.2.2 (rec 64 192 0 []) sRing 0 ?_ ?_ ?_ ?_ ?_ ?_ ?_ ?_ ?_ ?_ ?_ ?_ ?_⟩ <;> decide +kernel

theorem meets_combineDrainTimer (h : Obligations.TransactionTimersComplete) : ∃ t, exec (.combineDrainTimer 1) sComb = .next t := by
  refine ⟨_, h.1 _ _ ?_ ?_⟩ <;> decide +kernel

theorem meets_homeDeadline (h : Obligations.TransactionTimersComplete) : ∃ t, exec (.homeDeadline 5 3) sWaiting = .next t := by
  refine ⟨_, h.2.1 _ _ _ _ rfl ?_⟩ <;> decide +kernel

theorem meets_weirWindow (h : Obligations.TransactionTimersComplete) : ∃ t, exec (.weirWindow 1 2 3 4) sBase = .next t := by
  refine ⟨_, h.2.2 _ _ _ _ _ ?_ ?_⟩ <;> decide +kernel

theorem meets_snpInvResponse (h : Obligations.SnoopEventsComplete) : ∃ t, exec (.snpInvResponse { node := 5, tag := 1, dirty := true, hadCopy := true, data := z 64 }) sSnoop = .next t :=
  ⟨_, (h.1) _ _ _ rfl⟩

theorem meets_snpDownResponse (h : Obligations.SnoopEventsComplete) : ∃ t, exec (.snpDownResponse { node := 5, tag := 2, dirty := false, hadCopy := true }) sSnoop = .next t :=
  ⟨_, (h.2.1) _ _ _ rfl⟩

theorem meets_raceInvReturn (h : Obligations.SnoopEventsComplete) : ∃ t, exec (.raceInvReturn 3) sSnoop = .next t := by
  refine ⟨_, h.2.2.1 _ _ ?_⟩ <;> decide +kernel

theorem meets_snoopLimitExpiry (h : Obligations.SnoopEventsComplete) : ∃ t, exec (.snoopLimitExpiry 1) sSnoop = .next t := by
  refine ⟨_, h.2.2.2.1 1 sSnoop ?_ ?_ ?_ ?_ ?_⟩ <;> decide +kernel

theorem meets_snoopLimitExpiry_revoked (h : Obligations.SnoopEventsComplete) : ∃ t, exec (.snoopLimitExpiry 4) sSnoop = .next t := by
  refine ⟨_, h.2.2.2.2.1 4 sSnoop ?_ ?_ ?_ ?_ ?_ ?_⟩ <;> decide +kernel

theorem meets_snpFlushBayResponse (h : Obligations.SnoopEventsComplete) : ∃ t, exec (.snpFlushBayResponse 5 9) sSnoop = .next t := by
  refine ⟨_, h.2.2.2.2.2.1 5 9 sSnoop 2 [(5, 9)] ?_ ?_⟩ <;> decide +kernel

theorem meets_sliceFlushTimeout (h : Obligations.SnoopEventsComplete) : ∃ t, exec (.sliceFlushTimeout 2) sSnoop = .next t := by
  refine ⟨_, h.2.2.2.2.2.2 _ _ ?_ ?_⟩ <;> decide +kernel

theorem meets_streamSchedule (h : Obligations.SchedulerComplete) : ∃ t, exec (.streamSchedule) sReady = .next t := by
  refine ⟨_, h.1 sReady 1 (2 ^ 27 + 1) ?_ ?_ ?_ ?_ ?_ ?_⟩ <;> decide +kernel

theorem meets_sliceUsExpiry (h : Obligations.SchedulerComplete) : ∃ t, exec (.sliceUsExpiry) sTwo = .next t := by
  refine ⟨_, h.2.1 sTwo (2 ^ 27 + 1) 2 ?_ ?_ ?_ ?_ ?_ ?_ ?_⟩ <;> decide +kernel

theorem meets_operationBoundary (h : Obligations.SchedulerComplete) : ∃ t, exec (.operationBoundary) sSusp = .next t := by
  refine ⟨_, h.2.2.1 _ (2 ^ 27 + 1) ?_ ?_ ?_⟩ <;> decide +kernel

theorem meets_maxMsExpiry (h : Obligations.SchedulerComplete) : ∃ t, exec (.maxMsExpiry) sOld = .next t := by
  refine ⟨_, h.2.2.2.1 _ (2 ^ 27 + 1) ?_ ?_⟩ <;> decide +kernel

theorem meets_streamWordFetch (h : Obligations.SchedulerComplete) : ∃ t, exec (.streamWordFetch 2) sStream = .next t := by
  refine ⟨_, h.2.2.2.2 _ (2 ^ 27 + 1) _ ?_ ?_ ?_ ?_ ?_ ?_ ?_ ?_ ?_⟩ <;> decide +kernel

theorem meets_store (h : Obligations.WriteCommandsComplete) : ∃ t, exec (.store (rec 8 63 0 (z 1))) sData = .next t := by
  refine ⟨_, h.1 Instr.store 0x10 (rec 8 63 0 (z 1)) sData 0 (by simp [lineWrites]) ?_ ?_ ?_⟩ <;> decide +kernel

theorem meets_storeMasked (h : Obligations.WriteCommandsComplete) : ∃ t, exec (.storeMasked (rec 8 64 0 (z 72))) sData = .next t := by
  refine ⟨_, h.1 Instr.storeMasked 0x11 (rec 8 64 0 (z 72)) sData 0 (by simp [lineWrites]) ?_ ?_ ?_⟩ <;> decide +kernel

theorem meets_storeFlag (h : Obligations.WriteCommandsComplete) : ∃ t, exec (.storeFlag (rec 8 56 7 (z 8))) sData = .next t := by
  refine ⟨_, h.1 Instr.storeFlag 0x13 (rec 8 56 7 (z 8)) sData 0 (by simp [lineWrites]) ?_ ?_ ?_⟩ <;> decide +kernel

theorem meets_atomicAdd (h : Obligations.WriteCommandsComplete) : ∃ t, exec (.atomicAdd (rec 8 60 0 (z 8))) sData = .next t := by
  refine ⟨_, h.1 Instr.atomicAdd 0x20 (rec 8 60 0 (z 8)) sData 0 (by simp [lineWrites]) ?_ ?_ ?_⟩ <;> decide +kernel

theorem meets_atomicFadd (h : Obligations.WriteCommandsComplete) : ∃ t, exec (.atomicFadd (rec 8 56 1 (z 8))) sData = .next t := by
  refine ⟨_, h.1 Instr.atomicFadd 0x21 (rec 8 56 1 (z 8)) sData 0 (by simp [lineWrites]) ?_ ?_ ?_⟩ <;> decide +kernel

theorem meets_atomicAnd (h : Obligations.WriteCommandsComplete) : ∃ t, exec (.atomicAnd (rec 8 0 0 (z 8))) sData = .next t := by
  refine ⟨_, h.1 Instr.atomicAnd 0x22 (rec 8 0 0 (z 8)) sData 0 (by simp [lineWrites]) ?_ ?_ ?_⟩ <;> decide +kernel

theorem meets_atomicOr (h : Obligations.WriteCommandsComplete) : ∃ t, exec (.atomicOr (rec 8 0 0 (z 8))) sData = .next t := by
  refine ⟨_, h.1 Instr.atomicOr 0x23 (rec 8 0 0 (z 8)) sData 0 (by simp [lineWrites]) ?_ ?_ ?_⟩ <;> decide +kernel

theorem meets_atomicXor (h : Obligations.WriteCommandsComplete) : ∃ t, exec (.atomicXor (rec 8 0 0 (z 8))) sData = .next t := by
  refine ⟨_, h.1 Instr.atomicXor 0x24 (rec 8 0 0 (z 8)) sData 0 (by simp [lineWrites]) ?_ ?_ ?_⟩ <;> decide +kernel

theorem meets_atomicSmin (h : Obligations.WriteCommandsComplete) : ∃ t, exec (.atomicSmin (rec 8 0 1 (z 8))) sData = .next t := by
  refine ⟨_, h.1 Instr.atomicSmin 0x25 (rec 8 0 1 (z 8)) sData 0 (by simp [lineWrites]) ?_ ?_ ?_⟩ <;> decide +kernel

theorem meets_atomicSmax (h : Obligations.WriteCommandsComplete) : ∃ t, exec (.atomicSmax (rec 8 0 1 (z 8))) sData = .next t := by
  refine ⟨_, h.1 Instr.atomicSmax 0x26 (rec 8 0 1 (z 8)) sData 0 (by simp [lineWrites]) ?_ ?_ ?_⟩ <;> decide +kernel

theorem meets_atomicUmin (h : Obligations.WriteCommandsComplete) : ∃ t, exec (.atomicUmin (rec 8 0 1 (z 8))) sData = .next t := by
  refine ⟨_, h.1 Instr.atomicUmin 0x27 (rec 8 0 1 (z 8)) sData 0 (by simp [lineWrites]) ?_ ?_ ?_⟩ <;> decide +kernel

theorem meets_atomicUmax (h : Obligations.WriteCommandsComplete) : ∃ t, exec (.atomicUmax (rec 8 0 1 (z 8))) sData = .next t := by
  refine ⟨_, h.1 Instr.atomicUmax 0x28 (rec 8 0 1 (z 8)) sData 0 (by simp [lineWrites]) ?_ ?_ ?_⟩ <;> decide +kernel

theorem meets_atomicSwap (h : Obligations.WriteCommandsComplete) : ∃ t, exec (.atomicSwap (rec 8 8 1 (z 8))) sData = .next t := by
  refine ⟨_, h.1 Instr.atomicSwap 0x29 (rec 8 8 1 (z 8)) sData 0 (by simp [lineWrites]) ?_ ?_ ?_⟩ <;> decide +kernel

theorem meets_atomicCas (h : Obligations.WriteCommandsComplete) : ∃ t, exec (.atomicCas (rec 8 48 2 (z 32))) sData = .next t := by
  refine ⟨_, h.1 Instr.atomicCas 0x2A (rec 8 48 2 (z 32)) sData 0 (by simp [lineWrites]) ?_ ?_ ?_⟩ <;> decide +kernel

theorem meets_publish (h : Obligations.WriteCommandsComplete) : ∃ t, exec (.publish (rec 8 64 0 (z 64))) sData = .next t := by
  refine ⟨_, h.1 Instr.publish 0x40 (rec 8 64 0 (z 64)) sData 0 (by simp [lineWrites]) ?_ ?_ ?_⟩ <;> decide +kernel

theorem meets_storeLines (h : Obligations.WriteCommandsComplete) : ∃ t, exec (.storeLines (rec 8 0 15 (z 1024))) sData = .next t := by
  refine ⟨_, h.2.1 _ _ 0 0 (List.range' 1 15) ?_ ?_ ?_ ?_⟩ <;> decide +kernel

theorem meets_storeLines_last (h : Obligations.WriteCommandsComplete) : ∃ t, exec (.storeLines (rec 8 0 2 (z 192))) sData = .next t := by
  refine ⟨_, h.2.1 _ _ 2 2 [] ?_ ?_ ?_ ?_⟩ <;> decide +kernel

theorem meets_atomic_folds (h : Obligations.WriteCommandsComplete) : ∃ t, exec (.atomicAdd (rec 8 60 128 (z 8))) sData = .next t := by
  refine ⟨_, h.2.2 Instr.atomicAdd 0x20 (rec 8 60 128 (z 8)) sData (by simp [lineWrites]) ?_ ?_ ?_ ?_ ?_ ?_⟩ <;> decide +kernel

theorem meets_rdShared (h : Obligations.CoherenceRequestsComplete) : ∃ t, exec (.rdShared (rec 8 64 0 [])) sData = .next t := by
  refine ⟨_, h.1 Instr.rdShared 0x50 (rec 8 64 0 []) sData 0 (by simp) ?_ ?_ ?_ ?_ ?_ ?_ ?_ ?_ ?_ ?_ ?_⟩ <;> decide +kernel

theorem meets_rdOwn (h : Obligations.CoherenceRequestsComplete) : ∃ t, exec (.rdOwn (rec 8 64 0 [])) sData = .next t := by
  refine ⟨_, h.1 Instr.rdOwn 0x51 (rec 8 64 0 []) sData 0 (by simp) ?_ ?_ ?_ ?_ ?_ ?_ ?_ ?_ ?_ ?_ ?_⟩ <;> decide +kernel

theorem meets_upgrade (h : Obligations.CoherenceRequestsComplete) : ∃ t, exec (.upgrade (rec 8 64 0 [])) sData = .next t := by
  refine ⟨_, h.1 Instr.upgrade 0x52 (rec 8 64 0 []) sData 0 (by simp) ?_ ?_ ?_ ?_ ?_ ?_ ?_ ?_ ?_ ?_ ?_⟩ <;> decide +kernel

theorem meets_rdShared_poisoned (h : Obligations.CoherenceRequestsComplete) : ∃ t, exec (.rdShared (rec 8 64 0 [])) (poisonLine 1 none false sData) = .next t := by
  refine ⟨_, h.2.1 Instr.rdShared 0x50 (rec 8 64 0 []) (poisonLine 1 none false sData) 0 (by simp) ?_ ?_ ?_ ?_⟩ <;> decide +kernel

theorem meets_evictClean (h : Obligations.CoherenceRequestsComplete) : ∃ t, exec (.evictClean (rec 8 64 0 [])) sOwned = .next t := by
  refine ⟨_, h.2.2.1 _ _ 0 ?_ ?_ ?_ ?_ ?_⟩ <;> decide +kernel

theorem meets_wbDirty (h : Obligations.CoherenceRequestsComplete) : ∃ t, exec (.wbDirty (rec 8 64 1 (z 64))) sOwned = .next t := by
  refine ⟨_, h.2.2.2.1 _ _ ?_⟩ <;> decide +kernel

theorem meets_grantAck (h : Obligations.CoherenceRequestsComplete) : ∃ t, exec (.grantAck (rec 8 128 0 [])) sOwned = .next t := by
  refine ⟨_, h.2.2.2.2.1 _ _ ?_ ?_ ?_ ?_ ?_ ?_ ?_⟩ <;> decide +kernel

theorem meets_grantAck_routed (h : Obligations.CoherenceRequestsComplete) : ∃ t, exec (.grantAck { rec 8 128 0 [] with routed := true }) sOwned = .next t := by
  refine ⟨_, h.2.2.2.2.2 _ _ ?_ ?_⟩ <;> decide +kernel

theorem meets_nop (h : Obligations.ScalarWordsComplete) : ∃ t, exec (.nop) (sHead (0)) = .next t := by
  refine ⟨_, h.1 0x00 _ _ (.head _) (2 ^ 27 + 1) (0) (sHead (0)) ?_ ?_⟩ <;> decide +kernel

theorem meets_halt (h : Obligations.ScalarWordsComplete) : ∃ t, exec (.halt) (sHead (1)) = .next t := by
  refine ⟨_, h.1 0x01 _ _ (.tail _ (.head _)) (2 ^ 27 + 1) (1) (sHead (1)) ?_ ?_⟩ <;> decide +kernel

theorem meets_li (h : Obligations.ScalarWordsComplete) : ∃ t, exec (.li) (sHead (2 + 3 * 2 ^ 32 + 7 * 2 ^ 192)) = .next t := by
  refine ⟨_, h.1 0x02 _ _ (.tail _ (.tail _ (.head _))) (2 ^ 27 + 1) (2 + 3 * 2 ^ 32 + 7 * 2 ^ 192) (sHead (2 + 3 * 2 ^ 32 + 7 * 2 ^ 192)) ?_ ?_⟩ <;> decide +kernel

theorem meets_alu (h : Obligations.ScalarWordsComplete) : ∃ t, exec (.alu) (sHead (3 + 12 * 2 ^ 47)) = .next t := by
  refine ⟨_, h.1 0x03 _ _ (.tail _ (.tail _ (.tail _ (.head _)))) (2 ^ 27 + 1) (3 + 12 * 2 ^ 47) (sHead (3 + 12 * 2 ^ 47)) ?_ ?_⟩ <;> decide +kernel

theorem meets_waitAll (h : Obligations.ScalarWordsComplete) : ∃ t, exec (.waitAll) (sHead (0x40)) = .next t := by
  refine ⟨_, h.1 0x40 _ _ (.tail _ (.tail _ (.tail _ (.tail _ (.head _))))) (2 ^ 27 + 1) (0x40) (sHead (0x40)) ?_ ?_⟩ <;> decide +kernel

theorem meets_waitMulti (h : Obligations.ScalarWordsComplete) : ∃ t, exec (.waitMulti) (sHead (0x41 + 2 ^ 47)) = .next t := by
  refine ⟨_, h.1 0x41 _ _ (.tail _ (.tail _ (.tail _ (.tail _ (.tail _ (.head _)))))) (2 ^ 27 + 1) (0x41 + 2 ^ 47) (sHead (0x41 + 2 ^ 47)) ?_ ?_⟩ <;> decide +kernel

theorem meets_tokenSet (h : Obligations.ScalarWordsComplete) : ∃ t, exec (.tokenSet) (sHead (0x42 + 5 * 2 ^ 52 + 2 ^ 255)) = .next t := by
  refine ⟨_, h.1 0x42 _ _ (.tail _ (.tail _ (.tail _ (.tail _ (.tail _ (.tail _ (.head _))))))) (2 ^ 27 + 1) (0x42 + 5 * 2 ^ 52 + 2 ^ 255) (sHead (0x42 + 5 * 2 ^ 52 + 2 ^ 255)) ?_ ?_⟩ <;> decide +kernel

theorem meets_br (h : Obligations.ScalarWordsComplete) : ∃ t, exec (.br) (sHead (4)) = .next t := by
  refine ⟨_, h.2.1 (2 ^ 27 + 1) (4) (sHead (4)) ?_ ?_⟩ <;> decide +kernel

theorem meets_loop (h : Obligations.ScalarWordsComplete) : ∃ t, exec (.loop) (sHead (5 + 3 * 2 ^ 32)) = .next t := by
  refine ⟨_, h.2.2 (2 ^ 27 + 1) (5 + 3 * 2 ^ 32) (sHead (5 + 3 * 2 ^ 32)) ?_ ?_⟩ <;> decide +kernel

theorem meets_ld (h : Obligations.RequestWordsComplete) : ∃ t, exec (.ld) (sHead (6 + 3 * 2 ^ 32)) = .next t := by
  refine ⟨_, h.1 (2 ^ 27 + 1) (6 + 3 * 2 ^ 32) (sHead (6 + 3 * 2 ^ 32)) ?_ ?_ ?_⟩ <;> decide +kernel

theorem meets_st (h : Obligations.RequestWordsComplete) : ∃ t, exec (.st) (sHead (7)) = .next t := by
  refine ⟨_, h.2.1 (2 ^ 27 + 1) (7) (sHead (7)) ?_ ?_ ?_ ?_⟩ <;> decide +kernel

theorem meets_notifyWord (h : Obligations.RequestWordsComplete) : ∃ t, exec (.notifyWord) (sHead (0x43)) = .next t := by
  refine ⟨_, h.2.2 0x43 _ (by simp) (2 ^ 27 + 1) (0x43) (sHead (0x43)) ?_ ?_ ?_ ?_⟩ <;> decide +kernel

theorem meets_call (h : Obligations.RequestWordsComplete) : ∃ t, exec (.call) (sHead (0x50 + 0x60 * 2 ^ 68)) = .next t := by
  refine ⟨_, h.2.2 0x50 _ (by simp) (2 ^ 27 + 1) (0x50 + 0x60 * 2 ^ 68) (sHead (0x50 + 0x60 * 2 ^ 68)) ?_ ?_ ?_ ?_⟩ <;> decide +kernel

theorem meets_mm (h : Obligations.EngineWordsComplete) : ∃ t, exec (.mm) (sHead (mmW)) = .next t := by
  refine ⟨_, h.1 (2 ^ 27 + 1) (mmW) (sHead (mmW)) ?_ ?_ ?_⟩ <;> decide +kernel

theorem meets_vecAdd (h : Obligations.EngineWordsComplete) : ∃ t, exec (.vecAdd) (sHead (vecW 0x20 9)) = .next t := by
  refine ⟨_, h.2.1 0x20 _ (by simp [vectorWords]) (2 ^ 27 + 1) (vecW 0x20 9) (sHead (vecW 0x20 9)) ?_ ?_⟩ <;> decide +kernel

theorem meets_vecSub (h : Obligations.EngineWordsComplete) : ∃ t, exec (.vecSub) (sHead (vecW 0x21 9)) = .next t := by
  refine ⟨_, h.2.1 0x21 _ (by simp [vectorWords]) (2 ^ 27 + 1) (vecW 0x21 9) (sHead (vecW 0x21 9)) ?_ ?_⟩ <;> decide +kernel

theorem meets_vecMul (h : Obligations.EngineWordsComplete) : ∃ t, exec (.vecMul) (sHead (vecW 0x22 9)) = .next t := by
  refine ⟨_, h.2.1 0x22 _ (by simp [vectorWords]) (2 ^ 27 + 1) (vecW 0x22 9) (sHead (vecW 0x22 9)) ?_ ?_⟩ <;> decide +kernel

theorem meets_vecFma (h : Obligations.EngineWordsComplete) : ∃ t, exec (.vecFma) (sHead (vecW 0x23 9)) = .next t := by
  refine ⟨_, h.2.1 0x23 _ (by simp [vectorWords]) (2 ^ 27 + 1) (vecW 0x23 9) (sHead (vecW 0x23 9)) ?_ ?_⟩ <;> decide +kernel

theorem meets_vecMin (h : Obligations.EngineWordsComplete) : ∃ t, exec (.vecMin) (sHead (vecW 0x24 9)) = .next t := by
  refine ⟨_, h.2.1 0x24 _ (by simp [vectorWords]) (2 ^ 27 + 1) (vecW 0x24 9) (sHead (vecW 0x24 9)) ?_ ?_⟩ <;> decide +kernel

theorem meets_vecMax (h : Obligations.EngineWordsComplete) : ∃ t, exec (.vecMax) (sHead (vecW 0x25 9)) = .next t := by
  refine ⟨_, h.2.1 0x25 _ (by simp [vectorWords]) (2 ^ 27 + 1) (vecW 0x25 9) (sHead (vecW 0x25 9)) ?_ ?_⟩ <;> decide +kernel

theorem meets_vecCmp (h : Obligations.EngineWordsComplete) : ∃ t, exec (.vecCmp) (sHead (vecW 0x26 9)) = .next t := by
  refine ⟨_, h.2.1 0x26 _ (by simp [vectorWords]) (2 ^ 27 + 1) (vecW 0x26 9) (sHead (vecW 0x26 9)) ?_ ?_⟩ <;> decide +kernel

theorem meets_vecSel (h : Obligations.EngineWordsComplete) : ∃ t, exec (.vecSel) (sHead (vecW 0x27 9)) = .next t := by
  refine ⟨_, h.2.1 0x27 _ (by simp [vectorWords]) (2 ^ 27 + 1) (vecW 0x27 9) (sHead (vecW 0x27 9)) ?_ ?_⟩ <;> decide +kernel

theorem meets_vecDiv (h : Obligations.EngineWordsComplete) : ∃ t, exec (.vecDiv) (sHead (vecW 0x28 9)) = .next t := by
  refine ⟨_, h.2.1 0x28 _ (by simp [vectorWords]) (2 ^ 27 + 1) (vecW 0x28 9) (sHead (vecW 0x28 9)) ?_ ?_⟩ <;> decide +kernel

theorem meets_vecSqrt (h : Obligations.EngineWordsComplete) : ∃ t, exec (.vecSqrt) (sHead (vecW 0x29 9)) = .next t := by
  refine ⟨_, h.2.1 0x29 _ (by simp [vectorWords]) (2 ^ 27 + 1) (vecW 0x29 9) (sHead (vecW 0x29 9)) ?_ ?_⟩ <;> decide +kernel

theorem meets_vecFunc1 (h : Obligations.EngineWordsComplete) : ∃ t, exec (.vecFunc1) (sHead (vecW 0x2a 9)) = .next t := by
  refine ⟨_, h.2.1 0x2a _ (by simp [vectorWords]) (2 ^ 27 + 1) (vecW 0x2a 9) (sHead (vecW 0x2a 9)) ?_ ?_⟩ <;> decide +kernel

theorem meets_vecCvt (h : Obligations.EngineWordsComplete) : ∃ t, exec (.vecCvt) (sHead (vecW 0x2b 9)) = .next t := by
  refine ⟨_, h.2.1 0x2b _ (by simp [vectorWords]) (2 ^ 27 + 1) (vecW 0x2b 9) (sHead (vecW 0x2b 9)) ?_ ?_⟩ <;> decide +kernel

theorem meets_vecCvtBs (h : Obligations.EngineWordsComplete) : ∃ t, exec (.vecCvtBs) (sHead (vecW 0x2c 4)) = .next t := by
  refine ⟨_, h.2.1 0x2c _ (by simp [vectorWords]) (2 ^ 27 + 1) (vecW 0x2c 4) (sHead (vecW 0x2c 4)) ?_ ?_⟩ <;> decide +kernel

theorem meets_vecRedRow (h : Obligations.EngineWordsComplete) : ∃ t, exec (.vecRedRow) (sHead (vecW 0x2d 9)) = .next t := by
  refine ⟨_, h.2.1 0x2d _ (by simp [vectorWords]) (2 ^ 27 + 1) (vecW 0x2d 9) (sHead (vecW 0x2d 9)) ?_ ?_⟩ <;> decide +kernel

theorem meets_vecRedAll (h : Obligations.EngineWordsComplete) : ∃ t, exec (.vecRedAll) (sHead (vecW 0x2e 9)) = .next t := by
  refine ⟨_, h.2.1 0x2e _ (by simp [vectorWords]) (2 ^ 27 + 1) (vecW 0x2e 9) (sHead (vecW 0x2e 9)) ?_ ?_⟩ <;> decide +kernel

theorem meets_copyIn (h : Obligations.EngineWordsComplete) : ∃ t, exec (.copyIn) (sHead (dmaW 0x30)) = .next t := by
  refine ⟨_, h.2.2.1 (2 ^ 27 + 1) (dmaW 0x30) (sHead (dmaW 0x30)) ?_ ?_⟩ <;> decide +kernel

theorem meets_copyOut (h : Obligations.EngineWordsComplete) : ∃ t, exec (.copyOut) (sHead (dmaW 0x31)) = .next t := by
  refine ⟨_, h.2.2.2.1 (2 ^ 27 + 1) (dmaW 0x31) (sHead (dmaW 0x31)) ?_ ?_ ?_⟩ <;> decide +kernel

theorem meets_copyBay (h : Obligations.EngineWordsComplete) : ∃ t, exec (.copyBay) (sHead (dmaW 0x32 + 2 ^ 248)) = .next t := by
  refine ⟨_, h.2.2.2.2 (2 ^ 27 + 1) (dmaW 0x32 + 2 ^ 248) (sHead (dmaW 0x32 + 2 ^ 248)) ?_ ?_ ?_⟩ <;> decide +kernel

theorem meets_mmComplete (h : Obligations.WordCompletionsComplete) : ∃ t, exec (.mmComplete) (sIss 0x10) = .next t :=
  ⟨_, (h.1) _ _ _ rfl⟩

theorem meets_vectorComplete (h : Obligations.WordCompletionsComplete) : ∃ t, exec (.vectorComplete) (sIss 0x20) = .next t :=
  ⟨_, (h.2.1) _ _ _ rfl⟩

theorem meets_dmaCopyComplete (h : Obligations.WordCompletionsComplete) : ∃ t, exec (.dmaCopyComplete (2 ^ 27 + 1) 1) (sIss 0x32) = .next t := by
  refine ⟨_, h.2.2.1 _ _ 0x32 _ _ _ ?_ ⟨rfl, rfl, rfl⟩ rfl⟩ <;> decide +kernel

theorem meets_ldComplete (h : Obligations.WordCompletionsComplete) : ∃ t, exec (.ldComplete (2 ^ 27 + 1) 1) (sIss 0x06) = .next t :=
  ⟨_, (h.2.2.2.1) _ _ _ _ _ ⟨rfl, rfl, rfl⟩ rfl⟩

theorem meets_stComplete (h : Obligations.WordCompletionsComplete) : ∃ t, exec (.stComplete (2 ^ 27 + 1) 1) (sIss 0x07) = .next t :=
  ⟨_, (h.2.2.2.2.1) _ _ _ _ _ ⟨rfl, rfl, rfl⟩ rfl⟩

theorem meets_callComplete (h : Obligations.WordCompletionsComplete) : ∃ t, exec (.callComplete (2 ^ 27 + 1) 1) (sIss 0x50) = .next t :=
  ⟨_, (h.2.2.2.2.2) _ _ _ _ _ ⟨rfl, rfl, rfl⟩ rfl⟩

theorem meets_qnGroupOpen (h : Obligations.QuernGroupComplete) : ∃ t, exec (.qnGroupOpen (rec 8 64 0 [])) sGroups = .next t := by
  refine ⟨_, h.1 (rec 8 64 0 []) sGroups 0 ?_ ?_ ?_ ?_ ?_ ?_ ?_ ?_ ?_ ?_ ?_ ?_⟩ <;> decide +kernel

theorem meets_qnGroupDone (h : Obligations.QuernGroupComplete) : ∃ t, exec (.qnGroupDone (rec 8 128 1 (z 8))) sGroups = .next t := by
  refine ⟨_, h.2.1 (rec 8 128 1 (z 8)) sGroups 0 ?_ ?_ ?_ ?_ ?_⟩ <;> decide +kernel

theorem meets_qnGroupDone_last (h : Obligations.QuernGroupComplete) : ∃ t, exec (.qnGroupDone (rec 8 192 1 (z 8))) sGroups = .next t := by
  refine ⟨_, h.2.2.1 (rec 8 192 1 (z 8)) sGroups 0 ?_ ?_ ?_ ?_ ?_ ?_ ?_⟩ <;> decide +kernel

theorem meets_qnGroupAbandon (h : Obligations.QuernGroupComplete) : ∃ t, exec (.qnGroupAbandon (rec 8 128 2 [])) sGroups = .next t := by
  refine ⟨_, h.2.2.2.1 (rec 8 128 2 []) sGroups 0 ?_ ?_ ?_ ?_⟩ <;> decide +kernel

theorem meets_qnGroupAbandon_closes (h : Obligations.QuernGroupComplete) : ∃ t, exec (.qnGroupAbandon (rec 8 128 2 [])) sGroups = .next t := by
  refine ⟨_, h.2.2.2.2.1 (rec 8 128 2 []) sGroups 1 ?_ ?_ ?_ ?_ ?_ ?_⟩ <;> decide +kernel

theorem meets_qnEcdelta (h : Obligations.QuernGroupComplete) : ∃ t, exec (.qnEcdelta (rec 8 256 255 ([16] ++ z 7 ++ z 1024))) sGroups = .next t := by
  refine ⟨_, h.2.2.2.2.2.1 (rec 8 256 255 ([16] ++ z 7 ++ z 1024)) sGroups 0 ?_ ?_ ?_ ?_⟩ <;> decide +kernel

theorem meets_qnContrib (h : Obligations.QuernGroupComplete) : ∃ t, exec (.qnContrib (rec 8 65536 0 (leBytes 8 128 ++ leBytes 8 (crc64 (z 64)) ++ z 64))) sGroups = .next t := by
  refine ⟨_, h.2.2.2.2.2.2 (rec 8 65536 0 (leBytes 8 128 ++ leBytes 8 (crc64 (z 64)) ++ z 64)) sGroups 0 ?_ ?_ ?_ ?_ ?_ ?_ ?_ ?_ ?_ ?_ ?_ ?_⟩ <;> decide +kernel

theorem meets_hsLookup (h : Obligations.HoistDataComplete) : ∃ t, exec (.hsLookup (rec 8 0 0 [])) sHoist = .next t := by
  refine ⟨_, h.1 (rec 8 0 0 []) sHoist 4 ?_ ?_⟩ <;> decide +kernel

theorem meets_hsGrad (h : Obligations.HoistDataComplete) : ∃ t, exec (.hsGrad (rec 8 0 0 [])) sHoistOpen = .next t := by
  refine ⟨_, h.2.1 (rec 8 0 0 []) sHoistOpen 2 _ ?_ ?_ (Option.some_get ?q).symm⟩ <;> decide +kernel

theorem meets_hsRowgrad (h : Obligations.HoistDataComplete) : ∃ t, exec (.hsRowgrad (rec 8 128 0 (le 4 0 ++ le 2 1 ++ z 2 ++ le 8 3 ++ z 32))) sHoistOpen = .next t := by
  refine ⟨_, h.2.2 (rec 8 128 0 (le 4 0 ++ le 2 1 ++ z 2 ++ le 8 3 ++ z 32)) sHoistOpen 0 _ ?_ ?_ ?_ ?_ ?_ ?_ (Option.some_get ?q).symm⟩ <;> decide +kernel

theorem meets_hsStepOpen (h : Obligations.HoistStepsComplete) : ∃ t, exec (.hsStepOpen (rec 8 128 0 (le 4 0 ++ le 2 1 ++ z 2))) sHoist = .next t := by
  refine ⟨_, h.1 (rec 8 128 0 (le 4 0 ++ le 2 1 ++ z 2)) sHoist 2 ?_ ?_ ?_ ?_ ?_ ?_ ?_ ?_ ?_⟩ <;> decide +kernel

theorem meets_hsStepDone (h : Obligations.HoistStepsComplete) : ∃ t, exec (.hsStepDone (rec 8 128 1 (z 8))) sHoistOpen = .next t := by
  refine ⟨_, h.2.1 (rec 8 128 1 (z 8)) sHoistOpen 0 ?_ ?_ ?_ ?_ ?_ ?_⟩ <;> decide +kernel

theorem meets_hsStepDone_last (h : Obligations.HoistStepsComplete) : ∃ t, exec (.hsStepDone (rec 8 128 1 (z 8))) sHoistLast = .next t := by
  refine ⟨_, h.2.2.1 (rec 8 128 1 (z 8)) sHoistLast 0 ?_ ?_ ?_ ?_ ?_ ?_⟩ <;> decide +kernel

theorem meets_hsStepAbandon (h : Obligations.HoistStepsComplete) : ∃ t, exec (.hsStepAbandon (rec 8 128 2 (z 8))) sHoistOpen = .next t := by
  refine ⟨_, h.2.2.2.1 (rec 8 128 2 (z 8)) sHoistOpen 0 ?_ ?_ ?_ ?_ ?_⟩ <;> decide +kernel

theorem meets_hsStepEnd (h : Obligations.HoistStepsComplete) : ∃ t, exec (.hsStepEnd (rec 8 128 3 [])) sHoistOpen = .next t := by
  refine ⟨_, h.2.2.2.2.1 (rec 8 128 3 []) sHoistOpen 0 ?_ ?_ ?_ ?_ ?_⟩ <;> decide +kernel

theorem meets_hsStepCloseDone (h : Obligations.HoistStepsComplete) : ∃ t, exec (.hsStepCloseDone 128) sClosing = .next t :=
  ⟨_, (h.2.2.2.2.2.1) _ _ _ rfl⟩

theorem meets_hotRefresh (h : Obligations.HoistStepsComplete) : ∃ t, exec (.hotRefresh 15) sHot = .next t := by
  refine ⟨_, h.2.2.2.2.2.2 _ _ ?_ ?_ ?_ ?_⟩ <;> decide +kernel

theorem meets_blSearch (h : Obligations.BolterCommandsComplete) : ∃ t, exec (.blSearch (rec 8 512 0 [])) sIndex = .next t := by
  refine ⟨_, h.1 (rec 8 512 0 []) sIndex 2 (List.replicate 8 (fmtDecode 9 0)) ?_ ?_ ?_ ?_ ?_ ?_ ?_ ?_ ?_⟩ <;> decide +kernel

theorem meets_blInsert (h : Obligations.BolterCommandsComplete) : ∃ t, exec (.blInsert (rec 8 0 0 (le 8 327680 ++ le 8 0 ++ le 2 1 ++ z 6))) sIndex = .next t := by
  refine ⟨_, h.2.1 (rec 8 0 0 (le 8 327680 ++ le 8 0 ++ le 2 1 ++ z 6)) sIndex 1 ?_ ?_ ?_ ?_⟩ <;> decide +kernel

theorem meets_blMerge (h : Obligations.BolterCommandsComplete) : ∃ t, exec (.blMerge (rec 8 0 0 (le 4 65536 ++ z 4))) sIndex = .next t := by
  refine ⟨_, h.2.2.1 (rec 8 0 0 (le 4 65536 ++ z 4)) sIndex 1 ?_ ?_ sOK ?_⟩ <;> decide +kernel

theorem meets_blDelete (h : Obligations.BolterCommandsComplete) : ∃ t, exec (.blDelete (rec 8 0 0 (le 2 1 ++ z 6 ++ le 4 0))) sIndex = .next t := by
  refine ⟨_, h.2.2.2.1 (rec 8 0 0 (le 2 1 ++ z 6 ++ le 4 0)) sIndex 1 ?_ ?_ ?_ ?_⟩ <;> decide +kernel

theorem meets_blTimeCut (h : Obligations.BolterCommandsComplete) : ∃ t, exec (.blTimeCut 5 3) (sBl 0x68) = .next t := by
  refine ⟨_, h.2.2.2.2.1 _ _ _ _ rfl ?_⟩ <;> decide +kernel

theorem meets_blMergeTimeLimit (h : Obligations.BolterCommandsComplete) : ∃ t, exec (.blMergeTimeLimit 256) (sBl 0x6B) = .next t := by
  refine ⟨_, h.2.2.2.2.2 _ _ _ rfl ?_⟩ <;> decide +kernel

theorem meets_partDisableFinish (h : Obligations.PartitionEventsComplete) : ∃ t, exec (.partDisableFinish 2) sParts = .next t := by
  refine ⟨_, h.1 _ _ ?_ ?_ ?_⟩ <;> decide +kernel

theorem meets_grantDrainDone (h : Obligations.PartitionEventsComplete) : ∃ t, exec (.grantDrainDone 6 3) sParts = .next t := by
  refine ⟨_, h.2.1 _ _ _ _ rfl ?_ ?_⟩ <;> decide +kernel

theorem meets_revokeDrainDone (h : Obligations.PartitionEventsComplete) : ∃ t, exec (.revokeDrainDone 5) sParts = .next t := by
  refine (h.2.2.1 _ _ ?_ ?_).imp (fun _ e => e.1) <;> decide +kernel

theorem meets_scrubStart (h : Obligations.PartitionEventsComplete) : ∃ t, exec (.scrubStart) sParts = .next t := by
  refine (h.2.2.2.1 _ _ _ rfl ?_ ?_ ?_).imp (fun _ e => e.1) <;> decide +kernel

theorem meets_scrubDone (h : Obligations.PartitionEventsComplete) : ∃ t, exec (.scrubDone 7 {}) sParts = .next t := by
  refine ⟨_, h.2.2.2.2.1 _ _ _ ?_ ?_⟩ <;> decide +kernel

theorem meets_scrubDone_again (h : Obligations.PartitionEventsComplete) : ∃ t, exec (.scrubDone 7 { badPages := [28672] }) sParts = .next t := by
  refine ⟨_, h.2.2.2.2.2 _ _ _ ?_ ?_ ?_⟩ <;> decide +kernel

theorem meets_fsIdleExpiry (h : Obligations.LogAndImageEventsComplete) : ∃ t, exec (.fsIdleExpiry 1) sLong = .next t := by
  refine ⟨_, h.1 _ _ ?_ ?_⟩ <;> decide +kernel

theorem meets_auditEraseDone (h : Obligations.LogAndImageEventsComplete) : ∃ t, exec (.auditEraseDone) sErasing = .next t := by
  refine ⟨_, h.2.1 _ ?_ ?_⟩ <;> decide +kernel

theorem meets_imgVerifyDone (h : Obligations.LogAndImageEventsComplete) : ∃ t, exec (.imgVerifyDone 1) sVerify = .next t := by
  refine (h.2.2.1 _ _ ?_ ?_).imp (fun _ e => e.1) <;> decide +kernel

theorem meets_imgVerifyDone_staged (h : Obligations.LogAndImageEventsComplete) : ∃ t, exec (.imgVerifyDone 0) sVerify = .next t := by
  refine ⟨_, h.2.2.2.1 _ 0 64 _ ?_ rfl ?_ ?_⟩ <;> decide +kernel

theorem meets_fwFloorBlow (h : Obligations.LogAndImageEventsComplete) : ∃ t, exec (.fwFloorBlow) sFloor = .next t := by
  refine (h.2.2.2.2 _ _ rfl ?_ ?_ ?_).imp (fun _ e => e.1) <;> decide +kernel

theorem meets_furlEntryStep (h : Obligations.FurlAndRebuildEventsComplete) : ∃ t, exec (.furlEntryStep) (sEntry 0) = .next t := by
  refine ⟨_, h.1 _ ?_ ?_ ?_ ?_ ?_⟩ <;> decide +kernel

theorem meets_furlEntryStep_drained (h : Obligations.FurlAndRebuildEventsComplete) : ∃ t, exec (.furlEntryStep) (sEntry 2) = .next t := by
  refine ⟨_, h.2.1 _ ?_ ?_ ?_⟩ <;> decide +kernel

theorem meets_wakeAdmissionOpen (h : Obligations.FurlAndRebuildEventsComplete) : ∃ t, exec (.wakeAdmissionOpen) sWaking = .next t := by
  refine ⟨_, h.2.2.1 _ _ ?_ rfl ?_⟩ <;> decide +kernel

theorem meets_rebuildBatch (h : Obligations.FurlAndRebuildEventsComplete) : ∃ t, exec (.rebuildBatch 0 {}) sRebuild = .next t := by
  refine ⟨_, (h.2.2.2 0 {} sRebuild ?_ ?_ ?_ ?_).2.1 ?_ ?_ ?_ ?_ ?_ ?_⟩ <;> decide +kernel

theorem meets_rebuildBatch_again (h : Obligations.FurlAndRebuildEventsComplete) : ∃ t, exec (.rebuildBatch 0 {}) sRebuildBad = .next t := by
  refine ⟨_, (h.2.2.2 0 {} sRebuildBad ?_ ?_ ?_ ?_).1 ?_⟩ <;> decide +kernel

theorem meets_rebuildBatch_reads (h : Obligations.FurlAndRebuildEventsComplete) : ∃ t, exec (.rebuildBatch 0 {}) (sPhase 1) = .next t := by
  refine ⟨_, (h.2.2.2 0 {} (sPhase 1) ?_ ?_ ?_ ?_).2.2.1 ?_ ?_⟩ <;> decide +kernel

theorem meets_rebuildBatch_writes (h : Obligations.FurlAndRebuildEventsComplete) : ∃ t, exec (.rebuildBatch 0 {}) (sPhase 2) = .next t := by
  refine ⟨_, (h.2.2.2 0 {} (sPhase 2) ?_ ?_ ?_ ?_).2.2.2.1 ?_ ?_⟩ <;> decide +kernel

theorem meets_rebuildBatch_releases (h : Obligations.FurlAndRebuildEventsComplete) : ∃ t, exec (.rebuildBatch 0 {}) (sPhase 3) = .next t := by
  refine ⟨_, (h.2.2.2 0 {} (sPhase 3) ?_ ?_ ?_ ?_).2.2.2.2.1 ?_ ?_ ?_⟩ <;> decide +kernel

theorem meets_rebuildBatch_counts (h : Obligations.FurlAndRebuildEventsComplete) : ∃ t, exec (.rebuildBatch 0 {}) (sPhase 4) = .next t := by
  refine ⟨_, (h.2.2.2 0 {} (sPhase 4) ?_ ?_ ?_ ?_).2.2.2.2.2 ?_ ?_⟩ <;> decide +kernel

theorem meets_govWindowClose (h : Obligations.GovernorCommandsComplete) : ∃ t, exec (.govWindowClose .leatReplay 3 0) sBase = .next t := by
  refine ⟨_, h.1 _ _ _ _ ?_ ?_ ?_ ?_ ?_⟩ <;> decide +kernel

theorem meets_govWindowClose_unjudged (h : Obligations.GovernorCommandsComplete) : ∃ t, exec (.govWindowClose .leatReplay 3 0) sStarting = .next t := by
  refine ⟨_, h.2.1 _ _ _ _ ?_ ?_ ?_ ?_ ?_⟩ <;> decide +kernel

theorem meets_slowBayWindow (h : Obligations.GovernorCommandsComplete) : ∃ t, exec (.slowBayWindow) sBays = .next t := by
  refine ⟨_, h.2.2.1 _ ?_ ?_ ?_ ?_ ?_⟩ <;> decide +kernel

theorem meets_bayMapOut (h : Obligations.GovernorCommandsComplete) : ∃ t, exec (.bayMapOut) sMapOut = .next t := by
  refine ⟨_, h.2.2.2.1 _ _ _ rfl ?_⟩ <;> decide +kernel

theorem meets_leatParityError (h : Obligations.GovernorCommandsComplete) : ∃ t, exec (.leatParityError { kind := 0, unit := 15, failures := 3, line := none }) sBase = .next t := by
  refine ⟨_, h.2.2.2.2.1 _ _ ?_ ?_ ?_ ?_ ?_⟩ <;> decide +kernel

theorem meets_leatParityError_line (h : Obligations.GovernorCommandsComplete) : ∃ t, exec (.leatParityError { kind := 0, unit := 15, failures := 4, line := some 1 }) sData = .next t := by
  refine ⟨_, h.2.2.2.2.2.1 _ _ _ ?_ ?_ ?_ ?_ rfl⟩ <;> decide +kernel

theorem meets_sramParityError (h : Obligations.GovernorCommandsComplete) : ∃ t, exec (.sramParityError (sram 3)) sBase = .next t := by
  refine ⟨_, h.2.2.2.2.2.2.1 _ _ ?_ ?_ ?_ ?_⟩ <;> decide +kernel

theorem meets_sramParityError_fourth (h : Obligations.GovernorCommandsComplete) : ∃ t, exec (.sramParityError (sram 4)) sBase = .next t := by
  refine ⟨_, h.2.2.2.2.2.2.2.1 _ _ ?_ ?_ ?_⟩ <;> decide +kernel

theorem meets_spareRowReplace (h : Obligations.GovernorCommandsComplete) : ∃ t, exec (.spareRowReplace (sram 4) 1) sSpare = .next t := by
  refine ⟨_, h.2.2.2.2.2.2.2.2.1 _ _ _ ?_ ?_⟩ <;> decide +kernel

theorem meets_patrolRead (h : Obligations.GovernorCommandsComplete) : ∃ t, exec (.patrolRead 1 {}) sData = .next t := by
  refine ⟨_, h.2.2.2.2.2.2.2.2.2.1 _ _ _ ?_ ?_ ?_ ?_⟩ <;> decide +kernel

theorem meets_eventFoldExpiry (h : Obligations.GovernorCommandsComplete) : ∃ t, exec (.eventFoldExpiry 9) sFold = .next t := by
  refine ⟨_, h.2.2.2.2.2.2.2.2.2.2.1 _ _ ?_ ?_⟩ <;> decide +kernel

theorem meets_fiFaultTick (h : Obligations.GovernorCommandsComplete) : ∃ t, exec (.fiFaultTick 0) sInject = .next t := by
  refine ⟨_, h.2.2.2.2.2.2.2.2.2.2.2 _ _ ?_ ?_ ?_⟩ <;> decide +kernel

theorem meets_tokenHeartbeatMissed (h : Obligations.ArbiterCommandsComplete) : ∃ t, exec (.tokenHeartbeatMissed) sBase = .next t := by
  refine (h.1 _ 0 ?_ ?_ ?_).imp (fun _ e => e.1) <;> decide +kernel

theorem meets_tokenTransferDone (h : Obligations.ArbiterCommandsComplete) : ∃ t, exec (.tokenTransferDone) sTransfer = .next t := by
  refine (h.2.1 _ ?_ ?_ ?_).imp (fun _ e => e.1) <;> decide +kernel

theorem meets_arbiterFault (h : Obligations.ArbiterCommandsComplete) : ∃ t, exec (.arbiterFault) sBase = .next t := by
  refine ⟨_, h.2.2.1 _ ?_ ?_⟩ <;> decide +kernel

theorem meets_staleConfigWrite (h : Obligations.ArbiterCommandsComplete) : ∃ t, exec (.staleConfigWrite 1 0) sStale = .next t := by
  refine ⟨_, h.2.2.2.1 _ _ _ ?_ ?_ ?_ ?_⟩ <;> decide +kernel

theorem meets_weirCopyMismatch (h : Obligations.ArbiterCommandsComplete) : ∃ t, exec (.weirCopyMismatch) sBase = .next t := by
  refine ⟨_, h.2.2.2.2 _ ?_⟩ <;> decide +kernel

theorem meets_fill (h : Obligations.QuernExecComplete) : ∃ t, exec (.fill (rec 8 0 0 [])) (sQuern 0 0) = .next t := by
  refine ⟨_, h.2.1 0 Instr.fill (rec 8 0 0 []) (sQuern 0 0) 1 ((atTurn 0x60 (rec 8 0 0 []) {} (sQuern 0 0) 1).1.descs.headD []) (atTurn 0x60 (rec 8 0 0 []) {} (sQuern 0 0) 1).1.descs.tail (by simp [quernRows]) ?_ ?_ ?_ ?_ ?_ ?_ ?_ ?_ [] ?_ ?_ ?_⟩ <;> decide +kernel

theorem meets_copy (h : Obligations.QuernExecComplete) : ∃ t, exec (.copy (rec 8 0 0 [])) (sQuern 1 0) = .next t := by
  refine ⟨_, h.2.1 1 Instr.copy (rec 8 0 0 []) (sQuern 1 0) 1 ((atTurn 0x60 (rec 8 0 0 []) {} (sQuern 1 0) 1).1.descs.headD []) (atTurn 0x60 (rec 8 0 0 []) {} (sQuern 1 0) 1).1.descs.tail (by simp [quernRows]) ?_ ?_ ?_ ?_ ?_ ?_ ?_ ?_ [] ?_ ?_ ?_⟩ <;> decide +kernel

theorem meets_compare (h : Obligations.QuernExecComplete) : ∃ t, exec (.compare (rec 8 0 0 [])) (sQuern 2 0) = .next t := by
  refine ⟨_, h.2.1 2 Instr.compare (rec 8 0 0 []) (sQuern 2 0) 1 ((atTurn 0x60 (rec 8 0 0 []) {} (sQuern 2 0) 1).1.descs.headD []) (atTurn 0x60 (rec 8 0 0 []) {} (sQuern 2 0) 1).1.descs.tail (by simp [quernRows]) ?_ ?_ ?_ ?_ ?_ ?_ ?_ ?_ [] ?_ ?_ ?_⟩ <;> decide +kernel

theorem meets_reduce (h : Obligations.QuernExecComplete) : ∃ t, exec (.reduce (rec 8 0 0 [])) (sQuern 3 0) = .next t := by
  refine ⟨_, h.2.1 3 Instr.reduce (rec 8 0 0 []) (sQuern 3 0) 1 ((atTurn 0x60 (rec 8 0 0 []) {} (sQuern 3 0) 1).1.descs.headD []) (atTurn 0x60 (rec 8 0 0 []) {} (sQuern 3 0) 1).1.descs.tail (by simp [quernRows]) ?_ ?_ ?_ ?_ ?_ ?_ ?_ ?_ [] ?_ ?_ ?_⟩ <;> decide +kernel

theorem meets_digest (h : Obligations.QuernExecComplete) : ∃ t, exec (.digest (rec 8 0 0 [])) (sQuern 4 0) = .next t := by
  refine ⟨_, h.2.1 4 Instr.digest (rec 8 0 0 []) (sQuern 4 0) 1 ((atTurn 0x60 (rec 8 0 0 []) {} (sQuern 4 0) 1).1.descs.headD []) (atTurn 0x60 (rec 8 0 0 []) {} (sQuern 4 0) 1).1.descs.tail (by simp [quernRows]) ?_ ?_ ?_ ?_ ?_ ?_ ?_ ?_ [] ?_ ?_ ?_⟩ <;> decide +kernel

theorem meets_ecEncode (h : Obligations.QuernExecComplete) : ∃ t, exec (.ecEncode (rec 8 0 0 [])) (sQuern 5 1) = .next t := by
  refine ⟨_, h.2.1 5 Instr.ecEncode (rec 8 0 0 []) (sQuern 5 1) 2 ((atTurn 0x60 (rec 8 0 0 []) {} (sQuern 5 1) 2).1.descs.headD []) (atTurn 0x60 (rec 8 0 0 []) {} (sQuern 5 1) 2).1.descs.tail (by simp [quernRows]) ?_ ?_ ?_ ?_ ?_ ?_ ?_ ?_ [(262144, 0)] ?_ ?_ ?_⟩ <;> decide +kernel

theorem meets_ecCombine (h : Obligations.QuernExecComplete) : ∃ t, exec (.ecCombine (rec 8 0 0 [])) (sQuern 6 1) = .next t := by
  refine ⟨_, h.2.1 6 Instr.ecCombine (rec 8 0 0 []) (sQuern 6 1) 2 ((atTurn 0x60 (rec 8 0 0 []) {} (sQuern 6 1) 2).1.descs.headD []) (atTurn 0x60 (rec 8 0 0 []) {} (sQuern 6 1) 2).1.descs.tail (by simp [quernRows]) ?_ ?_ ?_ ?_ ?_ ?_ ?_ ?_ [(262144, 1)] ?_ ?_ ?_⟩ <;> decide +kernel

theorem meets_fill_reads (h : Obligations.QuernExecComplete) : ∃ t, exec (.fill (rec 8 0 0 [])) (sQuern 0 0) = .next t := by
  refine ⟨_, h.1 0 Instr.fill (rec 8 0 0 []) (sQuern 0 0) 0 (by simp [quernRows]) ?_ ?_ ?_ ?_ ?_⟩ <;> decide +kernel

theorem meets_qnPortionDone (h : Obligations.QuernExecComplete) : ∃ t, exec (.qnPortionDone 0 0) sInv = .next t := by
  refine ⟨_, h.2.2 _ _ _ ?_⟩ <;> decide +kernel

theorem meets_railSetWrite (h : Obligations.ControlWordCommandsComplete) : ∃ t, exec (.railSetWrite (cmd 1 (cw 0x0E0010 0x3FF 800))) sBase = .next t := by
  refine ⟨_, h.2.2.2.1 (cmd 1 (cw 0x0E0010 0x3FF 800)) sBase 0 ?_ ?_ ?_ ?_⟩ <;> decide +kernel

theorem meets_portModeWrite (h : Obligations.ControlWordCommandsComplete) : ∃ t, exec (.portModeWrite (cmd 1 (cw 0x030007 0x30000 0x10000))) sBase = .next t := by
  refine ⟨_, h.2.2.2.2.1 (cmd 1 (cw 0x030007 0x30000 0x10000)) sBase 7 ?_ ?_ ?_ ?_⟩ <;> decide +kernel

theorem meets_scratchWinWrite (h : Obligations.ControlWordCommandsComplete) : ∃ t, exec (.scratchWinWrite (cmd 1 (cw 0x07021F 0xFFFF 0xBF01))) sBase = .next t := by
  refine ⟨_, h.2.2.2.2.2.1 (cmd 1 (cw 0x07021F 0xFFFF 0xBF01)) sBase 31 ?_ ?_ ?_ ?_⟩ <;> decide +kernel

theorem meets_shareWrite (h : Obligations.ControlWordCommandsComplete) : ∃ t, exec (.shareWrite (cmd 1 (cw 0x07041F 0xFF00000000000000 0x0100000000000000))) sBase = .next t := by
  refine ⟨_, h.2.2.2.2.2.2.1 (cmd 1 (cw 0x07041F 0xFF00000000000000 0x0100000000000000)) sBase 31 ?_ ?_ ?_ ?_⟩ <;> decide +kernel

theorem meets_orderModeWrite (h : Obligations.ControlWordCommandsComplete) : ∃ t, exec (.orderModeWrite (cmd 1 (cw 0x070500 1 1))) sBase = .next t := by
  refine ⟨_, h.2.2.2.2.2.2.2.1 (cmd 1 (cw 0x070500 1 1)) sBase 0 ?_ ?_ ?_ ?_⟩ <;> decide +kernel

theorem meets_peerReachWrite (h : Obligations.ControlWordCommandsComplete) : ∃ t, exec (.peerReachWrite (cmd 1 (cw 0x044000 0xFF0000000000 0x050000000000))) sBase = .next t := by
  refine ⟨_, h.2.2.2.2.2.2.2.2.1 (cmd 1 (cw 0x044000 0xFF0000000000 0x050000000000)) sBase 0 ?_ ?_ ?_ ?_⟩ <;> decide +kernel

theorem meets_setSlotWrite (h : Obligations.ControlWordCommandsComplete) : ∃ t, exec (.setSlotWrite (cmd 1 (cw 0x0C013C 0xFFFFFFFFFFFFFFFF 0x0004080000000001))) sBase = .next t := by
  refine ⟨_, h.2.2.2.2.2.2.2.2.2.1 (cmd 1 (cw 0x0C013C 0xFFFFFFFFFFFFFFFF 0x0004080000000001)) sBase 15 ?_ ?_ ?_ ?_⟩ <;> decide +kernel

theorem meets_handover (h : Obligations.ControlWordCommandsComplete) : ∃ t, exec (.handover (cmd 1 (cw 0x0C0001 0x1000000000000000 0x1000000000000000))) sBase = .next t := by
  refine ⟨_, h.2.2.2.2.2.2.2.2.2.2 (cmd 1 (cw 0x0C0001 0x1000000000000000 0x1000000000000000)) sBase ?_ ?_ ?_ ?_⟩ <;> decide +kernel

theorem meets_atomic_in_set_window (h : Obligations.SetWindowAtomicsNeverFold) : ∃ t, exec (.atomicAdd (rec 8 65600 128 (z 8))) sSetData = .next t := by
  refine ⟨_, (h.2 Instr.atomicAdd 0x20 (rec 8 65600 128 (z 8)) sSetData 0 (by simp [lineWrites]) ?_ ?_ ?_ ?_ ?_ ?_).2 0 ?_ ?_ ?_⟩ <;> decide +kernel

theorem meets_decayEpoch_counts (h : Obligations.HeatFollowsDecayEpochs) : ∃ t, exec (.decayEpoch) sBase = .next t := by
  refine (h.1 _ ?_ ?_).imp (fun _ e => e.1) <;> decide +kernel

theorem meets_br_outside (h : Obligations.BranchesStayInTheProgram) : ∃ t, exec (.br) (sHead (4 + 6 * 2 ^ 47 + 4 * 2 ^ 224)) = .next t := by
  refine ⟨_, h.1 (2 ^ 27 + 1) (4 + 6 * 2 ^ 47 + 4 * 2 ^ 224) (sHead (4 + 6 * 2 ^ 47 + 4 * 2 ^ 224)) ?_ ?_ ?_ ?_⟩ <;> decide +kernel

theorem meets_loop_outside (h : Obligations.BranchesStayInTheProgram) : ∃ t, exec (.loop) (sHead (5 + 3 * 2 ^ 32 + (2 ^ 32 - 1) * 2 ^ 224)) = .next t := by
  refine ⟨_, h.2.1 (2 ^ 27 + 1) (5 + 3 * 2 ^ 32 + (2 ^ 32 - 1) * 2 ^ 224) (sHead (5 + 3 * 2 ^ 32 + (2 ^ 32 - 1) * 2 ^ 224)) ?_ ?_ ?_ ?_⟩ <;> decide +kernel

theorem meets_stepRunsFront (h : Obligations.StepRunsFrontCommand) :
    step { sBase with pending := [.nop, .halt] } = exec .nop { sBase with pending := [.halt] } := h _ _ _ rfl

theorem meets_emptyQueue (h : Obligations.EmptyQueueIsOneTick) : ∃ t, step sBase = .next t :=
  (h.1 sBase rfl rfl rfl).imp fun _ e => e.1

theorem meets_emptyQueue_held (h : Obligations.EmptyQueueIsOneTick) : ∃ u, step sHold = exec (.identity (cmd 0 [])) u :=
  ⟨_, h.2.1 sHold { fop := 3, cmd := cmd 0 [], since := 0, line := 1 } _ rfl rfl rfl⟩

theorem meets_emptyQueue_waiting (h : Obligations.EmptyQueueIsOneTick) : ∃ u, step sBusy = exec (.identity (cmd 0 [])) u :=
  ⟨_, (h.2.2 sBusy 3 (cmd 0 []) [] rfl rfl rfl).1 _ rfl⟩

theorem sBase_canonical : Canonical sBase :=
  ⟨by decide +kernel, by decide +kernel, fun _ => Nat.zero_le _, by decide +kernel⟩

theorem meets_everyStep (h : Obligations.EveryStepKeepsTheCanonicalForm) : Canonical (tick sBase) := h sBase _ sBase_canonical rfl

theorem meets_homeBay (h : Obligations.HomeBayFoldsTheGroup) : lineBay (2 ^ 44 - 1) = pageBay (2 ^ 34 - 1) := h.2.2.2 _ _ (by decide)

theorem meets_homeBay_bits (h : Obligations.HomeBayFoldsTheGroup) :
    (homeBay (2 ^ 50 - 1)).testBit 3 = ((List.range 8).map fun j => ((2 ^ 50 - 1) / 2 ^ 19).testBit (4 * j + 3)).foldl xor false :=
  h.1 _ (by decide) 3 (by decide)

theorem meets_homeBay_group (h : Obligations.HomeBayFoldsTheGroup) : homeBay (2 ^ 19) = homeBay (2 ^ 20 - 1) := h.2.2.1 _ _ (by decide)

theorem meets_ownEngines (h : Obligations.OwnEnginesNeedNoGrant) : ∃ g ∈ sBase.sec.grants, g.node = 5 :=
  (h.2 sBase 5 1 (2 ^ 30 - 1) true (by decide +kernel)).imp fun _ e => ⟨e.1, e.2.1⟩

theorem meets_setWindow (h : Obligations.SetWindowAtomicsNeverFold) :
    mayFold (reqIn 0x20 (rec 8 65600 128 (z 8)) {} sSetData).1 sSetData = false :=
  h.1 _ _ 0 (by decide +kernel) (by decide +kernel) (by decide +kernel)

theorem meets_heat (h : Obligations.HeatFollowsDecayEpochs) : (page (touchPage 0 sData) 0).epoch = sData.store.epoch :=
  congrArg PageEnt.epoch (h.2 sData 0 (by decide +kernel))

theorem meets_beyond (h : Obligations.BranchesStayInTheProgram) :
    settleGo 2 (2 ^ 27 + 1) sOver = settleGo 1 (2 ^ 27 + 1) (setStream (2 ^ 27 + 1) (fun t => { t with halted := true }) sOver) := by
  refine h.2.2 1 _ _ ?_ ?_ ?_ ?_ ?_ ?_ ?_ <;> decide +kernel

theorem meets_publish_newer (h : Obligations.PublishFollowsItsVersion) : ∃ t, exec (.publish (pub 64 7)) sVersion = .next t := by
  refine ⟨_, (h (pub 64 7) sVersion 0 ?_ ?_).2.2 ?_ ?_ ?_⟩ <;> decide +kernel

theorem meets_publish_conflict (h : Obligations.PublishFollowsItsVersion) : ∃ t, exec (.publish (pub 64 6)) sVersion = .next t := by
  refine ⟨_, (h (pub 64 6) sVersion 0 ?_ ?_).2.1 ?_ ?_⟩ <;> decide +kernel

theorem meets_publish_frozen (h : Obligations.PublishFollowsItsVersion) : ∃ t, exec (.publish (pub 128 0)) sVersion = .next t := by
  refine ⟨_, (h (pub 128 0) sVersion 0 ?_ ?_).1 ?_⟩ <;> decide +kernel

theorem meets_bytes (h : Obligations.BytesReadBackAsWritten) : readByte (writeBytes 64 [7, 8] sVersion) 65 = 8 :=
  (h.1 sVersion 64 [7, 8] 65 (by decide +kernel)).trans rfl

theorem meets_bytes_erased (h : Obligations.BytesReadBackAsWritten) : readByte (eraseRange 64 1 sVersion) 64 = 0 :=
  (h.2.1 sVersion 64 1 64 (by decide +kernel)).trans rfl

theorem meets_bytes_form (h : Obligations.BytesReadBackAsWritten) : Memory.wf (writeBytes 64 [0] sVersion).store.mem = true :=
  (h.2.2 sVersion 64 [0] 0 (by decide +kernel)).1

theorem meets_writesChange (h : Obligations.WritesChangeOnlyTheirBytes) : ∃ t, exec (.store (rec 8 64 0 [9])) sVersion = .next t := by
  refine ⟨_, (h Instr.store 0x10 (rec 8 64 0 [9]) sVersion 0 (by simp [lineWrites]) ?_ ?_ ?_).1⟩ <;> decide +kernel

theorem meets_writesChange_first (h : Obligations.WritesChangeOnlyTheirBytes) (a : Nat) :
    readByte (atTurn 0x10 (rec 8 64 0 [9]) {} sVersion 0).2 a = readByte sVersion a := by
  refine ((h Instr.store 0x10 (rec 8 64 0 [9]) sVersion 0 (by simp [lineWrites]) ?_ ?_ ?_).2.2.2.2.2.2 rfl ?_).1 a <;> decide +kernel

theorem meets_queries (h : Obligations.FelsetQueriesChangeNoData) :
    ∃ t, exec (.partQuery (cmd 1 ([31] ++ z 7))) sBase = .next t ∧ t.store = sBase.store :=
  ⟨_, rfl, (h.1 Instr.partQuery (by simp [felsetQueries]) _ _ _ rfl).1⟩

theorem meets_queries_page (h : Obligations.FelsetQueriesChangeNoData) :
    ∃ t, exec (.pageQuery (cmd 1 (le 8 65536))) sBase = .next t ∧ t.store.mem = sBase.store.mem :=
  ⟨_, rfl, (h.2 _ _ _ rfl).1⟩

theorem meets_transport (h : Obligations.TransportAndReadingsChangeNoData) :
    ∃ t, exec (.ackTimer 5) sBase = .next t ∧ t.store = sBase.store :=
  ⟨_, rfl, (h (.ackTimer 5) sBase _ (.inr (.inr (.inr (.inl ⟨5, rfl⟩)))) rfl).1⟩

end Sys2Proof.Tests
end

/-! PROOF. Issue of the head word of a stream: what the sequencer holds when a word has its effect, how an issued scalar word is settled, and where a branch or the end of the words leads (R231-R233, R238). -/

namespace Sys2Proof.Machine

/-! ### The entry of a stream after an update -/

theorem stream_ne_default_of_pc {t : Stream} (h : t.pc ≠ 0) : t ≠ {} := by
  rintro rfl
  exact h rfl

/-- An update that leaves a position other than 0 is read back: the entry is not the empty one. -/
theorem stream_setStream_of_pc (sid : Nat) (f : Stream → Stream) (s : State) (h : (f (stream s sid)).pc ≠ 0) :
    stream (setStream sid f s) sid = f (stream s sid) :=
  kget_kmod_same ({} : Stream) s.core.streams sid f (stream_ne_default_of_pc h)

/-- A statistics counter, with the health event of its overflow, is no part of the compute core. -/
@[simp] theorem bump_core (a : Nat) (s : State) : (bump a s).core = s.core :=
  (bump_quiet s a s ⟨rfl, rfl, rfl, rfl, rfl, rfl, rfl, rfl, rfl, rfl, [], by simp⟩).core

@[simp] theorem stream_bump (a : Nat) (s : State) (sid : Nat) : stream (bump a s) sid = stream s sid := by
  simp [stream]

/-! ### What an issue leaves of the stream's own fields -/

@[simp] theorem setReg_pc (r v : Nat) (t : Stream) : (setReg r v t).pc = t.pc := by
  unfold setReg; split <;> rfl

@[simp] theorem setReg_count (r v : Nat) (t : Stream) : (setReg r v t).count = t.count := by
  unfold setReg; split <;> rfl

@[simp] theorem setTok_count (k v : Nat) (t : Stream) : (setTok k v t).count = t.count := rfl

/-- The counts a waiting word takes are tokens: the length of the program stays. -/
@[simp] theorem takeWait_count (w : BitVec 256) (t : Stream) : (takeWait w t).count = t.count := by
  have taken : ∀ (ks : List Nat) (u : Stream),
      (ks.foldl (fun t k => if bit (wImm w) k then setTok k (tok t k - 1) t else t) u).count = u.count := by
    intro ks
    induction ks with
    | nil => intro u; rfl
    | cons k ks ih => intro u; rw [List.foldl_cons, ih]; split <;> rfl
  unfold takeWait
  split <;> split <;> simp [taken]

/-- The stream when its head word has its effect. -/
theorem stream_wordIn (sid : Nat) (w : BitVec 256) (s : State) :
    stream (wordIn sid w s) sid = { takeWait w (stream s sid) with
      issueNext := (stream s sid).issueNext + 1, pc := (stream s sid).pc + 1,
      fetched := kput .no (stream s sid).fetched (stream s sid).pc .no,
      issued := (stream s sid).issued ++ [issuedOf (stream s sid) w] } := by
  unfold wordIn
  rw [stream_setStream_of_pc _ _ _ (Nat.succ_ne_zero _), stream_bump]

theorem stream_wordIn_pc (sid : Nat) (w : BitVec 256) (s : State) :
    (stream (wordIn sid w s) sid).pc = (stream s sid).pc + 1 := by rw [stream_wordIn]

theorem stream_wordIn_count (sid : Nat) (w : BitVec 256) (s : State) :
    (stream (wordIn sid w s) sid).count = (stream s sid).count := by
  rw [stream_wordIn]
  exact takeWait_count w _

/-! ### Issue (R233) -/

@[simp] theorem issuedOf_word (t : Stream) (w : BitVec 256) : (issuedOf t w).word = w := rfl

/-- A head word that may issue has its effect in the state `wordIn`, and its stream is settled after it. -/
theorem issueWord_of_headIs {op sid : Nat} {w : BitVec 256} {s : State} (eff : Nat → Issued → State → State)
    (h : headIs op sid w s = true) :
    issueWord op eff s = settle sid (eff sid (issuedOf (stream s sid) w) (wordIn sid w s)) := by
  simp only [headIs, Bool.and_eq_true, decide_eq_true_eq] at h
  obtain ⟨⟨⟨hhead, hop⟩, hheader⟩, hmay⟩ := h
  simp only [issueWord, hhead, hop, hheader, hmay, decide_true, Bool.and_true, if_true]
  rfl

theorem scalarWord_of_scalarOk {i : Issued} (eff : Nat → Issued → State → State) (sid : Nat) (s : State)
    (h : scalarOk i.word = true) : scalarWord eff sid i s = eff sid i s := if_pos h

/-- A scalar word that keeps its field rules has its effect when it issues. -/
theorem issueWord_scalarWord {op sid : Nat} {w : BitVec 256} {s : State} (eff : Nat → Issued → State → State)
    (h : headIs op sid w s = true) (hok : scalarOk w = true) :
    issueWord op (scalarWord eff) s = settle sid (eff sid (issuedOf (stream s sid) w) (wordIn sid w s)) := by
  rw [issueWord_of_headIs _ h, scalarWord_of_scalarOk _ _ _ (by rwa [issuedOf_word])]

/-- BR continues at its target where its condition holds, and completes where it does not. -/
theorem exec_br_of_headIs {sid : Nat} {w : BitVec 256} {s : State} (h : headIs 0x04 sid w s = true) (hok : scalarOk w = true) :
    let i := issuedOf (stream s sid) w
    exec .br s = .next (settle sid
      (if brCond (wFunc w) i.base (secondOperand i (sext 32 (wf w 223 192))) then branchTo sid i (wordIn sid w s)
       else completeWord sid i.num (wordIn sid w s))) := by
  rw [exec_br, execBr, issueWord_scalarWord _ h hok]
  rfl

/-- LOOP continues at its target where the register it counts down is not 0, and completes where it is. -/
theorem exec_loop_of_headIs {sid : Nat} {w : BitVec 256} {s : State} (h : headIs 0x05 sid w s = true) (hok : scalarOk w = true) :
    let i := issuedOf (stream s sid) w
    let v := (regVal (stream (wordIn sid w s) sid) (wRd w) + 2 ^ 64 - 1) % 2 ^ 64
    let t := setStream sid (setReg (wRd w) v) (wordIn sid w s)
    exec .loop s = .next (settle sid (if v ≠ 0 then branchTo sid i t else completeWord sid i.num t)) := by
  rw [exec_loop, execLoop, issueWord_scalarWord _ h hok]
  rfl

/-! ### Targets (R238) -/

/-- The word offset of a branch is IMM's upper half, two's complement. -/
theorem toInt_branchOffset (w : BitVec 256) :
    (BitVec.ofNat 32 (wf w 255 224)).toInt
      = if wf w 255 224 < 2 ^ 31 then (wf w 255 224 : Int) else (wf w 255 224 : Int) - 2 ^ 32 := by
  have hlt : wf w 255 224 < 2 ^ 32 := Nat.mod_lt _ (by decide)
  rw [BitVec.toInt_eq_toNat_cond, BitVec.toNat_ofNat, Nat.mod_eq_of_lt hlt]
  split <;> split <;> omega

/-- A branch to no word of the program fails its own word with cause BRANCH. -/
theorem branchTo_outside (sid : Nat) (i : Issued) (s : State)
    (h : (i.pc : Int) + (BitVec.ofNat 32 (wf i.word 255 224)).toInt < 0
      ∨ ((stream s sid).count : Int) ≤ i.pc + (BitVec.ofNat 32 (wf i.word 255 224)).toInt) :
    branchTo sid i s = failWord sid i.num i.pc sBAD 9 s := by
  rw [toInt_branchOffset] at h
  exact if_neg (by omega)

/-- Issue that passes beyond the last word halts, and the stream is settled as a halted one. -/
theorem settleGo_beyond (n sid : Nat) (s : State) (hcur : s.core.cur = some sid) (hsus : s.core.suspending = false)
    (hended : (stream s sid).st ≠ .ended) (hqueued : (stream s sid).st ≠ .queued)
    (hstop : (stream s sid).stopping = false) (hhalt : (stream s sid).halted = false)
    (hend : (stream s sid).count ≤ (stream s sid).pc) :
    settleGo (n + 1) sid s = settleGo n sid (setStream sid (fun t => { t with halted := true }) s) := by
  simp [settleGo, hcur, hsus, hended, hqueued, hstop, hhalt, hend]

/-! ### The obligation -/

/-- Settles O55: the effect of BR and LOOP is `branchTo`, which sees the WORD_COUNT the stream had before the issue, so `branchTo_outside` applies; the end of the words is one turn of `settleGo`. -/
theorem branchesStayInTheProgram : Obligations.BranchesStayInTheProgram := by
  unfold Obligations.BranchesStayInTheProgram
  refine ⟨fun sid w s hhead hok => ?br, fun sid w s hhead hok => ?loop, fun n sid s => settleGo_beyond n sid s⟩
  case br =>
    intro i b n hcond hout
    rw [← stream_wordIn_count sid w s] at hout
    have hfail := branchTo_outside sid i (wordIn sid w s) hout
    exact (exec_br_of_headIs hhead hok).trans
      (congrArg (fun u => Host.Outcome.next (settle sid u)) ((if_pos hcond).trans hfail))
  case loop =>
    intro i v n hv hout
    have hcount : (stream (setStream sid (setReg (wRd w) v) (wordIn sid w s)) sid).count = (stream s sid).count := by
      rw [stream_setStream_of_pc, setReg_count, stream_wordIn_count]
      simp [stream_wordIn_pc]
    rw [← hcount] at hout
    have hfail := branchTo_outside sid i (setStream sid (setReg (wRd w) v) (wordIn sid w s)) hout
    exact (exec_loop_of_headIs hhead hok).trans
      (congrArg (fun u => Host.Outcome.next (settle sid u)) ((if_pos hv).trans hfail))

end Sys2Proof.Machine

/-! PROOF. Step 6 of the admission of a request: what the check of the own engines and streams and that of a fabric node demand of the extent and of the grant table (R132, R372). -/

namespace Sys2Proof.Machine

/-! ### The own engines and streams (R372) -/

@[simp] theorem srcCheck_call (s : State) (sid n prt off : Nat) (w : Bool) :
    srcCheck s (.call sid n) prt off w = ownCheck s prt off := rfl

/-- The own engines and streams are admitted exactly to a healthy extent of their partition in XSTATE 1: a refusal is DENIED, or REVOKED where only the XSTATE is wrong. -/
theorem ownCheck_eq_sOK_iff (s : State) (prt off : Nat) :
    ownCheck s prt off = sOK ↔ extentOf off < mapExtents s ∧ (extent s (extentOf off)).part = prt
      ∧ (extent s (extentOf off)).failed = false ∧ (extent s (extentOf off)).xstate = 1 := by
  have hdenied : sDENIED ≠ sOK := by decide
  have hrevoked : sREVOKED ≠ sOK := by decide
  dsimp only [ownCheck]
  split
  case isTrue hbeyond => exact iff_of_false hdenied fun ⟨hbelow, _⟩ => by omega
  case isFalse hbelow =>
    split
    case isTrue hforeign =>
      refine iff_of_false hdenied fun ⟨_, hpart, hfailed, hx⟩ => ?_
      simp [hpart, hfailed, hx] at hforeign
    case isFalse howned =>
      split
      case isTrue hx => exact iff_of_false hrevoked fun ⟨_, _, _, hone⟩ => hx hone
      case isFalse hx =>
        simp only [not_or, Decidable.not_not, Bool.not_eq_true] at howned hx
        obtain ⟨_, hfailed, hpart⟩ := howned
        exact iff_of_true rfl ⟨by omega, hpart, hfailed, hx⟩

/-! ### A fabric node (R132, R376) -/

@[simp] theorem srcCheck_agent (s : State) (n prt off : Nat) (w : Bool) :
    srcCheck s (.agent n) prt off w = grantCheck s n prt off w := rfl

/-- The grant that `grantOf` finds is an entry of the table: it names the node, and its run holds the extent. -/
theorem grantOf_eq_some {s : State} {n e : Nat} {g : Grant} (h : grantOf s n e = some g) :
    g ∈ s.sec.grants ∧ g.node = n ∧ g.first ≤ e ∧ e < g.first + g.count := by
  have hfound := List.find?_some h
  simp only [Bool.and_eq_true, decide_eq_true_eq] at hfound
  exact ⟨List.mem_of_find?_eq_some h, hfound⟩

/-- A node for which the table has no grant on the extent is answered DENIED, whatever the extent's state. -/
theorem grantCheck_of_no_grant {s : State} {n off : Nat} (prt : Nat) (w : Bool) (h : grantOf s n (extentOf off) = none) :
    grantCheck s n prt off w = sDENIED := by
  simp [grantCheck, h]

/-! ### The obligation -/

/-- Settles O52: admission of the own engines is `ownCheck`, which does not look at the grant table; that of a node is `grantCheck`, which denies every request without a grant on its extent. -/
theorem ownEnginesNeedNoGrant : Obligations.OwnEnginesNeedNoGrant := by
  unfold Obligations.OwnEnginesNeedNoGrant
  refine ⟨fun s sid n prt off w => ?own, fun s n prt off w hadmitted => ?node⟩
  case own =>
    rw [srcCheck_call]
    exact ownCheck_eq_sOK_iff s prt off
  case node =>
    rw [srcCheck_agent] at hadmitted
    cases hgrant : grantOf s n (extentOf off) with
    | none => exact absurd ((grantCheck_of_no_grant prt w hgrant).symm.trans hadmitted) (by decide)
    | some g => exact ⟨g, grantOf_eq_some hgrant⟩

end Sys2Proof.Machine

/-! PROOF. The rules of one-line writes and of folding: what a write that is open at its line does when its turn comes, and that no atomic folds in the data window of a mirrored or erasure set (R140, R148, R150, R413). -/

namespace Sys2Proof.Machine

/-! ### The data window of a set is no place to fold (R413) -/

/-- A data unit in the window of a mirrored (mode 2) or erasure (mode 3) set is a place without folding. -/
theorem noFold_of_dataWindow {s : State} {off i : Nat} (hwindow : windowOf s off = some i)
    (hunit : (unitOf s i off).isSome = true) (hmode : (setSt s i).mode = 2 ∨ (setSt s i).mode = 3) :
    noFold s off = true := by
  simpa [noFold, hwindow, hunit] using hmode

theorem mayFold_of_noFold {it : Item} {s : State} (h : noFold s it.off = true) : mayFold it s = false := by
  simp [mayFold, h]

/-! ### The way to the queue (R148) -/

@[simp] theorem reqIn_fst_op (op : Nat) (c : TxnReq) (y : SymErr) (s : State) : (reqIn op c y s).1.op = op := rfl

/-- The limits of the engines (R273, R306) are for invocations of engines only. -/
theorem quernFull_of_op_lt {it : Item} (s : State) (h : it.op < 0x60) : quernFull it s = false := by
  have hnotQuern : within it.op 0x60 0x63 = false := decide_eq_false (by omega)
  simp [quernFull, hnotQuern]

theorem hoistFull_of_op_lt {it : Item} (s : State) (h : it.op < 0x60) : hoistFull it s = false := by
  have hnotHoist : within it.op 0x64 0x67 = false := decide_eq_false (by omega)
  simp [hoistFull, hnotHoist]

/-- A request below the coherence and engine opcodes that has room and may not fold goes to the queue of its line. -/
theorem goesToQueue_of_roomAt {x : Item × State} (hop : x.1.op < 0x50) (hfold : mayFold x.1 x.2 = false)
    (hroom : roomAt x.2 x.1 = (sOK, false)) : goesToQueue x = true := by
  have hwb : x.1.op ≠ 0x53 := by omega
  have hevict : x.1.op ≠ 0x54 := by omega
  have hquern := quernFull_of_op_lt (it := x.1) x.2 (by omega)
  have hhoist := hoistFull_of_op_lt (it := x.1) x.2 (by omega)
  simp [goesToQueue, hwb, hevict, hfold, hroom, hquern, hhoist]

/-! ### A write at its line (R140, R148) -/

/-- What `writeOpen` grants a write: no combining entry is open at its line, its set neither denies nor holds it, its page takes it, the line is ready, no control line and no REFUSED keeps it back, and what it leaves of its line is read without error. -/
theorem of_writeOpen {it : Item} {line : Nat} {s : State} (h : writeOpen it line s = true) :
    combOpen s line = false
    ∧ (∀ m, setRule s (line * 64) (itemWrite it) ≠ .denied m) ∧ setRule s (line * 64) (itemWrite it) ≠ .held
    ∧ pageForWrite (line / 1024) s = .go ∧ prepWrite line none s = .ready
    ∧ (decide (it.op = 0x10) && controlWaits it s) = false ∧ refusedHere it s = false
    ∧ (coversLine (writeResult it line s).1 line = true
      ∨ lineReadable s line = true ∧ (fetchLine line {} s).1 = false) := by
  simp only [writeOpen, readsGood, Bool.and_eq_true, Bool.or_eq_true, Bool.not_eq_true'] at h
  obtain ⟨⟨⟨⟨⟨⟨⟨-, hprep⟩, hcomb⟩, hrule⟩, hpage⟩, hcontrol⟩, hrefused⟩, hread⟩ := h
  refine ⟨hcomb, fun m hm => ?denied, fun hm => ?held, ?page, ?prep, hcontrol, hrefused, hread⟩
  case denied => simp [hm] at hrule
  case held => simp [hm] at hrule
  case page =>
    cases hp : pageForWrite (line / 1024) s with
    | go => rfl
    | wait u => simp [hp, isOpen] at hpage
    | answer st u => simp [hp, isOpen] at hpage
  case prep =>
    cases hp : prepWrite line none s with
    | ready => rfl
    | wait => simp [hp, isGo] at hprep
    | go u => simp [hp, isGo] at hprep

/-- A write of one line that is open there and has its page allocated is performed: what `writeResult` gives is written, and answered once its forwards are. -/
theorem serveWrite_of_writeOpen {it : Item} {line : Nat} {s : State} (hone : it.op ≠ 0x12)
    (hopen : writeOpen it line s = true) (halloc : (allocated it line (writeResult it line s).1 s).1 = 0) :
    let w := writeResult it line s
    let p := putLines it.part (itemWrite it) w.1 true (allocated it line w.1 s).2
    serveWrite it line s = some (endWrite it p.1 w.2.1 w.2.2.1 w.2.2.2
      (writeStat it.op w.2.1 (if it.op = 0x10 then applyControl it.off it.payload p.2 else p.2))) := by
  obtain ⟨-, hdenied, hheld, hpage, hprep, hcontrol, -, hread⟩ := of_writeOpen hopen
  intro w p
  unfold serveWrite
  split
  next m hm => exact absurd hm (hdenied m)
  next hm => exact absurd hm hheld
  next =>
    have hmedium : (!coversLine w.1 line && !lineReadable s line) = false := by
      rcases hread with hcovers | ⟨hreadable, -⟩
      · simp [w, hcovers]
      · simp [hreadable]
    have hfetch : (if coversLine w.1 line then (false, s) else fetchLine line {} s)
        = (false, if coversLine w.1 line then s else (fetchLine line {} s).2) := by
      rcases hread with hcovers | ⟨-, hclean⟩
      · simp [w, hcovers]
      · split
        · rfl
        · exact Prod.ext hclean rfl
    simp only [hcontrol, hpage, hprep, hone, Bool.false_eq_true, if_false]
    rw [hmedium, hfetch]
    simp only [Bool.false_eq_true, if_false]
    exact (if_neg (not_not_intro halloc)).trans rfl

/-- A write of one line whose turn has come, alone in the queues, is performed there. -/
theorem tryItem_of_writeOpen {it : Item} {s : State} (hop : 0x10 ≤ it.op ∧ it.op ≤ 0x40) (hone : it.op ≠ 0x12)
    (hfree : itemFree it s = true) (halone : s.home.waitq = [it]) (hopen : writeOpen it (it.off / 64) s = true) :
    tryItem s it = serveWrite it (it.off / 64) s := by
  obtain ⟨hcomb, -, -, -, -, -, hrefused, -⟩ := of_writeOpen hopen
  rw [tryItem_line it s hfree (by omega) (by omega) (by omega) hone, atLine_alone it _ _ s halone hcomb]
  split
  case h_8 => simp [hrefused]
  all_goals omega

/-! ### The records of one-line writes (Tables 5.3 and 5.4) -/

/-- Each command that writes one line is the request of its opcode. -/
theorem exec_of_mem_lineWrites {k : TxnReq → Instr} {op : Nat} (h : (k, op) ∈ lineWrites) (c : TxnReq) (s : State) :
    exec (k c) s = .next (request op c {} s) := by
  have hall : ∀ p ∈ lineWrites, exec (p.1 c) s = .next (request p.2 c {} s) := by
    simp only [lineWrites, List.forall_mem_cons]
    exact ⟨rfl, rfl, rfl, rfl, rfl, rfl, rfl, rfl, rfl, rfl, rfl, rfl, rfl, rfl, rfl, nofun⟩
  exact hall _ h

theorem op_of_mem_lineWrites {k : TxnReq → Instr} {op : Nat} (h : (k, op) ∈ lineWrites) :
    (0x10 ≤ op ∧ op ≤ 0x40) ∧ op ≠ 0x12 := by
  have hall : ∀ p ∈ lineWrites, (0x10 ≤ p.2 ∧ p.2 ≤ 0x40) ∧ p.2 ≠ 0x12 := by decide
  exact hall _ h

/-- A write of one line that comes to its line, which is open to it, is performed there. -/
theorem exec_lineWrite_of_writeOpen {k : TxnReq → Instr} {op : Nat} (hk : (k, op) ∈ lineWrites) (c : TxnReq) (s : State) (n : Nat) :
    let x := atTurn op c {} s n; let it := x.1; let t := x.2; let line := it.off / 64; let w := writeResult it line t
    comes op c {} s n = true → writeOpen it line t = true → (allocated it line w.1 t).1 = 0 →
    let p := putLines it.part (itemWrite it) w.1 true (allocated it line w.1 t).2
    exec (k c) s = onward op c {} s n (endWrite it p.1 w.2.1 w.2.2.1 w.2.2.2
      (writeStat op w.2.1 (if op = 0x10 then applyControl it.off it.payload p.2 else p.2))) := by
  intro x it t line w hcomes hopen halloc p
  obtain ⟨-, -, -, -, halone, hitop, -, -, hfree⟩ := comes_iff op c {} s n hcomes
  obtain ⟨hrange, hone⟩ := op_of_mem_lineWrites hk
  have hserved := serveWrite_of_writeOpen (hitop.trans_ne hone) hopen halloc
  have htry := tryItem_of_writeOpen (hitop.symm ▸ hrange) (hitop.trans_ne hone) hfree halone hopen
  rw [hitop] at hserved
  exact (exec_of_mem_lineWrites hk c s).trans (request_onward op c {} s _ n hcomes (htry.trans hserved))

/-! ### The obligation -/

/-- Settles O53: `mayFold` asks for a place that is not `noFold`, and a data unit of a mirrored or erasure window is one, so an atomic with room there is queued (`goesToQueue_of_roomAt`) and performed when its turn comes (`exec_lineWrite_of_writeOpen`). -/
theorem setWindowAtomicsNeverFold : Obligations.SetWindowAtomicsNeverFold := by
  unfold Obligations.SetWindowAtomicsNeverFold
  refine ⟨fun it s i hwindow hunit hmode => ?never, ?queued⟩
  case never => exact mayFold_of_noFold (noFold_of_dataWindow hwindow hunit hmode)
  case queued =>
    intro k op c s i hk hop y hwindow hunit hmode _ hroom
    have hrange : 0x20 ≤ op ∧ op ≤ 0x28 := of_decide_eq_true hop
    have hfold : mayFold y.1 y.2 = false := mayFold_of_noFold (noFold_of_dataWindow hwindow hunit hmode)
    have hlow : y.1.op < 0x50 := by
      rw [reqIn_fst_op]
      omega
    have hnoStore : op ≠ 0x10 := by omega
    refine ⟨goesToQueue_of_roomAt hlow hfold hroom, fun n => ?_⟩
    have hperformed := exec_lineWrite_of_writeOpen hk c s n
    simpa only [if_neg hnoStore] using hperformed

end Sys2Proof.Machine

/-! PROOF. The invariant of every step: each command keeps it by the law of its meaning, and so does the time that passes when none waits. -/

namespace Sys2Proof.Machine

/-- Every command keeps the canonical form. -/
theorem exec_keeps (i : Instr) (s u : State) (h : Canonical s) (hnext : exec i s = .next u) : Canonical u := by
  cases i with
  | powerGoodRise b => exact execPowerGoodRise_keeps b s h u hnext
  | powerGoodFall => exact execPowerGoodFall_keeps s h u hnext
  | resetNRise lowNs b => exact execResetNRise_keeps lowNs b s h u hnext
  | resetNFall => exact execResetNFall_keeps s h u hnext
  | enterService => exact execEnterService_keeps s h u hnext
  | startHalt => exact execStartHalt_keeps s h u hnext
  | thermalTrip => exact execThermalTrip_keeps s h u hnext
  | pllLockLoss idx => exact execPllLockLoss_keeps idx s h u hnext
  | islandRelock idx ok => exact execIslandRelock_keeps idx ok s h u hnext
  | islandLockTimeout idx => exact execIslandLockTimeout_keeps idx s h u hnext
  | rateStepPauseEnd idx => exact execRateStepPauseEnd_keeps idx s h u hnext
  | bayBeatWindow b rate beats => exact execBayBeatWindow_keeps b rate beats s h u hnext
  | timestampCompare drift => exact execTimestampCompare_keeps drift s h u hnext
  | railSetWrite c => exact execRailSetWrite_keeps c s h u hnext
  | powerSample r => exact execPowerSample_keeps r s h u hnext
  | avsReadTimeout rail sinceNs => exact execAvsReadTimeout_keeps rail sinceNs s h u hnext
  | decayEpoch => exact execDecayEpoch_keeps s h u hnext
  | heatSweep => exact execHeatSweep_keeps s h u hnext
  | sluiceMoveStart q => exact execSluiceMoveStart_keeps q s h u hnext
  | sluiceDemoteTrigger t => exact execSluiceDemoteTrigger_keeps t s h u hnext
  | moveSwitch page => exact execMoveSwitch_keeps page s h u hnext
  | pageMapLineFill group uncorrectable => exact execPageMapLineFill_keeps group uncorrectable s h u hnext
  | t3ReadDone r => exact execT3ReadDone_keeps r s h u hnext
  | millpondGcStart q => exact execMillpondGcStart_keeps q s h u hnext
  | millpondBlockErase q blk => exact execMillpondBlockErase_keeps q blk s h u hnext
  | millpondProgramDone q blk ok => exact execMillpondProgramDone_keeps q blk ok s h u hnext
  | millpondScanDone q => exact execMillpondScanDone_keeps q s h u hnext
  | ktFrameRx f => exact execKtFrameRx_keeps f s h u hnext
  | ack a => exact execAck_keeps a s h u hnext
  | nack node ack nextHeld => exact execNack_keeps node ack nextHeld s h u hnext
  | probe node plane token txTs => exact execProbe_keeps node plane token txTs s h u hnext
  | probeReply node plane token txTs => exact execProbeReply_keeps node plane token txTs s h u hnext
  | ackTimer node => exact execAckTimer_keeps node s h u hnext
  | rtoExpiry node => exact execRtoExpiry_keeps node s h u hnext
  | probeTimer node => exact execProbeTimer_keeps node s h u hnext
  | linkDown link => exact execLinkDown_keeps link s h u hnext
  | linkReformDone link ok => exact execLinkReformDone_keeps link ok s h u hnext
  | portModeWrite c => exact execPortModeWrite_keeps c s h u hnext
  | sessionOpen r => exact execSessionOpen_keeps r s h u hnext
  | sessionOpenDone node => exact execSessionOpenDone_keeps node s h u hnext
  | sessionAccept r => exact execSessionAccept_keeps r s h u hnext
  | sessionOpenResend node => exact execSessionOpenResend_keeps node s h u hnext
  | sessionClose node reason => exact execSessionClose_keeps node reason s h u hnext
  | sessionIdleClose node => exact execSessionIdleClose_keeps node s h u hnext
  | cacherFlushTimeout node => exact execCacherFlushTimeout_keeps node s h u hnext
  | saRekey node sc => exact execSaRekey_keeps node sc s h u hnext
  | load c syms => exact execLoad_keeps c syms s h u hnext
  | loadLines c => exact execLoadLines_keeps c s h u hnext
  | store c => exact execStore_keeps c s h u hnext
  | storeMasked c => exact execStoreMasked_keeps c s h u hnext
  | storeLines c => exact execStoreLines_keeps c s h u hnext
  | storeFlag c => exact execStoreFlag_keeps c s h u hnext
  | atomicAdd c => exact execAtomicAdd_keeps c s h u hnext
  | atomicFadd c => exact execAtomicFadd_keeps c s h u hnext
  | atomicAnd c => exact execAtomicAnd_keeps c s h u hnext
  | atomicOr c => exact execAtomicOr_keeps c s h u hnext
  | atomicXor c => exact execAtomicXor_keeps c s h u hnext
  | atomicSmin c => exact execAtomicSmin_keeps c s h u hnext
  | atomicSmax c => exact execAtomicSmax_keeps c s h u hnext
  | atomicUmin c => exact execAtomicUmin_keeps c s h u hnext
  | atomicUmax c => exact execAtomicUmax_keeps c s h u hnext
  | atomicSwap c => exact execAtomicSwap_keeps c s h u hnext
  | atomicCas c => exact execAtomicCas_keeps c s h u hnext
  | publish c => exact execPublish_keeps c s h u hnext
  | msgAppend c => exact execMsgAppend_keeps c s h u hnext
  | msgTake c => exact execMsgTake_keeps c s h u hnext
  | combineDrainTimer line => exact execCombineDrainTimer_keeps line s h u hnext
  | homeDeadline node tag => exact execHomeDeadline_keeps node tag s h u hnext
  | requestDeadline node tag => exact execRequestDeadline_keeps node tag s h u hnext
  | retryBackoff node tag => exact execRetryBackoff_keeps node tag s h u hnext
  | weirWindow busyA capA busyB capB => exact execWeirWindow_keeps busyA capA busyB capB s h u hnext
  | rdShared c => exact execRdShared_keeps c s h u hnext
  | rdOwn c => exact execRdOwn_keeps c s h u hnext
  | upgrade c => exact execUpgrade_keeps c s h u hnext
  | wbDirty c => exact execWbDirty_keeps c s h u hnext
  | evictClean c => exact execEvictClean_keeps c s h u hnext
  | grantAck c => exact execGrantAck_keeps c s h u hnext
  | snpInvResponse r => exact execSnpInvResponse_keeps r s h u hnext
  | snpDownResponse r => exact execSnpDownResponse_keeps r s h u hnext
  | snpFlushBayResponse node tag => exact execSnpFlushBayResponse_keeps node tag s h u hnext
  | raceInvReturn line => exact execRaceInvReturn_keeps line s h u hnext
  | snoopLimitExpiry line => exact execSnoopLimitExpiry_keeps line s h u hnext
  | sliceFlushTimeout bay => exact execSliceFlushTimeout_keeps bay s h u hnext
  | runStream c => exact execRunStream_keeps c s h u hnext
  | abortStream c => exact execAbortStream_keeps c s h u hnext
  | queryStream c => exact execQueryStream_keeps c s h u hnext
  | streamSchedule => exact execStreamSchedule_keeps s h u hnext
  | sliceUsExpiry => exact execSliceUsExpiry_keeps s h u hnext
  | operationBoundary => exact execOperationBoundary_keeps s h u hnext
  | maxMsExpiry => exact execMaxMsExpiry_keeps s h u hnext
  | streamWordFetch idx => exact execStreamWordFetch_keeps idx s h u hnext
  | nop => exact execNop_keeps s h u hnext
  | halt => exact execHalt_keeps s h u hnext
  | li => exact execLi_keeps s h u hnext
  | alu => exact execAlu_keeps s h u hnext
  | br => exact execBr_keeps s h u hnext
  | loop => exact execLoop_keeps s h u hnext
  | ld => exact execLd_keeps s h u hnext
  | st => exact execSt_keeps s h u hnext
  | waitAll => exact execWaitAll_keeps s h u hnext
  | waitMulti => exact execWaitMulti_keeps s h u hnext
  | tokenSet => exact execTokenSet_keeps s h u hnext
  | notifyWord => exact execNotifyWord_keeps s h u hnext
  | call => exact execCall_keeps s h u hnext
  | mm => exact execMm_keeps s h u hnext
  | vecAdd => exact execVecAdd_keeps s h u hnext
  | vecSub => exact execVecSub_keeps s h u hnext
  | vecMul => exact execVecMul_keeps s h u hnext
  | vecFma => exact execVecFma_keeps s h u hnext
  | vecMin => exact execVecMin_keeps s h u hnext
  | vecMax => exact execVecMax_keeps s h u hnext
  | vecCmp => exact execVecCmp_keeps s h u hnext
  | vecSel => exact execVecSel_keeps s h u hnext
  | vecDiv => exact execVecDiv_keeps s h u hnext
  | vecSqrt => exact execVecSqrt_keeps s h u hnext
  | vecFunc1 => exact execVecFunc1_keeps s h u hnext
  | vecCvt => exact execVecCvt_keeps s h u hnext
  | vecCvtBs => exact execVecCvtBs_keeps s h u hnext
  | vecRedRow => exact execVecRedRow_keeps s h u hnext
  | vecRedAll => exact execVecRedAll_keeps s h u hnext
  | copyIn => exact execCopyIn_keeps s h u hnext
  | copyOut => exact execCopyOut_keeps s h u hnext
  | copyBay => exact execCopyBay_keeps s h u hnext
  | mmComplete => exact execMmComplete_keeps s h u hnext
  | vectorComplete => exact execVectorComplete_keeps s h u hnext
  | dmaCopyComplete sid num => exact execDmaCopyComplete_keeps sid num s h u hnext
  | ldComplete sid num => exact execLdComplete_keeps sid num s h u hnext
  | stComplete sid num => exact execStComplete_keeps sid num s h u hnext
  | callComplete sid num => exact execCallComplete_keeps sid num s h u hnext
  | fill c => exact execFill_keeps c s h u hnext
  | copy c => exact execCopy_keeps c s h u hnext
  | compare c => exact execCompare_keeps c s h u hnext
  | reduce c => exact execReduce_keeps c s h u hnext
  | digest c => exact execDigest_keeps c s h u hnext
  | ecEncode c => exact execEcEncode_keeps c s h u hnext
  | ecCombine c => exact execEcCombine_keeps c s h u hnext
  | qnPortionDone inv portion => exact execQnPortionDone_keeps inv portion s h u hnext
  | qnContrib c => exact execQnContrib_keeps c s h u hnext
  | qnGroupOpen c => exact execQnGroupOpen_keeps c s h u hnext
  | qnGroupDone c => exact execQnGroupDone_keeps c s h u hnext
  | qnGroupAbandon c => exact execQnGroupAbandon_keeps c s h u hnext
  | qnEcdelta c => exact execQnEcdelta_keeps c s h u hnext
  | hsLookup c => exact execHsLookup_keeps c s h u hnext
  | hsGrad c => exact execHsGrad_keeps c s h u hnext
  | hsRowgrad c => exact execHsRowgrad_keeps c s h u hnext
  | hsStepOpen c => exact execHsStepOpen_keeps c s h u hnext
  | hsStepDone c => exact execHsStepDone_keeps c s h u hnext
  | hsStepCloseDone table => exact execHsStepCloseDone_keeps table s h u hnext
  | hsStepAbandon c => exact execHsStepAbandon_keeps c s h u hnext
  | hsStepEnd c => exact execHsStepEnd_keeps c s h u hnext
  | hotRefresh slot => exact execHotRefresh_keeps slot s h u hnext
  | blSearch c => exact execBlSearch_keeps c s h u hnext
  | blTimeCut node tag => exact execBlTimeCut_keeps node tag s h u hnext
  | blInsert c => exact execBlInsert_keeps c s h u hnext
  | blDelete c => exact execBlDelete_keeps c s h u hnext
  | blMerge c => exact execBlMerge_keeps c s h u hnext
  | fsHello c => exact execFsHello_keeps c s h u hnext
  | fsOpen c => exact execFsOpen_keeps c s h u hnext
  | fsClose c => exact execFsClose_keeps c s h u hnext
  | fsIdleExpiry fsid => exact execFsIdleExpiry_keeps fsid s h u hnext
  | identity c => exact execIdentity_keeps c s h u hnext
  | attest c => exact execAttest_keeps c s h u hnext
  | auditRead c => exact execAuditRead_keeps c s h u hnext
  | auditHead c => exact execAuditHead_keeps c s h u hnext
  | auditAck c => exact execAuditAck_keeps c s h u hnext
  | auditEraseDone => exact execAuditEraseDone_keeps s h u hnext
  | cwRead c => exact execCwRead_keeps c s h u hnext
  | cwWrite c => exact execCwWrite_keeps c s h u hnext
  | cwWriteMulti c => exact execCwWriteMulti_keeps c s h u hnext
  | scratchWinWrite c => exact execScratchWinWrite_keeps c s h u hnext
  | shareWrite c => exact execShareWrite_keeps c s h u hnext
  | orderModeWrite c => exact execOrderModeWrite_keeps c s h u hnext
  | peerReachWrite c => exact execPeerReachWrite_keeps c s h u hnext
  | setSlotWrite c => exact execSetSlotWrite_keeps c s h u hnext
  | handover c => exact execHandover_keeps c s h u hnext
  | partEnable c => exact execPartEnable_keeps c s h u hnext
  | partDisable c => exact execPartDisable_keeps c s h u hnext
  | partDisableFinish part => exact execPartDisableFinish_keeps part s h u hnext
  | extAssign c => exact execExtAssign_keeps c s h u hnext
  | extRelease c => exact execExtRelease_keeps c s h u hnext
  | extGrant c => exact execExtGrant_keeps c s h u hnext
  | extRevoke c => exact execExtRevoke_keeps c s h u hnext
  | grantDrainDone node ext => exact execGrantDrainDone_keeps node ext s h u hnext
  | revokeDrainDone ext => exact execRevokeDrainDone_keeps ext s h u hnext
  | scrubStart => exact execScrubStart_keeps s h u hnext
  | scrubDone ext v => exact execScrubDone_keeps ext v s h u hnext
  | extQuery c => exact execExtQuery_keeps c s h u hnext
  | partQuery c => exact execPartQuery_keeps c s h u hnext
  | quotaSet c => exact execQuotaSet_keeps c s h u hnext
  | pagePin c => exact execPagePin_keeps c s h u hnext
  | pageQuery c => exact execPageQuery_keeps c s h u hnext
  | tierUsage c => exact execTierUsage_keeps c s h u hnext
  | qnGroupQuery c => exact execQnGroupQuery_keeps c s h u hnext
  | qnAbandonAll c => exact execQnAbandonAll_keeps c s h u hnext
  | hsStepQuery c => exact execHsStepQuery_keeps c s h u hnext
  | hsStepRelease c => exact execHsStepRelease_keeps c s h u hnext
  | hsHotRefresh c => exact execHsHotRefresh_keeps c s h u hnext
  | blIndexQuery c => exact execBlIndexQuery_keeps c s h u hnext
  | blMergeStop c => exact execBlMergeStop_keeps c s h u hnext
  | setDefine c => exact execSetDefine_keeps c s h u hnext
  | setQuery c => exact execSetQuery_keeps c s h u hnext
  | setRebuild c => exact execSetRebuild_keeps c s h u hnext
  | rebuildBatch slot syms => exact execRebuildBatch_keeps slot syms s h u hnext
  | setForwardResponse node tag status a => exact execSetForwardResponse_keeps node tag status a s h u hnext
  | livenessQuery c => exact execLivenessQuery_keeps c s h u hnext
  | liveBoundExpiry node => exact execLiveBoundExpiry_keeps node s h u hnext
  | healthQuery c => exact execHealthQuery_keeps c s h u hnext
  | healthLogRead c => exact execHealthLogRead_keeps c s h u hnext
  | retire c => exact execRetire_keeps c s h u hnext
  | fiInject c => exact execFiInject_keeps c s h u hnext
  | fiFaultTick inj => exact execFiFaultTick_keeps inj s h u hnext
  | fiStop c => exact execFiStop_keeps c s h u hnext
  | furl c => exact execFurl_keeps c s h u hnext
  | furlEntryStep => exact execFurlEntryStep_keeps s h u hnext
  | wake c arrivedNs => exact execWake_keeps c arrivedNs s h u hnext
  | wakeAdmissionOpen => exact execWakeAdmissionOpen_keeps s h u hnext
  | imgStage c => exact execImgStage_keeps c s h u hnext
  | imgWrite c => exact execImgWrite_keeps c s h u hnext
  | imgVerifyDone slot => exact execImgVerifyDone_keeps slot s h u hnext
  | imgQuery c => exact execImgQuery_keeps c s h u hnext
  | imgActivate c => exact execImgActivate_keeps c s h u hnext
  | fwFloorBlow => exact execFwFloorBlow_keeps s h u hnext
  | strapCommit c => exact execStrapCommit_keeps c s h u hnext
  | keyEnroll c => exact execKeyEnroll_keeps c s h u hnext
  | keyRevoke c => exact execKeyRevoke_keeps c s h u hnext
  | restartPowerUp c b => exact execRestartPowerUp_keeps c b s h u hnext
  | restartDevice c b => exact execRestartDevice_keeps c b s h u hnext
  | mkScreen c => exact execMkScreen_keeps c s h u hnext
  | mkFuseRead c => exact execMkFuseRead_keeps c s h u hnext
  | mkReturn c => exact execMkReturn_keeps c s h u hnext
  | govWindowClose k unit reading => exact execGovWindowClose_keeps k unit reading s h u hnext
  | slowBayWindow => exact execSlowBayWindow_keeps s h u hnext
  | bayMapOut => exact execBayMapOut_keeps s h u hnext
  | leatParityError e => exact execLeatParityError_keeps e s h u hnext
  | sramParityError e => exact execSramParityError_keeps e s h u hnext
  | spareRowReplace e bank => exact execSpareRowReplace_keeps e bank s h u hnext
  | patrolRead line syms => exact execPatrolRead_keeps line syms s h u hnext
  | eventFoldExpiry key => exact execEventFoldExpiry_keeps key s h u hnext
  | tokenHeartbeatMissed => exact execTokenHeartbeatMissed_keeps s h u hnext
  | tokenTransferDone => exact execTokenTransferDone_keeps s h u hnext
  | arbiterFault => exact execArbiterFault_keeps s h u hnext
  | staleConfigWrite half gen => exact execStaleConfigWrite_keeps half gen s h u hnext
  | weirCopyMismatch => exact execWeirCopyMismatch_keeps s h u hnext
  | tapInstructionUpdate t => exact execTapInstructionUpdate_keeps t s h u hnext
  | blMergeTimeLimit index => exact execBlMergeTimeLimit_keeps index s h u hnext

/-- The record that the command engine takes up keeps it, whether its FOP has a row or not. -/
theorem idle_keeps (s t : State) (h : Canonical s) (e : idle s = .next t) : Canonical t := by
  unfold idle at e
  split at e
  case h_1 =>
    cases e
    exact h
  case h_2 fop c u hrec =>
    have hu : Canonical u := nextRecord_keeps s h _ hrec
    split at e
    case h_1 i _ => exact exec_keeps i u t hu e
    case h_2 =>
      cases e
      exact unknownFop_keeps fop c u hu

/-- Settles O49: a step is the command at the front of the queue (`exec_keeps`), or a tick and the next record (`tick_keeps`, `idle_keeps`). -/
theorem everyStepKeepsTheCanonicalForm : Obligations.EveryStepKeepsTheCanonicalForm := by
  unfold Obligations.EveryStepKeepsTheCanonicalForm
  intro s t h e
  unfold step at e
  split at e
  case h_1 => exact idle_keeps _ _ (tick_keeps s h) e
  case h_2 c cs hq =>
    have hrest : cs.all Instr.wf = true := by
      have hall := h.queue
      rw [hq, List.all_cons, Bool.and_eq_true] at hall
      exact hall.2
    exact exec_keeps c _ t (Canonical.of_mk ⟨h.mem, h.scratch, h.stats, hrest⟩) e

end Sys2Proof.Machine

/-! PROOF. Reading a canonical table and the bytes of the range after a write or an erase (R66, R140). -/

namespace Sys2Proof

variable {α : Type} [DecidableEq α]

/-- In a canonical table a written key reads back, the default included, for which the entry goes. -/
theorem kget_kput_self (d : α) (m : KMap α) (lo i : Nat) (x : α) (h : kwfFrom (fun _ => d) lo m = true) :
    kget d (kput d m i x) i = x := by
  by_cases hx : x = d
  · subst hx
    induction m generalizing lo with
    | nil => simp [kput, kget]
    | cons p m ih =>
      obtain ⟨k, v⟩ := p
      simp only [kwfFrom, Bool.and_eq_true, decide_eq_true_eq] at h
      obtain ⟨-, hm⟩ := h
      simp only [kput]
      split
      · next hik => simpa [kget, Nat.ne_of_gt hik] using kget_of_lt x m (k + 1) i hm (by omega)
      · split
        · next hik => simpa using kget_of_lt x m (k + 1) i hm (by omega)
        · next hik => simpa [kget, Ne.symm hik] using ih (k + 1) hm
  · exact kget_kput_same d m i x hx

/-- A read after a write in a canonical table. -/
theorem kget_kput (d : α) (m : KMap α) (i j : Nat) (x : α) (h : kwf (fun _ => d) m = true) :
    kget d (kput d m i x) j = if j = i then x else kget d m j := by
  split
  · next hji =>
    subst hji
    exact kget_kput_self d m 0 j x h
  · next hji => exact kget_kput_other d m i j x hji

omit [DecidableEq α] in
/-- A key that a filter by key keeps reads as before, another one as the default. -/
theorem kget_filter (d : α) (m : KMap α) (q : Nat → Bool) (i : Nat) :
    kget d (m.filter fun p => q p.1) i = if q i then kget d m i else d := by
  induction m with
  | nil => simp [kget]
  | cons p m ih =>
    obtain ⟨k, v⟩ := p
    by_cases hki : k = i
    · subst hki
      cases hq : q k <;> simp_all [kget]
    · cases hq : q k <;> simp_all [kget]

end Sys2Proof

namespace Sys2Proof.Machine

/-- Bytes laid from an address upward are read back, and every other byte reads as before. -/
theorem kget_memPut (m : KMap Byte) (off a : Nat) (bs : List Byte) (h : Memory.wf m = true) :
    kget 0 (memPut m off bs) a = if off ≤ a ∧ a < off + bs.length then bs.getD (a - off) 0 else kget 0 m a := by
  induction bs generalizing m off with
  | nil => rw [if_neg (by simp only [List.length_nil]; omega)]; rfl
  | cons b bs ih =>
    rw [memPut, ih _ _ (kwf_kput 0 m off b h), kget_kput 0 m off a b h]
    by_cases hfirst : a = off
    · subst hfirst
      simp
    · rw [if_neg hfirst]
      by_cases hin : off + 1 ≤ a ∧ a < off + 1 + bs.length
      · rw [if_pos hin, if_pos (by simp only [List.length_cons]; omega), show a - off = (a - (off + 1)) + 1 by omega,
          List.getD_cons_succ]
      · rw [if_neg hin, if_neg (by simp only [List.length_cons]; omega)]

theorem readByte_writeBytes (s : State) (off : Nat) (bs : List Byte) (a : Nat) (h : Memory.wf s.store.mem = true) :
    readByte (writeBytes off bs s) a = if off ≤ a ∧ a < off + bs.length then bs.getD (a - off) 0 else readByte s a :=
  kget_memPut s.store.mem off a bs h

theorem readByte_eraseRange (s : State) (off n a : Nat) :
    readByte (eraseRange off n s) a = if off ≤ a ∧ a < off + n then 0 else readByte s a := by
  have hkept := kget_filter (0 : Byte) s.store.mem (fun k => decide (k < off ∨ off + n ≤ k)) a
  refine hkept.trans ?_
  by_cases hin : off ≤ a ∧ a < off + n
  · rw [if_pos hin, if_neg (by simp only [decide_eq_true_eq]; omega)]
  · rw [if_neg hin, if_pos (by simp only [decide_eq_true_eq]; omega)]
    rfl

/-- Settles O57, by the reads after a write (`kget_memPut`) and after a filter by key (`kget_filter`). -/
theorem bytesReadBackAsWritten : Obligations.BytesReadBackAsWritten := by
  unfold Obligations.BytesReadBackAsWritten
  refine ⟨fun s off bs a h => readByte_writeBytes s off bs a h, fun s off n a _ => readByte_eraseRange s off n a,
    fun s off bs n h => ⟨?written, ?erased⟩⟩
  case written => exact memPut_wf s.store.mem off bs h
  case erased => exact kwf_filter _ _ _ h

end Sys2Proof.Machine

/-! PROOF. Felset queries change no data: all but PAGE_QUERY leave the store as it is; PAGE_QUERY reads its entry through the page-map cache, and the store it leaves differs in that cache and in the entry's heat alone (R64, R71). -/

namespace Sys2Proof.Machine

/-! ### The page-map cache -/

theorem mapEvict_store_pages (g : Nat) (t : CacheTag) (s : State) :
    mapEvict g t s = { s with store := (mapEvict g t s).store } ∧ (mapEvict g t s).store.mem = s.store.mem
      ∧ (mapEvict g t s).store.lineCache = s.store.lineCache ∧ (mapEvict g t s).store.pages = s.store.pages
      ∧ (mapEvict g t s).store.epoch = s.store.epoch := by
  unfold mapEvict
  extract_lets s1
  split <;> exact ⟨rfl, rfl, rfl, rfl, rfl⟩

/-- Bringing a page-map line into its cache changes the cache, its clock and the marks of lost lines. -/
theorem mapTouch_store_pages (g : Nat) (dirty : Bool) (s : State) :
    mapTouch g dirty s = { s with store := (mapTouch g dirty s).store } ∧ (mapTouch g dirty s).store.mem = s.store.mem
      ∧ (mapTouch g dirty s).store.lineCache = s.store.lineCache ∧ (mapTouch g dirty s).store.pages = s.store.pages
      ∧ (mapTouch g dirty s).store.epoch = s.store.epoch := by
  unfold mapTouch
  extract_lets t clk s0 mates s1
  split
  · exact ⟨rfl, rfl, rfl, rfl, rfl⟩
  · split
    · exact ⟨rfl, rfl, rfl, rfl, rfl⟩
    · split
      · exact ⟨rfl, rfl, rfl, rfl, rfl⟩
      · have hs1 : s1 = { s with store := s1.store } ∧ s1.store.mem = s.store.mem
            ∧ s1.store.lineCache = s.store.lineCache ∧ s1.store.pages = s.store.pages ∧ s1.store.epoch = s.store.epoch := by
          unfold s1
          split
          · split
            · next v _ =>
              obtain ⟨hst, hmem, hlc, hpg, hep⟩ := mapEvict_store_pages v.1 v.2 s0
              refine ⟨?_, hmem, hlc, hpg, hep⟩
              rw [hst]
              rfl
            · exact ⟨rfl, rfl, rfl, rfl, rfl⟩
          · exact ⟨rfl, rfl, rfl, rfl, rfl⟩
        obtain ⟨hst, hmem, hlc, hpg, hep⟩ := hs1
        refine ⟨?_, hmem, hlc, hpg, hep⟩
        rw [hst]
        rfl

@[simp] theorem mapTouch_pages (g : Nat) (dirty : Bool) (s : State) : (mapTouch g dirty s).store.pages = s.store.pages :=
  (mapTouch_store_pages g dirty s).2.2.2.1

@[simp] theorem page_mapTouch (g : Nat) (dirty : Bool) (s : State) (p : Nat) : page (mapTouch g dirty s) p = page s p := by
  simp [page]

/-- An edit that leaves a valid entry is read back. -/
theorem page_editPage_self (p : Nat) (f : PageEnt → PageEnt) (s : State) (h : f (page s p) ≠ {}) :
    page (editPage p f s) p = f (page s p) := by
  have hf : f (kget {} (mapTouch (p / 8) true s).store.pages p) ≠ {} := by rwa [mapTouch_pages]
  refine (kget_kmod_same ({} : PageEnt) _ p f hf).trans ?_
  rw [mapTouch_pages]
  rfl

theorem page_editPage_other (p q : Nat) (f : PageEnt → PageEnt) (s : State) (h : q ≠ p) : page (editPage p f s) q = page s q := by
  refine (kget_kmod_other ({} : PageEnt) _ p q f h).trans ?_
  rw [mapTouch_pages]
  rfl

/-! ### What reading a page-map entry changes -/

/-- The store y has the bytes, the line cache and every page of x, but for heat brought up to date. -/
structure PagesRead (x y : Store) : Prop where
  mem : y.mem = x.mem
  lineCache : y.lineCache = x.lineCache
  page : ∀ p, kget {} y.pages p = kget {} x.pages p
    ∨ kget {} y.pages p = { kget {} x.pages p with heat := heatNow x.epoch (kget {} x.pages p), epoch := x.epoch }

theorem PagesRead.refl (x : Store) : PagesRead x x := ⟨rfl, rfl, fun _ => .inl rfl⟩

/-- The state s has what a query must not change as s0 has it, once s0 has read a page-map entry. -/
def MapQuiet (s0 s : State) : Prop := ∃ x, PagesRead s0.store x ∧ Quiet { s0 with store := x } s

/-- The same of the result of a Felset command. -/
def FsMapQ (s0 : State) (r : FsRes) : Prop := ∃ x, PagesRead s0.store x ∧ FsQ { s0 with store := x } r

theorem Quiet.refl (s : State) : Quiet s s := ⟨rfl, rfl, rfl, rfl, rfl, rfl, rfl, rfl, rfl, rfl, [], by simp⟩

theorem Quiet.map {s0 s : State} (h : Quiet s0 s) : MapQuiet s0 s := ⟨s0.store, PagesRead.refl _, h⟩

theorem FsQ.map {s0 : State} {r : FsRes} (h : FsQ s0 r) : FsMapQ s0 r := ⟨s0.store, PagesRead.refl _, h⟩

/-- Steps 4 to 10, for a body that reads a page-map entry. -/
theorem fsOutcome_mapQuiet (s0 : State) (o : FsOp) (se : FSession) (s : State) (hbody : ∀ se s, Quiet s0 s → FsMapQ s0 (o.body se s))
    (h : Quiet s0 s) : FsMapQ s0 (fsOutcome o se s).1 := by
  unfold fsOutcome
  have hb := hbody se s h
  repeat' (first | extract_lets | split)
  · exact (fsFail_quiet _ _ _ h).map
  · exact (fsFail_quiet _ _ _ h).map
  · exact (fsFail_quiet _ _ _ h).map
  · exact (fsFail_quiet _ _ _ h).map
  · exact (fsFail_quiet _ _ _ (bump_quiet _ _ _ h)).map
  · exact (fsBad_quiet _ _ _ h).map
  · exact hb
  · obtain ⟨x, hx, hr⟩ := hb
    exact ⟨x, hx, bump_quiet _ _ _ (State_onSec_quiet _ _ _ hr.st rfl rfl rfl), hr.after, hr.held⟩

/-- The execution and the answer of such a command, which is not audited. -/
theorem fsExecute_mapQuiet (s0 : State) (o : FsOp) (c : FsCmd) (se : FSession) (ck : List Byte) (s : State) (haudit : o.audited = false)
    (hbody : ∀ se s, Quiet s0 s → FsMapQ s0 (o.body se s)) (h : Quiet s0 s) : MapQuiet s0 (fsExecute o c se ck s) := by
  obtain ⟨x, hx, hr⟩ := fsOutcome_mapQuiet s0 o se s hbody h
  refine ⟨x, hx, ?_⟩
  unfold fsExecute
  simp only [haudit, Bool.false_eq_true, if_false]
  repeat' (first | extract_lets | split)
  · exact keepWaiting_quiet _ _ _ _ _ hr.st
  · exact fsAnswer_quiet _ _ _ _ _ _ _ hr
  · exact fsAnswer_quiet _ _ _ _ _ _ _ ⟨auditDenied_quiet _ _ _ _ _ hr.st, hr.after, hr.held⟩
  · exact fsAnswer_quiet _ _ _ _ _ _ _ hr

/-- A record whose command reads a page-map entry: every other way of answering it is quiet. -/
theorem fsTake_mapQuiet (s0 : State) (o : FsOp) (c : FsCmd) (s : State) (haudit : o.audited = false)
    (hbody : ∀ se s, Quiet s0 s → FsMapQ s0 (o.body se s)) (h : Quiet s0 s) : MapQuiet s0 (fsTake o c s) := by
  have hfail : ∀ s k st, Quiet s0 s → Quiet s0 (fsAnswer o.fop c k false noDetail (fsFail s st)) :=
    fun s k st hs => fsAnswer_quiet _ _ _ _ _ _ _ (fsFail_quiet _ _ _ hs)
  have ht := takeFelset_quiet s0 c s h
  unfold fsTake
  split
  · exact h.map
  · extract_lets t se own ck tagOk s1 s2 r
    have h1 : Quiet s0 s1 := bump_quiet _ _ _ ht
    have h2 : Quiet s0 s2 := by unfold s2; split <;> [exact event_quiet _ _ _ h1; exact h1]
    have h3 : Quiet s0 r := setFsession_quiet _ _ _ _ ht
    split
    · exact (hfail _ _ _ ht).map
    · split
      · exact (hfail _ _ _ ht).map
      · split
        · split
          next e =>
          have h4 := auditDenied_quiet s0 o.fop c {} s2 h2
          rw [e] at h4
          exact (fsAnswer_quiet _ _ _ _ _ _ _ (fsFail_quiet _ _ _ h4)).map
        · split
          · exact fsExecute_mapQuiet _ _ _ _ _ _ haudit hbody ht
          · split
            · exact fsExecute_mapQuiet _ _ _ _ _ _ haudit hbody h3
            · split
              · exact (fsSend_quiet _ _ _ _ (bump_quiet _ _ _ h3)).map
              · exact (hfail _ _ _ (bump_quiet _ _ _ ht)).map

theorem runFelset_mapQuiet (s0 : State) (o : FsOp) (c : FsCmd) (s : State) (haudit : o.audited = false)
    (hbody : ∀ se s, Quiet s0 s → FsMapQ s0 (o.body se s)) (h : Quiet s0 s) : MapQuiet s0 (runFelset o c s) := by
  unfold runFelset
  split
  · exact (State_onSec_quiet _ _ _ (takeFelset_quiet s0 c s h) rfl rfl rfl).map
  · obtain ⟨x, hx, hs⟩ := fsTake_mapQuiet s0 o c s haudit hbody h
    exact ⟨x, hx, fsGone_quiet _ _ hs⟩

/-! ### PAGE_QUERY -/

/-- What is quiet but for its store is quiet with that store. -/
theorem Quiet.withStore {s0 s u : State} (h : Quiet s0 s) (hu : u = { s with store := u.store }) :
    Quiet { s0 with store := u.store } u := by
  rw [hu]
  exact ⟨rfl, h.home, h.core, h.eng, h.mach, h.cw, h.pwr, h.parts, h.extents, h.grants, h.audit⟩

theorem mapTouch_pagesRead (g : Nat) (dirty : Bool) (s : State) : PagesRead s.store (mapTouch g dirty s).store := by
  obtain ⟨-, hmem, hlc, hpg, -⟩ := mapTouch_store_pages g dirty s
  exact ⟨hmem, hlc, fun p => .inl (by rw [hpg])⟩

/-- Bringing the heat of a written page up to date, as PAGE_QUERY does. -/
theorem editPage_pagesRead (p : Nat) (s : State) (hvalid : pageValid (page s p) = true) :
    PagesRead s.store (editPage p (fun e => if pageValid e then { e with heat := heatNow s.store.epoch e, epoch := s.store.epoch } else e) s).store := by
  obtain ⟨-, hmem, hlc, -, -⟩ := mapTouch_store_pages (p / 8) true s
  refine ⟨hmem, hlc, fun q => ?_⟩
  by_cases hq : q = p
  · subst hq
    right
    refine (page_editPage_self q _ s ?_).trans ?_
    · rw [if_pos hvalid]
      intro hempty
      have htier : (page s q).tier = 0 := congrArg PageEnt.tier hempty
      simp [pageValid, htier] at hvalid
    · rw [if_pos hvalid]
      rfl
  · exact .inl (page_editPage_other p q _ s hq)

theorem execPageQuery_mapQuiet (c : FsCmd) (s t : State) (hnext : execPageQuery c s = .next t) : MapQuiet s t := by
  cases hnext
  refine runFelset_mapQuiet s _ c s rfl (fun se b hb => ?_) (Quiet.refl s)
  dsimp only
  split
  · exact (fsOk_quiet s _ _ (freeVal_quiet s b hb)).map
  · split
    · next hvalid =>
      have hstore := (mapTouch_store_pages (prm c 0 8 % 2 ^ 50 / 65536 / 8) true b).1
      refine ⟨_, hb.store ▸ editPage_pagesRead _ b hvalid, fsOk_quiet _ _ _ (hb.withStore ?_)⟩
      unfold editPage setPage
      rw [hstore]
      rfl
    · refine ⟨_, hb.store ▸ mapTouch_pagesRead _ false b, fsOk_quiet _ _ _ (hb.withStore ?_)⟩
      exact (mapTouch_store_pages _ false b).1

/-! ### The obligation -/

/-- Each query of the list is quiet. -/
theorem exec_felsetQuery_quiet (k : FsCmd → Instr) (hk : k ∈ felsetQueries) (c : FsCmd) (s t : State) (hnext : exec (k c) s = .next t) :
    Quiet s t := by
  have hs := Quiet.refl s
  simp only [felsetQueries, List.mem_cons, List.not_mem_nil, or_false] at hk
  rcases hk with rfl | rfl | rfl | rfl | rfl | rfl | rfl | rfl | rfl | rfl | rfl | rfl | rfl | rfl | rfl | rfl
  · exact execIdentity_quiet s c s hs t hnext
  · exact execAuditRead_quiet s c s hs t hnext
  · exact execAuditHead_quiet s c s hs t hnext
  · exact execCwRead_quiet s c s hs t hnext
  · exact execExtQuery_quiet s c s hs t hnext
  · exact execPartQuery_quiet s c s hs t hnext
  · exact execTierUsage_quiet s c s hs t hnext
  · exact execQueryStream_quiet s c s hs t hnext
  · exact execQnGroupQuery_quiet s c s hs t hnext
  · exact execHsStepQuery_quiet s c s hs t hnext
  · exact execBlIndexQuery_quiet s c s hs t hnext
  · exact execSetQuery_quiet s c s hs t hnext
  · exact execLivenessQuery_quiet s c s hs t hnext
  · exact execHealthQuery_quiet s c s hs t hnext
  · exact execHealthLogRead_quiet s c s hs t hnext
  · exact execImgQuery_quiet s c s hs t hnext

/-- Settles O59: the queries of the list are quiet (`exec_felsetQuery_quiet`), and PAGE_QUERY is but for the store, of which it reads an entry (`execPageQuery_mapQuiet`). -/
theorem felsetQueriesChangeNoData : Obligations.FelsetQueriesChangeNoData := by
  unfold Obligations.FelsetQueriesChangeNoData
  refine ⟨fun k hk c s t hnext => ?listed, fun c s t hnext => ?pageQuery⟩
  case listed =>
    have h := exec_felsetQuery_quiet k hk c s t hnext
    exact ⟨h.store, h.home, h.core, h.eng, h.mach, h.cw, h.pwr, h.parts, h.extents, h.grants, h.audit⟩
  case pageQuery =>
    obtain ⟨x, hx, h⟩ := execPageQuery_mapQuiet c s t hnext
    have hstore : t.store = x := h.store
    subst hstore
    exact ⟨hx.mem, hx.lineCache, hx.page, h.home, h.core, h.eng, h.mach, h.cw, h.pwr, h.parts, h.extents, h.grants, h.audit⟩

end Sys2Proof.Machine

/-! PROOF. Sending timers of transport and readings of the Governor change no data or protection: each is still by the law of its meaning. -/

namespace Sys2Proof.Machine

theorem Still.refl (s : State) : Still s s := ⟨rfl, rfl, rfl, rfl, rfl, rfl, rfl⟩

/-- Settles O60, command by command. -/
theorem transportAndReadingsChangeNoData : Obligations.TransportAndReadingsChangeNoData := by
  unfold Obligations.TransportAndReadingsChangeNoData
  intro i s t hi hnext
  have hs := Still.refl s
  have h : Still s t := by
    rcases hi with ⟨n, p, k, x, rfl⟩ | ⟨n, p, k, x, rfl⟩ | ⟨n, rfl⟩ | ⟨n, rfl⟩ | ⟨n, r, rfl, hkeys⟩ | ⟨n, rfl, hwaiting⟩ | ⟨l, b, rfl⟩
      | ⟨b, r, n, rfl⟩ | ⟨d, rfl⟩ | ⟨r, rfl⟩ | ⟨j, n, rfl⟩ | ⟨a, ca, b, cb, rfl⟩
    · exact execProbe_still s n p k x s hs t hnext
    · exact execProbeReply_still s n p k x s hs t hnext
    · exact execProbeTimer_still s n s hs t hnext
    · exact execAckTimer_still s n s hs t hnext
    · exact execSaRekey_still s n r s hkeys hs t hnext
    · exact execSessionOpenResend_still s n s hwaiting hs t hnext
    · exact execLinkReformDone_still s l b s hs t hnext
    · exact execBayBeatWindow_still s b r n s hs t hnext
    · exact execTimestampCompare_still s d s hs t hnext
    · exact execPowerSample_still s r s hs t hnext
    · exact execAvsReadTimeout_still s j n s hs t hnext
    · exact execWeirWindow_still s a ca b cb s hs t hnext
  exact ⟨h.store, h.home, h.core, h.eng, h.sec, h.mach, h.cw⟩

end Sys2Proof.Machine

/-! PROOF. The frame of a one-line write: around the bytes that `writeResult` lists, every operation keeps `WriteFrame` (R140, R148). -/

namespace Sys2Proof.Machine

theorem WriteFrame.refl (s : State) : WriteFrame s s := ⟨rfl, rfl, rfl, rfl, rfl⟩

/-! ### The bytes written -/

/-- A byte outside what is laid reads as before, in any table. -/
theorem kget_memPut_outside (m : KMap Byte) (off a : Nat) (bs : List Byte) (h : a < off ∨ off + bs.length ≤ a) :
    kget 0 (memPut m off bs) a = kget 0 m a := by
  induction bs generalizing m off with
  | nil => rfl
  | cons b bs ih =>
    simp only [List.length_cons] at h
    rw [memPut, ih _ _ (by omega), kget_kput_other 0 m off a b (by omega)]

/-- A list of writes: what it leaves alone. -/
theorem writes_outside (ws : List (Nat × List Byte)) (s : State) :
    let u := ws.foldl (fun s w => writeBytes w.1 w.2 s) s
    (∀ a, (∀ q ∈ ws, a < q.1 ∨ q.1 + q.2.length ≤ a) → readByte u a = readByte s a)
    ∧ u.core = s.core ∧ u.cw = s.cw ∧ u.sec = s.sec := by
  induction ws generalizing s with
  | nil => exact ⟨fun _ _ => rfl, rfl, rfl, rfl⟩
  | cons w ws ih =>
    obtain ⟨hbytes, hcore, hcw, hsec⟩ := ih (writeBytes w.1 w.2 s)
    refine ⟨fun a ha => ?_, hcore, hcw, hsec⟩
    rw [List.forall_mem_cons] at ha
    exact (hbytes a ha.2).trans (kget_memPut_outside s.store.mem w.1 a w.2 ha.1)

/-- After its bytes are in, a write changes neither them nor the rest of its frame. -/
theorem putLines_framed (prt : Nat) (w : SetWrite) (ws : List (Nat × List Byte)) (heat : Bool) (s : State) :
    WriteFrame (ws.foldl (fun s w => writeBytes w.1 w.2 s) s) (putLines prt w ws heat s).2 := by
  unfold putLines
  extract_lets ls olds s1 s2 s3
  refine foldl_snd_framed _ _ _ _ (fun r o hr => ?_) (newT3_framed _ (fun _ => []) _ ?_)
  · have hset : WriteFrame s1 (setUpdates prt o.1 o.2.2 o.2.1 (readBytes r.2 (o.1 * 64) 64) r.2).2 := setUpdates_framed _ _ _ _ _ _ _ hr
    dsimp only
    split
    · exact hset
    · exact State_onHome_framed _ _ _ hset
  · refine foldl_framed _ _ _ _ (fun s l hs => ?_) (WriteFrame.refl s1)
    extract_lets whole u1 u2 u3
    have h1 : WriteFrame s1 u1 := by unfold u1; split <;> [exact setPoison_framed _ _ _ _ hs; exact hs]
    have h2 : WriteFrame s1 u2 := markDirty_framed _ _ _ (lcTouch_framed _ _ _ _ h1)
    have h3 : WriteFrame s1 u3 := by unfold u3; split <;> [exact touchPage_framed _ _ _ h2; exact h2]
    split <;> [exact requestMove_framed _ _ _ _ h3; exact h3]

/-! ### Arrival (Table 5.5) -/

theorem respondMore_framed (s0 : State) (it : Item) (st v : Nat) (interim : Bool) (bs : List Byte) (s : State) (h : WriteFrame s0 s) :
    WriteFrame s0 (respondMore it st v interim bs s) := by
  unfold respondMore
  split
  · exact sendRec_framed _ _ _ _ _ _ (by split <;> [exact bump_framed _ _ _ h; (split <;> [exact bump_framed _ _ _ h; exact h])])
  · exact h

/-- Admission changes the context and the request counter of the home slices alone. -/
theorem reqIn_framed (op : Nat) (c : TxnReq) (y : SymErr) (s : State) : WriteFrame s (reqIn op c y s).2 :=
  weirAdmit_framed _ _ _ _ _ (arrive_framed _ op c y s (WriteFrame.refl s))

@[simp] theorem reqIn_comb (op : Nat) (c : TxnReq) (y : SymErr) (s : State) (l : Nat) :
    combOpen (reqIn op c y s).2 l = combOpen s l := rfl

/-- A request of one line whose combining entry is closed enters the queues without a write. -/
theorem putInQueue_framed (s0 : State) (it : Item) (s : State) (hlines : itemLines it = [it.off / 64]) (hcomb : combOpen s (it.off / 64) = false)
    (h : WriteFrame s0 s) : WriteFrame s0 (putInQueue it s) := by
  unfold putInQueue
  extract_lets it1 s1 s2
  have h1 : s1 = s := by
    unfold s1
    rw [hlines]
    exact drainComb_closed _ s hcomb
  have h2 : WriteFrame s0 s2 := State_onHome_framed _ _ _ (h1 ▸ h)
  split <;> [exact respondMore_framed _ _ _ _ _ _ _ h2; exact h2]

/-- A request of another opcode than LOAD_LINES, STORE_LINES, WB_DIRTY and the engines' waits at the line of its address. -/
theorem itemLines_reqIn (op : Nat) (c : TxnReq) (y : SymErr) (s : State) (hrange : 0x10 ≤ op ∧ op ≤ 0x40) (hone : op ≠ 0x12) :
    itemLines (reqIn op c y s).1 = [(reqIn op c y s).1.off / 64] := by
  have hunit : within op 0x60 0x6B = false := decide_eq_false (by omega)
  have hengine : (reqIn op c y s).1.engine = false := Bool.or_eq_false_iff.mpr ⟨hunit, decide_eq_false (by simp; omega)⟩
  have hans : (reqIn op c y s).1.answer = none := rfl
  have hwb : op ≠ 0x53 := by omega
  have hload : op ≠ 0x01 := by omega
  simp [itemLines, hans, hengine, hwb, hload, hone]

theorem respondMore_home (it : Item) (st v : Nat) (interim : Bool) (bs : List Byte) (s : State) :
    (respondMore it st v interim bs s).home = s.home := by
  have hs := Still.refl s
  unfold respondMore
  split
  · exact (sendRec_still s _ _ _ _ _ (by split <;> [exact bumpBy_still _ _ _ _ hs; (split <;> [exact bumpBy_still _ _ _ _ hs; exact hs])])).home
  · rfl

/-- A request enters the queues as the last that waits. -/
theorem putInQueue_waitq (it : Item) (s : State) : ∃ l, (putInQueue it s).home.waitq = l ++ [queueItem it s] := by
  unfold putInQueue
  extract_lets it1 s1 s2
  refine ⟨s1.home.waitq, ?_⟩
  split
  · rw [respondMore_home]
    rfl
  · rfl

/-- A request that waits alone before its first turn is the one that was admitted. -/
theorem atTurn_zero {op : Nat} {c : TxnReq} {y : SymErr} {s : State} (h : comes op c y s 0 = true) :
    (atTurn op c y s 0).1 = queueItem (reqIn op c y s).1 (reqIn op c y s).2 := by
  obtain ⟨-, -, -, -, halone, -⟩ := comes_iff op c y s 0 h
  obtain ⟨l, hl⟩ := putInQueue_waitq (reqIn op c y s).1 (reqIn op c y s).2
  have hone : l ++ [queueItem (reqIn op c y s).1 (reqIn op c y s).2] = [(atTurn op c y s 0).1] := hl.symm.trans halone
  exact (List.append_inj' (t₁ := [_]) (t₂ := [_]) (s₂ := []) hone rfl).2 |> List.singleton_inj.mp |>.symm

/-! ### The obligation -/

/-- Settles O58: the completion is `exec_lineWrite_of_writeOpen`; of the frame, allocation, what follows the bytes, and the answer keep `WriteFrame`, and the bytes are those listed (`writes_outside`). -/
theorem writesChangeOnlyTheirBytes : Obligations.WritesChangeOnlyTheirBytes := by
  unfold Obligations.WritesChangeOnlyTheirBytes
  intro k op c s n hk x it t line w hcomes hopen halloc p u
  obtain ⟨hrange, hone⟩ := op_of_mem_lineWrites hk
  have hbefore : WriteFrame t (allocated it line w.1 t).2 := allocated_framed t it line w.1 t (WriteFrame.refl t)
  obtain ⟨hbytes, hcore, hcw, hsec⟩ := writes_outside w.1 (allocated it line w.1 t).2
  have hput := putLines_framed it.part (itemWrite it) w.1 true (allocated it line w.1 t).2
  have hcontrol : WriteFrame (w.1.foldl (fun s w => writeBytes w.1 w.2 s) (allocated it line w.1 t).2) (if op = 0x10 then applyControl it.off it.payload p.2 else p.2) := by
    split <;> [exact applyControl_framed _ _ _ _ hput; exact hput]
  have hafter : WriteFrame (w.1.foldl (fun s w => writeBytes w.1 w.2 s) (allocated it line w.1 t).2) u := endWrite_framed _ _ _ _ _ _ _ (writeStat_framed _ _ _ _ hcontrol)
  refine ⟨exec_lineWrite_of_writeOpen hk c s n hcomes hopen halloc, fun a ha => ?bytes, ?scratch, ?cw, ?extents, ?grants, ?first⟩
  case bytes =>
    calc readByte u a = readByte _ a := congrArg (kget 0 · a) hafter.mem
      _ = readByte (allocated it line w.1 t).2 a := hbytes a ha
      _ = readByte t a := congrArg (kget 0 · a) hbefore.mem
  case scratch => rw [hafter.scratch, hcore, hbefore.scratch]
  case cw => rw [hafter.cw, hcw, hbefore.cw]
  case extents => rw [hafter.extents, hsec, hbefore.extents]
  case grants => rw [hafter.grants, hsec, hbefore.grants]
  case first =>
    rintro rfl hcomb
    have hline : line = (reqIn op c {} s).1.off / 64 :=
      (congrArg (fun z : Item => z.off / 64) (atTurn_zero hcomes)).trans rfl
    have ht : WriteFrame s t := putInQueue_framed s _ _ (itemLines_reqIn op c {} s hrange hone) (hline ▸ hcomb) (reqIn_framed op c {} s)
    exact ⟨fun a => congrArg (kget 0 · a) ht.mem, ht.scratch, ht.cw, ht.extents, ht.grants⟩

end Sys2Proof.Machine

/-! PROOF. The Felset commands: what each meaning's rights, parameter rules and effect give for a record that passes the steps before (Table 13.3). -/

namespace Sys2Proof.Machine

/-! ### One command of the engine -/

/-- A command that is answered with data is neither retried nor waits for a line. -/
theorem fsOk_done (s : State) (data : List Byte) : (fsOk s data).status ≠ sRETRY ∧ (fsOk s data).wait = none := ⟨nofun, rfl⟩

/-- The completion of a command in a session, from its row of the engine: its right, its parameter rules and its effect. -/
theorem FsEffect.of_runFelset {i : Instr} {fop plen : Nat} {audited : Bool} {kind : FsKind} {c : FsCmd} {s : State}
    {right params : Bool} {r : FsRes} (o : FsOp) (hexec : exec i s = .next (runFelset o c s))
    (hrow : o.fop = fop ∧ o.plen = plen ∧ o.audited = audited ∧ o.kind = kind ∧ o.assigned = true)
    (hright : right = true → o.rights (fsSe c s) (fsBefore c s) = true)
    (hparams : params = true → (o.checks (fsSe c s) (fsBefore c s)).all (·.2) = true)
    (hbody : params = true → o.body (fsSe c s) (fsBefore c s) = r) (hdone : r.status ≠ sRETRY ∧ r.wait = none) :
    FsEffect i fop plen audited kind c s right params r := by
  intro hclear hr hp
  obtain ⟨hfop, hplen, haudited, hkind, hassigned⟩ := hrow
  exact hexec.trans (runFelset_next o c s hfop hplen haudited hkind hassigned hclear (hright hr) (hparams hp) (hbody hp) hdone.1 hdone.2)

/-- The same with FSID 0. -/
theorem FsEffect0.of_runFelset {i : Instr} {fop plen : Nat} {audited : Bool} {kind : FsKind} {c : FsCmd} {s : State}
    {params : Bool} {r : FsRes} (o : FsOp) (hexec : exec i s = .next (runFelset o c s))
    (hrow : o.fop = fop ∧ o.plen = plen ∧ o.audited = audited ∧ o.kind = kind ∧ o.free = true ∧ o.assigned = true)
    (hright : o.rights {} (takeFelset c s) = true)
    (hparams : params = true → (o.checks {} (takeFelset c s)).all (·.2) = true)
    (hbody : params = true → o.body {} (takeFelset c s) = r) (hdone : r.status ≠ sRETRY ∧ r.wait = none) :
    FsEffect0 i fop plen audited kind c s params r := by
  intro hclear hp
  obtain ⟨hfop, hplen, haudited, hkind, hfree, hassigned⟩ := hrow
  exact hexec.trans (runFelset_next0 o c s hfop hplen haudited hkind hfree hassigned hclear hright (hparams hp) (hbody hp) hdone.1 hdone.2)

/-! ### Sessions (R353-R357) -/

/-- A record that reaches the engine while another is in execution there waits behind it (R24). -/
theorem runFelset_of_busy (o : FsOp) (c : FsCmd) (s : State) (hbusy : fsBusy s = true) (hroom : s.sec.waiting.length < 64)
    (hlive : (ctx s c.node).live = true) (halive : fsAlive s = true) :
    runFelset o c s = (takeFelset c s).onSec fun x => { x with waiting := x.waiting ++ [(o.fop, c)] } := by
  simp [runFelset, hbusy, hroom, hlive, halive]

/-- No outcome of FS_OPEN is RETRY. -/
theorem fsOpenBody_done (c : FsCmd) (s : State) : (fsOpenBody c s).status ≠ sRETRY ∧ (fsOpenBody c s).wait = none := by
  unfold fsOpenBody
  split
  · exact ⟨nofun, rfl⟩
  · extract_lets
    split
    · split
      · exact fsOk_done _ _
      · exact ⟨nofun, rfl⟩
    · exact ⟨nofun, rfl⟩

/-- Settles O1. -/
theorem felsetSessionCommandsComplete : Obligations.FelsetSessionCommandsComplete := by
  unfold Obligations.FelsetSessionCommandsComplete
  refine ⟨fun c s hbusy hroom hlive halive => ?waits, fun c s => ?hello, fun c s => ?opens, fun c s => ?close,
    fun c s => ?identity0, fun c s => ?identity, fun c s => ?attest⟩
  case waits => exact congrArg Host.Outcome.next (runFelset_of_busy _ c s hbusy hroom hlive halive)
  case hello => exact .of_runFelset _ rfl ⟨rfl, rfl, rfl, rfl, rfl, rfl⟩ rfl (fun _ => rfl) (fun _ => rfl) (fsOk_done _ _)
  case opens =>
    exact .of_runFelset _ rfl ⟨rfl, rfl, rfl, rfl, rfl, rfl⟩ rfl (fun h => by simpa [zeros, and_assoc] using h) (fun _ => rfl)
      (fsOpenBody_done c _)
  case close => exact .of_runFelset _ rfl ⟨rfl, rfl, rfl, rfl, rfl⟩ (fun _ => rfl) (fun _ => rfl) (fun _ => rfl) (fsOk_done _ _)
  case identity0 => exact .of_runFelset _ rfl ⟨rfl, rfl, rfl, rfl, rfl, rfl⟩ rfl (fun _ => rfl) (fun _ => rfl) (fsOk_done _ _)
  case identity => exact .of_runFelset _ rfl ⟨rfl, rfl, rfl, rfl, rfl⟩ (fun _ => rfl) (fun _ => rfl) (fun _ => rfl) (fsOk_done _ _)
  case attest =>
    exact .of_runFelset _ rfl ⟨rfl, rfl, rfl, rfl, rfl⟩ (fun _ => rfl) (fun h => by simpa [zeros] using h) (fun _ => rfl) (fsOk_done _ _)

/-! ### The audit log (R368, R369) -/

/-- Settles O2. -/
theorem felsetAuditCommandsComplete : Obligations.FelsetAuditCommandsComplete := by
  unfold Obligations.FelsetAuditCommandsComplete
  refine ⟨fun c s => ?read, fun c s => ?head, fun c s => ?ack⟩
  case read =>
    refine .of_runFelset _ rfl ⟨rfl, rfl, rfl, rfl, rfl⟩ (fun _ => rfl) (fun h => ?_) (fun _ => rfl)
      (fsOk_done _ _)
    simp only [List.all_cons, List.all_nil, Bool.and_eq_true, decide_eq_true_eq]
    simp [zeros] at h ⊢
    tauto
  case head => exact .of_runFelset _ rfl ⟨rfl, rfl, rfl, rfl, rfl⟩ (fun _ => rfl) (fun _ => rfl) (fun _ => rfl) (fsOk_done _ _)
  case ack =>
    refine .of_runFelset _ rfl ⟨rfl, rfl, rfl, rfl, rfl⟩ (fun h => h) (fun h => ?_) (fun _ => rfl)
      (fsOk_done _ _)
    simp only [List.all_cons, List.all_nil, Bool.and_eq_true, decide_eq_true_eq]
    simp at h ⊢
    tauto

/-! ### Partitions, extents and grants (R370-R379) -/

/-- Settles O4. -/
theorem partitionCommandsComplete : Obligations.PartitionCommandsComplete := by
  unfold Obligations.PartitionCommandsComplete
  refine ⟨fun c s => ?enable, fun c s => ?disable, fun c s => ?assign, fun c s => ?release, fun c s => ?grant⟩
  case enable =>
    exact .of_runFelset _ rfl ⟨rfl, rfl, rfl, rfl, rfl⟩ (fun h => h) (fun h => by simpa [zeros] using h) (fun _ => rfl) (fsOk_done _ _)
  case disable =>
    exact .of_runFelset _ rfl ⟨rfl, rfl, rfl, rfl, rfl⟩ (fun h => h) (fun h => by simpa [zeros] using h) (fun _ => rfl) (fsOk_done _ _)
  case assign =>
    refine .of_runFelset _ rfl ⟨rfl, rfl, rfl, rfl, rfl⟩ (fun h => h) (fun h => ?_) (fun _ => rfl)
      (fsOk_done _ _)
    simp only [List.all_cons, List.all_nil, List.all_eq_true, Bool.and_eq_true, decide_eq_true_eq]
    simp [zeros] at h ⊢
    tauto
  case release =>
    refine .of_runFelset _ rfl ⟨rfl, rfl, rfl, rfl, rfl⟩ (fun h => h) (fun h => ?_) (fun _ => rfl)
      (fsOk_done _ _)
    simp only [List.all_cons, List.all_nil, List.all_eq_true, Bool.and_eq_true, decide_eq_true_eq]
    simp at h ⊢
    tauto
  case grant =>
    refine .of_runFelset _ rfl ⟨rfl, rfl, rfl, rfl, rfl⟩ (fun h => h) (fun h => by simp [zeros] at h ⊢; tauto) (fun h => ?_) (fsOk_done _ _)
    simp only [Bool.and_eq_true, Bool.not_eq_true', decide_eq_true_eq] at h
    obtain ⟨⟨⟨⟨-, hopen⟩, hdrains⟩, hentries⟩, hnodes⟩ := h
    have hroom : (decide (65536 < _) || List.any _ _) = false := Bool.or_eq_false_iff.mpr ⟨decide_eq_false (Nat.not_lt.mpr hentries), hnodes⟩
    exact (if_neg (Bool.eq_false_iff.mp hopen)).trans ((if_neg (Bool.eq_false_iff.mp hdrains)).trans (if_neg (Bool.eq_false_iff.mp hroom)))

/-- Settles O5. -/
theorem revokeAndPartitionQueriesComplete : Obligations.RevokeAndPartitionQueriesComplete := by
  unfold Obligations.RevokeAndPartitionQueriesComplete
  refine ⟨fun c s => ?revoke, fun c s => ?extQuery, fun c s => ?partQuery⟩
  case revoke =>
    exact .of_runFelset _ rfl ⟨rfl, rfl, rfl, rfl, rfl⟩ (fun h => h) (fun h => by simpa [zeros, and_assoc] using h) (fun _ => rfl)
      (fsOk_done _ _)
  case extQuery =>
    refine .of_runFelset _ rfl ⟨rfl, rfl, rfl, rfl, rfl⟩ (fun h => h) (fun h => ?_) (fun _ => rfl) (fsOk_done _ _)
    simp only [List.all_cons, List.all_nil, Bool.and_eq_true, decide_eq_true_eq]
    simpa [zeros] using h
  case partQuery =>
    exact .of_runFelset _ rfl ⟨rfl, rfl, rfl, rfl, rfl⟩ (fun h => h) (fun h => by simpa [zeros] using h) (fun _ => rfl) (fsOk_done _ _)

/-! ### Pages and quotas (R63, R64, R71, R87) -/

/-- Settles O6. -/
theorem pageCommandsComplete : Obligations.PageCommandsComplete := by
  unfold Obligations.PageCommandsComplete
  refine ⟨fun c s => ?quota, fun c s => ?pin, fun c s => ?query, fun c s => ?usage⟩
  case quota =>
    exact .of_runFelset _ rfl ⟨rfl, rfl, rfl, rfl, rfl⟩ (fun h => h) (fun h => by simpa [zeros, and_assoc] using h) (fun _ => rfl)
      (fsOk_done _ _)
  case pin =>
    exact .of_runFelset _ rfl ⟨rfl, rfl, rfl, rfl, rfl⟩ (fun h => h) (fun h => by simpa [zeros, and_assoc] using h) (fun _ => rfl)
      (fsOk_done _ _)
  case query =>
    refine .of_runFelset _ rfl ⟨rfl, rfl, rfl, rfl, rfl⟩ (fun h => h) (fun h => ?_) (fun h => ?_) (fsOk_done _ _)
    · simp at h ⊢
      exact h.1
    · simp only [Bool.and_eq_true, Bool.not_eq_true'] at h
      exact if_neg (Bool.eq_false_iff.mp h.2)
  case usage =>
    exact .of_runFelset _ rfl ⟨rfl, rfl, rfl, rfl, rfl⟩ (fun h => h) (fun h => by simpa [zeros] using h) (fun _ => rfl) (fsOk_done _ _)

end Sys2Proof.Machine

/-! PROOF. The Felset commands of the engines, sets, health, power, images, keys and the maker. -/

namespace Sys2Proof.Machine

/-! ### The near-memory engines -/

/-- Settles O8. -/
theorem engineCommandsComplete : Obligations.EngineCommandsComplete := by
  unfold Obligations.EngineCommandsComplete
  refine ⟨fun c s => ?group, fun c s => ?abandonAll, fun c s => ?step, fun c s => ?release, fun c s => ?hot, fun c s => ?index,
    fun c s it rest hmerge => ?stop⟩
  case group =>
    refine .of_runFelset _ rfl ⟨rfl, rfl, rfl, rfl, rfl⟩ (fun h => h) (fun h => ?_) (fun h => ?_) (fsOk_done _ _)
    · simp at h ⊢
      exact h.1
    · exact if_pos (Bool.and_eq_true_iff.mp h).2
  case abandonAll =>
    exact .of_runFelset _ rfl ⟨rfl, rfl, rfl, rfl, rfl⟩ (fun h => h) (fun h => by simpa [zeros] using h) (fun _ => rfl) (fsOk_done _ _)
  case step =>
    refine .of_runFelset _ rfl ⟨rfl, rfl, rfl, rfl, rfl⟩ (fun h => h) (fun h => ?_) (fun h => ?_) (fsOk_done _ _)
    · simp at h ⊢
      exact h.1
    · exact if_pos (Bool.and_eq_true_iff.mp h).2
  case release =>
    refine .of_runFelset _ rfl ⟨rfl, rfl, rfl, rfl, rfl⟩ (fun h => h) (fun h => ?_) (fun h => ?_) (fsOk_done _ _)
    · simp at h ⊢
      exact h.1.1
    · simp only [Bool.and_eq_true] at h
      obtain ⟨⟨-, htaken⟩, hidle⟩ := h
      exact (if_neg (fun h => absurd htaken (by simpa using h))).trans (if_neg (by simpa using hidle))
  case hot =>
    exact .of_runFelset _ rfl ⟨rfl, rfl, rfl, rfl, rfl⟩ (fun h => h) (fun h => by simpa [zeros] using h) (fun _ => rfl) (fsOk_done _ _)
  case index =>
    exact .of_runFelset _ rfl ⟨rfl, rfl, rfl, rfl, rfl⟩ (fun h => h) (fun h => by simpa using h) (fun _ => rfl) (fsOk_done _ _)
  case stop =>
    refine .of_runFelset _ rfl ⟨rfl, rfl, rfl, rfl, rfl⟩ (fun h => h) (fun h => ?_) (fun _ => ?_) (fsOk_done _ _)
    · simpa using h
    have hitems : indexItems (fsBefore c s) (prm c 0 8 % 2 ^ 50) (· = 0x6B) = it :: rest := hmerge
    simp only [hitems]

/-! ### Sets and liveness -/

/-- The modes of a set (Table 15.2). -/
theorem le_three_of_modeOk {mode k : Nat} (h : modeOk mode k = true) : mode ≤ 3 := by
  simp [modeOk] at h
  exact h.1

/-- Settles O9. -/
theorem setCommandsComplete : Obligations.SetCommandsComplete := by
  unfold Obligations.SetCommandsComplete
  refine ⟨fun c s => ?define, fun c s => ?query, fun c s => ?rebuild, fun c s => ?live⟩
  case define =>
    refine .of_runFelset _ rfl ⟨rfl, rfl, rfl, rfl, rfl⟩ (fun h => h) (fun h => ?_) (fun _ => rfl) (fsOk_done _ _)
    simp only [Bool.and_eq_true] at h
    obtain ⟨⟨⟨⟨⟨⟨⟨hslot, howned⟩, hmode⟩, hmaster⟩, hzero⟩, hepoch⟩, hmembers⟩, hgranted⟩ := h
    simp only [List.all_cons, List.all_nil, Bool.and_eq_true, decide_eq_true_eq]
    exact ⟨⟨hslot, howned⟩, le_three_of_modeOk hmode, hmode, hmaster, hzero, of_decide_eq_true hepoch, ⟨hmembers, hgranted⟩, trivial⟩
  case query =>
    exact .of_runFelset _ rfl ⟨rfl, rfl, rfl, rfl, rfl⟩ (fun h => h) (fun h => by simpa [zeros] using h) (fun _ => rfl) (fsOk_done _ _)
  case rebuild =>
    refine .of_runFelset _ rfl ⟨rfl, rfl, rfl, rfl, rfl⟩ (fun h => h) (fun h => ?_) (fun _ => rfl) (fsOk_done _ _)
    simp only [List.all_cons, List.all_nil, Bool.and_eq_true, decide_eq_true_eq]
    simp [zeros] at h ⊢
    tauto
  case live =>
    refine .of_runFelset _ rfl ⟨rfl, rfl, rfl, rfl, rfl⟩ (fun h => h) (fun h => ?_) (fun h => ?_) (fsOk_done _ _)
    · simp [zeros] at h ⊢
      exact h.1
    · have hlive := (Bool.and_eq_true_iff.mp h).2
      simp only [hlive]
      simp

/-! ### Health -/

/-- Settles O10. -/
theorem healthCommandsComplete : Obligations.HealthCommandsComplete := by
  unfold Obligations.HealthCommandsComplete
  refine ⟨fun c s => ?query, fun c s => ?log, fun c s => ?retire, fun c s => ?inject, fun c s => ?stop⟩
  case query =>
    refine .of_runFelset _ rfl ⟨rfl, rfl, rfl, rfl, rfl⟩ (fun h => h) (fun h => ?_) (fun h => ?_) (fsOk_done _ _)
    · simp [zeros] at h ⊢
      tauto
    · have hevent := of_decide_eq_true (Bool.and_eq_true_iff.mp h).2
      exact if_neg fun hnone => hevent hnone.1
  case log =>
    refine .of_runFelset _ rfl ⟨rfl, rfl, rfl, rfl, rfl⟩ (fun h => h) (fun h => ?_) (fun _ => rfl) (fsOk_done _ _)
    simp only [List.all_cons, List.all_nil, Bool.and_eq_true, decide_eq_true_eq]
    simp [zeros] at h ⊢
    tauto
  case retire =>
    refine .of_runFelset _ rfl ⟨rfl, rfl, rfl, rfl, rfl⟩ (fun h => h) (fun h => ?_) (fun h => ?_) (fsOk_done _ _)
    · simp [zeros] at h ⊢
      tauto
    · have hthere := (Bool.and_eq_true_iff.mp h).2
      exact congrArg (fsOk · []) (if_neg (show ¬unitLost s _ _ = true by simpa using hthere))
  case inject =>
    refine .of_runFelset _ rfl ⟨rfl, rfl, rfl, rfl, rfl⟩ (fun h => h) (fun h => ?_) (fun h => ?_) (fsOk_done _ _)
    · simp [zeros] at h ⊢
      tauto
    · simp only [Bool.and_eq_true, Bool.not_eq_true', decide_eq_true_eq] at h
      obtain ⟨⟨-, hthere⟩, hroom⟩ := h
      exact (if_neg (Bool.eq_false_iff.mp hthere)).trans (if_neg (Nat.not_le.mpr hroom))
  case stop =>
    refine .of_runFelset _ rfl ⟨rfl, rfl, rfl, rfl, rfl⟩ (fun h => h) (fun h => ?_) (fun _ => rfl) (fsOk_done _ _)
    simpa [zeros] using h

/-! ### Power -/

/-- Settles O11. -/
theorem powerCommandsComplete : Obligations.PowerCommandsComplete := by
  unfold Obligations.PowerCommandsComplete
  refine ⟨fun c s => ?furl, fun c s at_ => ?wake, fun c b s hclear hr hp => ?powerUp, fun c b s hclear hr hp => ?device⟩
  case furl =>
    exact .of_runFelset _ rfl ⟨rfl, rfl, rfl, rfl, rfl⟩ (fun h => h) (fun _ => rfl) (fun h => congrArg (fsOk · []) (if_pos h))
      (fsOk_done _ _)
  case wake =>
    refine .of_runFelset _ rfl ⟨rfl, rfl, rfl, rfl, rfl⟩ (fun h => h) (fun _ => rfl) (fun h => ?_) ⟨nofun, rfl⟩
    have hfurl : (fsBefore c s).pwr.pstate = .furl := of_decide_eq_true h
    simp only [hfurl]
  case powerUp =>
    have hkind : prm c 0 1 = 0 := of_decide_eq_true (Bool.and_eq_true_iff.mp hp).1
    have hexec : exec (.restartPowerUp c b) s = .next (runFelset (restartOp c 0 fun s => runStart (powerUpReset 1 b s)) c s) :=
      congrArg Host.Outcome.next (if_neg (by omega))
    exact FsEffect.of_runFelset _ hexec ⟨rfl, rfl, rfl, rfl, rfl⟩ (fun h => h) (fun h => by simpa [restartOp, zeros] using h) (fun _ => rfl)
      ⟨nofun, rfl⟩ hclear hr hp
  case device =>
    have hkind : prm c 0 1 = 1 := of_decide_eq_true (Bool.and_eq_true_iff.mp hp).1
    have hexec : exec (.restartDevice c b) s = .next (runFelset (restartOp c 1 fun s => runStart (deviceReset 2 b s)) c s) :=
      congrArg Host.Outcome.next (if_neg (by omega))
    exact FsEffect.of_runFelset _ hexec ⟨rfl, rfl, rfl, rfl, rfl⟩ (fun h => h) (fun h => by simpa [restartOp, zeros] using h) (fun _ => rfl)
      ⟨nofun, rfl⟩ hclear hr hp

/-! ### Images -/

/-- A slot that holds bytes has its header in them. -/
theorem imgHeader_of_bytes {i : ImgSlot} (h : 0 < i.bytes.length) : imgHeader i = i.bytes :=
  if_neg (by simp [List.ne_nil_of_length_pos h])

/-- Settles O12. -/
theorem imageCommandsComplete : Obligations.ImageCommandsComplete := by
  unfold Obligations.ImageCommandsComplete
  refine ⟨fun c s => ?stage, fun c s => ?write, fun c s => ?query, fun c s => ?activate⟩
  case stage =>
    exact .of_runFelset _ rfl ⟨rfl, rfl, rfl, rfl, rfl⟩ (fun h => h) (fun h => by simpa [zeros, and_assoc] using h) (fun _ => rfl)
      (fsOk_done _ _)
  case write =>
    refine .of_runFelset _ rfl ⟨rfl, rfl, rfl, rfl, rfl⟩ (fun h => h) (fun h => ?_) (fun h => ?_) (fsOk_done _ _)
    · simp only [List.all_cons, List.all_nil, Bool.and_eq_true, Bool.or_eq_true, decide_eq_true_eq]
      simp [zeros] at h ⊢
      tauto
    · have hwhole := (Bool.and_eq_true_iff.mp h).2
      by_cases hlast : prm c 1 1 = 1
      · simp only [hlast, ne_eq, not_true_eq_false, decide_false, Bool.false_or, decide_eq_true_eq] at hwhole
        simp only [hlast, if_true]
        exact (if_neg (by simp)).trans (if_pos hwhole)
      · simp only [hlast, if_false]
        exact if_pos (by simp)
  case query =>
    refine .of_runFelset _ rfl ⟨rfl, rfl, rfl, rfl, rfl⟩ (fun h => h) (fun h => ?_) (fun h => ?_) (fsOk_done _ _)
    · simp [zeros] at h ⊢
      tauto
    · simp only [Bool.and_eq_true, decide_eq_true_eq] at h
      obtain ⟨⟨-, hstate⟩, hlen⟩ := h
      refine if_neg fun hnone => hnone.elim hstate fun hshort => ?_
      have hheader : imgHeader (imgSlot s (prm c 0 1)) = (imgSlot s (prm c 0 1)).bytes := imgHeader_of_bytes (by omega)
      rw [fsBefore_imgSlot, hheader] at hshort
      omega
  case activate =>
    refine .of_runFelset _ rfl ⟨rfl, rfl, rfl, rfl, rfl⟩ (fun h => h) (fun h => ?_) (fun _ => rfl) (fsOk_done _ _)
    simp only [List.all_cons, List.all_nil, Bool.and_eq_true, decide_eq_true_eq]
    simpa [zeros] using h

/-! ### Straps and key slots -/

/-- Settles O13. -/
theorem strapAndKeyCommandsComplete : Obligations.StrapAndKeyCommandsComplete := by
  unfold Obligations.StrapAndKeyCommandsComplete
  refine ⟨fun c s => ?commit, fun c s => ?enroll, fun c s => ?revoke⟩
  case commit => exact .of_runFelset _ rfl ⟨rfl, rfl, rfl, rfl, rfl⟩ (fun h => h) (fun _ => rfl) (fun _ => rfl) ⟨nofun, rfl⟩
  case enroll =>
    refine .of_runFelset _ rfl ⟨rfl, rfl, rfl, rfl, rfl⟩ (fun h => ?_) (fun h => ?_) (fun _ => rfl) (fsOk_done _ _)
    · simp only [h, Bool.true_or]
    · simp [zeros] at h ⊢
      tauto
  case revoke =>
    refine .of_runFelset _ rfl ⟨rfl, rfl, rfl, rfl, rfl⟩ (fun h => h) (fun h => ?_) (fun _ => rfl) (fsOk_done _ _)
    simp only [List.all_cons, List.all_nil, Bool.and_eq_true, Bool.not_eq_true', Bool.and_eq_false_iff, decide_eq_true_eq,
      decide_eq_false_iff_not]
    simpa [zeros] using h

/-! ### The maker's commands -/

/-- Settles O14. -/
theorem makerCommandsComplete : Obligations.MakerCommandsComplete := by
  unfold Obligations.MakerCommandsComplete
  refine ⟨fun c s => ?screen, fun c s => ?fuses, fun c s => ?ret⟩
  case screen =>
    refine .of_runFelset _ rfl ⟨rfl, rfl, rfl, rfl, rfl⟩ (fun h => h) (fun h => ?_) (fun h => ?_) (fsOk_done _ _)
    · simp [zeros] at h ⊢
      exact h.1
    · simp only [Bool.and_eq_true, Bool.not_eq_true'] at h
      exact if_neg (Bool.eq_false_iff.mp h.2)
  case fuses => exact .of_runFelset _ rfl ⟨rfl, rfl, rfl, rfl, rfl⟩ (fun h => h) (fun _ => rfl) (fun _ => rfl) (fsOk_done _ _)
  case ret => exact .of_runFelset _ rfl ⟨rfl, rfl, rfl, rfl, rfl⟩ (fun h => h) (fun _ => rfl) (fun _ => rfl) (fsOk_done _ _)

/-! ### Control words -/

/-- A write of one word in a session, whatever row it has. -/
theorem FsEffect.of_cwWrite {i : Instr} {c : FsCmd} {s : State} (hexec : exec i s = .next (runFelset (cwWriteOp c) c s)) :
    FsEffect i 0x0101 24 true .install c s ((cwEnt c 0).right (fsSe c s) (fsBefore c s))
      (((cwEnt c 0).checks 0 c (fsBefore c s) (cwPlaced [cwEnt c 0] (fsBefore c s))).all (·.2) && !(cwEnt c 0).busy (fsBefore c s))
      (fsOk ((cwEnt c 0).commit (fsBefore c s)) (leBytes 8 (cwWord ((cwEnt c 0).commit (fsBefore c s)) (cwEnt c 0).addr))) := by
  refine .of_runFelset _ hexec ⟨rfl, rfl, rfl, rfl, rfl⟩ (fun h => h) (fun h => (Bool.and_eq_true_iff.mp h).1) (fun h => ?_)
    (fsOk_done _ _)
  exact if_neg (by simpa using (Bool.and_eq_true_iff.mp h).2)

/-- A command that names a word of its row's kind is the write of that word. -/
theorem wordWrite_of_names {k : FsCmd → Instr} {c : FsCmd} {s : State} {r : Reg} (p : Reg → Bool) (hp : p r = true)
    (hexec : exec (k c) s = .next (if namesWord c p then runFelset (cwWriteOp c) c s else s)) : WordWrite k c s r := by
  intro hreg
  have hnames : namesWord c p = true := by simp only [namesWord, hreg, hp]
  exact .of_cwWrite (hexec.trans (congrArg Host.Outcome.next (if_pos hnames)))

/-- Settles O3. -/
theorem controlWordCommandsComplete : Obligations.ControlWordCommandsComplete := by
  unfold Obligations.ControlWordCommandsComplete
  refine ⟨fun c s => ?read, fun c s => .of_cwWrite rfl, fun c s => ?multi, fun c s q => wordWrite_of_names _ rfl rfl,
    fun c s p => wordWrite_of_names _ rfl rfl, fun c s n => wordWrite_of_names _ rfl rfl, fun c s n => wordWrite_of_names _ rfl rfl,
    fun c s n => wordWrite_of_names _ rfl rfl, fun c s k => wordWrite_of_names _ rfl rfl, fun c s i => wordWrite_of_names _ rfl rfl,
    fun c s => wordWrite_of_names _ rfl rfl⟩
  case read =>
    exact .of_runFelset _ rfl ⟨rfl, rfl, rfl, rfl, rfl⟩ (fun h => h) (fun h => by simpa [zeros, and_assoc] using h) (fun _ => rfl)
      (fsOk_done _ _)
  case multi =>
    refine .of_runFelset _ rfl ⟨rfl, rfl, rfl, rfl, rfl⟩ (fun h => h) (fun h => ?_) (fun h => ?_) (fsOk_done _ _)
    · simp only [Bool.and_eq_true] at h
      obtain ⟨⟨⟨hcount, hzero⟩, hentries⟩, -⟩ := h
      simp only [List.all_append, List.all_cons, List.all_nil, Bool.and_eq_true]
      exact ⟨⟨hcount, hzero, trivial⟩, hentries⟩
    · exact if_neg (by simpa using (Bool.and_eq_true_iff.mp h).2)

end Sys2Proof.Machine

/-! PROOF. The stream commands of Felset (R226-R229, R252, R253), with a command that waits for a line in the engine. -/

namespace Sys2Proof.Machine

/-! ### A command that waits for a line -/

/-- A command of a session that passes the steps before its own is executed (steps 1 to 3 of Table 13.3). -/
theorem runFelset_of_clear (o : FsOp) (c : FsCmd) (s : State) (hclear : fsClear o.fop o.plen o.audited o.kind c s = true) :
    runFelset o c s = fsGone (fsExecute o c (fsSe c s) (fsSe c s).ck (fsBefore c s)) := by
  simp only [fsClear, fsIdle, Bool.and_eq_true, decide_eq_true_eq, Bool.not_eq_true'] at hclear
  obtain ⟨⟨⟨⟨⟨⟨⟨⟨⟨⟨⟨⟨hlive, halive⟩, hidle, -⟩, hmgmt⟩, hform⟩, hfsid⟩, hsession⟩, hnode⟩, htag⟩, hcseq⟩, -⟩, -⟩, -⟩ := hclear
  have hform' : fsForm o c = true := hform
  have hse : fsession (takeFelset c s) c.fsid.toNat = fsSe c s := rfl
  have hbefore : setFsession c.fsid.toNat (fun x => { x with lastUse := now (takeFelset c s) }) (takeFelset c s) = fsBefore c s := rfl
  unfold runFelset
  rw [if_neg (by simp [hidle])]
  unfold fsTake
  simp only [hse, hbefore, hlive, halive, hmgmt, hform', Bool.not_true, Bool.or_self, Bool.false_eq_true, if_false, hfsid, hsession,
    hnode, Bool.and_self, decide_true, decide_false, Bool.true_and, Bool.false_and, if_true, ← htag, hcseq, ne_eq, not_false_eq_true]

/-- Of parameters that keep their rules none is named. -/
theorem firstBad_of_all {checks : List (Nat × Bool)} (h : checks.all (·.2) = true) : firstBad checks = none := by
  unfold firstBad
  rw [List.filter_eq_nil_iff.mpr fun x hx => by simpa using List.all_eq_true.mp h x hx]
  rfl

/-- Steps 4 to 10 of an unaudited command that none of them stops and whose effect has to wait for a line. -/
theorem fsOutcome_of_wait (o : FsOp) (se : FSession) (s : State) {r : FsRes} (hassigned : o.assigned = true)
    (haudited : o.audited = false) (hroom : s.sec.waiting.length < 64)
    (hmoves : (decide (s.mach.holder = .transfer) && !s.mach.arbFault) = false) (hpermitted : fsPermitted o s = true)
    (hright : o.rights se s = true) (hchecks : (o.checks se s).all (·.2) = true) (hbody : o.body se s = r)
    (hwait : r.wait.isSome = true) : fsOutcome o se s = (r, false) := by
  have hroom' : ¬64 ≤ s.sec.waiting.length := by omega
  unfold fsOutcome
  simp only [hassigned, haudited, hmoves, hroom', hpermitted, hright, firstBad_of_all hchecks, hbody, hwait]
  simp

/-- Such a command stays in execution at the engine. -/
theorem exec_of_wait {i : Instr} {fop plen : Nat} {kind : FsKind} {c : FsCmd} {s u : State} {r : FsRes} {line : Nat} (o : FsOp)
    (hexec : exec i s = .next (runFelset o c s))
    (hrow : o.fop = fop ∧ o.plen = plen ∧ o.audited = false ∧ o.kind = kind ∧ o.assigned = true)
    (hclear : fsClear fop plen false kind c s = true) (hright : o.rights (fsSe c s) (fsBefore c s) = true)
    (hchecks : (o.checks (fsSe c s) (fsBefore c s)).all (·.2) = true)
    (hbody : o.body (fsSe c s) (fsBefore c s) = r) (hstate : r.st = u) (hwait : r.wait = some line) :
    exec i s = .next (fsGone (keepWaiting fop c line u)) := by
  obtain ⟨rfl, rfl, haudited, rfl, hassigned⟩ := hrow
  rw [← haudited] at hclear
  rw [hexec, runFelset_of_clear o c s hclear]
  simp only [fsClear, fsIdle, Bool.and_eq_true, decide_eq_true_eq, Bool.not_eq_true'] at hclear
  obtain ⟨⟨⟨⟨⟨⟨⟨⟨⟨⟨⟨⟨-, -⟩, -, hroom⟩, -⟩, -⟩, -⟩, -⟩, -⟩, -⟩, -⟩, hmoves⟩, hpermitted⟩, -⟩ := hclear
  have hout := fsOutcome_of_wait o (fsSe c s) (fsBefore c s) hassigned haudited hroom hmoves hpermitted hright hchecks hbody
    (by rw [hwait]; rfl)
  simp only [fsExecute, hout, hwait, hstate]

/-! ### The descriptor of a stream (R228) -/

/-- Of the three outcomes of making lines ready one is `isReady`. -/
theorem eq_ready_of_isReady {r : EngR} (h : isReady r = true) : r = .ready := by
  cases r with
  | ready => rfl
  | wait o => exact nomatch h
  | bad st s => exact nomatch h

/-- A descriptor line that can be read and is not poisoned gives its bytes. -/
theorem readDesc_of_ready {n a : Nat} {s : State} (hready : isReady (engReady noWrite [a % 2 ^ 50 / 64] [] s) = true)
    (hsound : (engAccess noWrite [a % 2 ^ 50 / 64] s).1.isEmpty = true) :
    readDesc n a s = (readBytes (engAccess noWrite [a % 2 ^ 50 / 64] s).2 (64 * (a % 2 ^ 50 / 64)) 64,
      fsOk (engAccess noWrite [a % 2 ^ 50 / 64] s).2) := by
  simp only [readDesc, eq_ready_of_isReady hready, hsound, if_true]

/-- A descriptor line that cannot be read yet is waited for, by a command taken up for the first time. -/
theorem readDesc_of_wait {n a : Nat} {s : State} {o : Option State} (hfirst : s.sec.going = none)
    (hwait : engReady noWrite [a % 2 ^ 50 / 64] [] s = .wait o) :
    readDesc n a s = ([],
      { st := if (page s (a % 2 ^ 50 / 64 / 1024)).tier = 3 then beginT3 (a % 2 ^ 50 / 64 / 64) (o.getD s) else o.getD s
        wait := some (a % 2 ^ 50 / 64) }) := by
  simp only [readDesc, hfirst, hwait, Bool.false_eq_true, if_false, decide_eq_true_eq]

/-- A stream whose words may be fetched, with room in the queues, is admitted. -/
theorem admitChecks_ok {n : Nat} {d : List Byte} {s : State} (hshare : cfg s (0x070400 + n) 63 56 ≠ 0)
    (hwords : runCheck s (.call 0 0) n (field d 0 8 % 2 ^ 50) (32 * field d 8 4) false = sOK)
    (hmine : (s.core.queue.filter fun i => (stream s i).part = n).length < 16) (hall : s.core.queue.length < 256) :
    admitChecks n d s = fsOk (admitStream n d s).2 (leBytes 4 (admitStream n d s).1 ++ leBytes 4 0) := by
  have hroom : ¬((decide (16 ≤ (s.core.queue.filter fun i => (stream s i).part = n).length) || decide (256 ≤ s.core.queue.length)) = true) := by
    simp only [Bool.or_eq_true, decide_eq_true_eq]
    omega
  simp only [admitChecks, if_neg hshare, hwords, ne_eq, not_true_eq_false, if_false, if_neg hroom]

/-- RUN_STREAM of a partition's own line: what is left to do is the descriptor's. -/
theorem runStreamBody_of_own {c : FsCmd} {s : State} (hseq : s.core.lostSeq = false) (hdma : s.core.lostDma = false)
    (hhome : prm c 8 8 / 2 ^ 50 = homeIndex s) (hown : ownCheck s (prm c 0 1) (prm c 8 8 % 2 ^ 50) = sOK) :
    runStreamBody c s =
      let (d, r) := readDesc (prm c 0 1) (prm c 8 8) s
      if r.wait.isSome || decide (r.status ≠ sOK) then r
      else if !streamDescOk r.st d then fsBad r.st 8
      else admitChecks (prm c 0 1) d r.st := by
  simp only [runStreamBody, hseq, hdma, hhome, hown, Bool.or_self, Bool.false_eq_true, if_false, if_true, ne_eq, not_true_eq_false]

/-- A descriptor line that can be read, with a sound descriptor, leaves the checks on the stream itself. -/
theorem runStreamBody_of_desc {c : FsCmd} {s t : State} {d : List Byte} (hseq : s.core.lostSeq = false) (hdma : s.core.lostDma = false)
    (hhome : prm c 8 8 / 2 ^ 50 = homeIndex s) (hown : ownCheck s (prm c 0 1) (prm c 8 8 % 2 ^ 50) = sOK)
    (hread : readDesc (prm c 0 1) (prm c 8 8) s = (d, fsOk t)) (hdesc : streamDescOk t d = true) :
    runStreamBody c s = admitChecks (prm c 0 1) d t := by
  rw [runStreamBody_of_own hseq hdma hhome hown, hread]
  exact (if_neg nofun).trans (if_neg (by simp [fsOk, hdesc]))

/-- A descriptor line that cannot be read yet keeps the command waiting. -/
theorem runStreamBody_of_wait {c : FsCmd} {s : State} {d : List Byte} {r : FsRes} (hseq : s.core.lostSeq = false)
    (hdma : s.core.lostDma = false) (hhome : prm c 8 8 / 2 ^ 50 = homeIndex s)
    (hown : ownCheck s (prm c 0 1) (prm c 8 8 % 2 ^ 50) = sOK)
    (hread : readDesc (prm c 0 1) (prm c 8 8) s = (d, r)) (hwait : r.wait.isSome = true) : runStreamBody c s = r := by
  rw [runStreamBody_of_own hseq hdma hhome hown, hread]
  exact if_pos (by simp [hwait])

/-- Settles O7. -/
theorem streamCommandsComplete : Obligations.StreamCommandsComplete := by
  unfold Obligations.StreamCommandsComplete
  refine ⟨fun c s => ?run, fun c s o => ?waits, fun c s => ?abort, fun c s => ?query⟩
  case run =>
    refine .of_runFelset _ rfl ⟨rfl, rfl, rfl, rfl, rfl⟩ (fun h => h) (fun h => ?_) (fun h => ?_) (fsOk_done _ _)
    · simp only [Bool.and_eq_true, decide_eq_true_eq] at h
      obtain ⟨⟨⟨⟨⟨⟨⟨⟨⟨⟨⟨⟨⟨hpart, hzero⟩, haligned⟩, -⟩, -⟩, -⟩, -⟩, -⟩, -⟩, -⟩, -⟩, -⟩, -⟩, -⟩ := h
      simp only [List.all_cons, List.all_nil, Bool.and_eq_true, decide_eq_true_eq]
      exact ⟨hpart, hzero, haligned, trivial⟩
    · simp only [Bool.and_eq_true, Bool.not_eq_true', decide_eq_true_eq] at h
      obtain ⟨⟨⟨⟨⟨⟨⟨⟨⟨⟨⟨-, hseq⟩, hdma⟩, hshare⟩, hhome⟩, hown⟩, hready⟩, hsound⟩, hdesc⟩, hwords⟩, hmine⟩, hall⟩ := h
      exact (runStreamBody_of_desc (s := fsBefore c s) hseq hdma hhome hown (readDesc_of_ready hready hsound) hdesc).trans
        (admitChecks_ok hshare hwords hmine hall)
  case waits =>
    intro n a line b u hclear hright hparams hfirst hwait
    simp only [Bool.and_eq_true, Bool.not_eq_true', decide_eq_true_eq] at hparams
    obtain ⟨⟨⟨⟨⟨⟨hpart, hzero⟩, haligned⟩, hseq⟩, hdma⟩, hhome⟩, hown⟩ := hparams
    refine exec_of_wait _ rfl ⟨rfl, rfl, rfl, rfl, rfl⟩ hclear hright ?_
      (runStreamBody_of_wait (s := fsBefore c s) hseq hdma hhome hown (readDesc_of_wait hfirst hwait) rfl) rfl rfl
    simp only [List.all_cons, List.all_nil, Bool.and_eq_true, decide_eq_true_eq]
    exact ⟨hpart, hzero, haligned, trivial⟩
  case abort =>
    exact .of_runFelset _ rfl ⟨rfl, rfl, rfl, rfl, rfl⟩ (fun h => h) (fun h => by simpa [zeros] using h) (fun _ => rfl) (fsOk_done _ _)
  case query =>
    exact .of_runFelset _ rfl ⟨rfl, rfl, rfl, rfl, rfl⟩ (fun h => h) (fun h => by simpa [zeros] using h) (fun _ => rfl) (fsOk_done _ _)

end Sys2Proof.Machine

/-! PROOF. The machine as a whole: its step, its idle tick and what the resets keep (R24, R50, Table 17.1). -/

namespace Sys2Proof.Machine

/-! ### One step -/

/-- Settles O45. -/
theorem stepRunsFrontCommand : Obligations.StepRunsFrontCommand := by
  intro s c cs hqueue
  simp only [step, hqueue]

/-- The state an idle tick leaves where the Weir's integral is then `m`. -/
def ticked (s : State) (m : KMap Nat) : State :=
  { s with
    pwr := { s.pwr with
      tsWest := s.pwr.tsWest + (if islandUp s 60 then 10 else 0)
      tsEast := s.pwr.tsEast + (if islandUp s 61 then 10 else 0) }
    kt := { s.kt with waitInt := m } }

/-- An idle tick moves the timestamps of running management islands and the Weir's integral only. -/
theorem exists_tick_eq (s : State) : ∃ m, tick s = ticked s m := by
  by_cases hdown : (!islandUp s 60 && !islandUp s 61) = true
  · refine ⟨s.kt.waitInt, (if_pos hdown).trans ?_⟩
    simp only [Bool.and_eq_true, Bool.not_eq_true'] at hdown
    simp [ticked, hdown.1, hdown.2]
  · have hclock : s.onPwr (fun p => { p with
          tsWest := if islandUp s 60 then p.tsWest + 10 else p.tsWest, tsEast := if islandUp s 61 then p.tsEast + 10 else p.tsEast })
        = ticked s s.kt.waitInt := by
      cases hw : islandUp s 60 <;> cases he : islandUp s 61 <;> simp [ticked, hw, he] <;> rfl
    by_cases hqueue : s.home.waitq.isEmpty = true
    · exact ⟨s.kt.waitInt, (if_neg hdown).trans ((if_pos hqueue).trans hclock)⟩
    · refine ⟨_, (if_neg hdown).trans ((if_neg hqueue).trans ((congrArg (State.onKt _) hclock).trans rfl))⟩

theorem tick_sec (s : State) : (tick s).sec = s.sec := by
  obtain ⟨m, htick⟩ := exists_tick_eq s
  rw [htick]
  rfl

/-- With no command waiting the block idles. -/
theorem step_of_empty {s : State} (hempty : s.pending = []) : step s = idle (tick s) := by simp only [step, hempty]

/-- Settles O46. -/
theorem emptyQueueIsOneTick : Obligations.EmptyQueueIsOneTick := by
  refine ⟨fun s hempty hhold hwait => ?_, ?_, ?_⟩
  · obtain ⟨m, htick⟩ := exists_tick_eq s
    refine ⟨ticked s m, ?_, rfl, rfl, rfl⟩
    rw [← htick]
    simp only [step_of_empty hempty, idle, nextRecord, tick_sec, hhold, hwait]
  · intro s h i t u hempty hhold hrow
    simp only [step_of_empty hempty, idle, nextRecord, tick_sec, hhold]
    simp only [show fsRow h.fop h.cmd ((tick s).onSec fun x => { x with hold := none, going := some h.since }) = some i from hrow]
    rfl
  · intro s f c q t u hempty hhold hwait
    refine ⟨fun i hrow => ?_, fun hrow => ?_⟩ <;>
      simp only [step_of_empty hempty, idle, nextRecord, tick_sec, hhold, hwait] <;>
      simp only [show fsRow f c ((tick s).onSec fun x => { x with waiting := q, going := some (now (tick s)) }) = _ from hrow] <;> rfl

/-! ### Resets (Table 17.1) -/

/-- Settles O48. -/
theorem resetStateIsCanonical : Obligations.ResetStateIsCanonical :=
  ⟨⟨rfl, rfl, fun _ => Nat.zero_le _, rfl⟩, rfl⟩

/-- Only counters, the Governor and the health log differ: what ending an injection changes. -/
def OnlyLogged (s t : State) : Prop :=
  t = { s with
    stats := t.stats, gov := t.gov
    nor := { s.nor with hlog := t.nor.hlog, hlogNext := t.nor.hlogNext, hlogBase := t.nor.hlogBase } }

theorem OnlyLogged.refl (s : State) : OnlyLogged s s := rfl

theorem OnlyLogged.trans {s t u : State} (hst : OnlyLogged s t) (htu : OnlyLogged t u) : OnlyLogged s u := by
  unfold OnlyLogged at hst htu ⊢
  rw [htu, hst]

theorem takeOvf_onlyLogged (a : Nat) (s : State) : OnlyLogged s (takeOvf a s) := by
  simp only [takeOvf]
  split <;> rfl

theorem addStat_onlyLogged (a n : Nat) (s : State) : OnlyLogged s (addStat a n s) := by
  simp only [addStat]
  split
  · exact .refl s
  · split
    · exact OnlyLogged.trans (show OnlyLogged s { s with stats := _ } from rfl) (takeOvf_onlyLogged _ _)
    · rfl

theorem hlogWrite_onlyLogged (e : Ev) (s : State) : OnlyLogged s (hlogWrite e s).2 := by
  simp only [hlogWrite]
  split
  · exact addStat_onlyLogged _ _ s
  · rfl

theorem foldl_onlyLogged {α : Type} (f : State → α → State) (hf : ∀ s a, OnlyLogged s (f s a)) (l : List α) (s : State) :
    OnlyLogged s (l.foldl f s) := by
  induction l generalizing s with
  | nil => exact .refl s
  | cons a l ih => exact (hf s a).trans (ih (f s a))

theorem endInjections_onlyLogged (s : State) : OnlyLogged s (endInjections s) :=
  foldl_onlyLogged _ (fun s _ => hlogWrite_onlyLogged _ s) _ s

/-- Whatever looks neither at the counters nor at the Governor nor at the health log sees no difference. -/
theorem OnlyLogged.same {s t : State} (h : OnlyLogged s t) {α : Type} (f : State → α)
    (hf : ∀ stats gov hlog next base, f { s with
      stats := stats, gov := gov, nor := { s.nor with hlog := hlog, hlogNext := next, hlogBase := base } } = f s) : f t = f s := by
  unfold OnlyLogged at h
  rw [h]
  exact hf _ _ _ _ _

/-- What a table reads is its default or stands in it. -/
theorem kget_eq_or_mem {α : Type} (d : α) (m : KMap α) (i : Nat) : kget d m i = d ∨ (i, kget d m i) ∈ m := by
  induction m with
  | nil => exact .inl rfl
  | cons p m ih =>
    simp only [kget]
    split
    · next hi => exact .inr (by rw [← hi]; exact List.mem_cons_self)
    · exact ih.imp id (List.mem_cons_of_mem _)

/-- No partition is enabled after a device reset. -/
theorem deviceReset_disabled (k : Nat) (b : Board) (s : State) (n : Nat) : (part (deviceReset k b s) n).enabled = false := by
  obtain hnone | hkept := kget_eq_or_mem {} (deviceReset k b s).sec.parts n
  · rw [part, hnone]
  · obtain ⟨p, -, hp⟩ := List.mem_map.mp (List.mem_filter.mp hkept).1
    rw [part, ← (Prod.mk.inj hp).2]

/-- Settles O47. -/
theorem resetsKeepWhatTheTableKeeps : Obligations.ResetsKeepWhatTheTableKeeps := by
  refine ⟨fun k b s => ?powerUp, fun k b s => ?device⟩
  case powerUp =>
    have hsame {α : Type} := (endInjections_onlyLogged s).same (α := α)
    refine ⟨rfl, rfl, rfl, rfl, rfl, rfl, rfl, rfl, ?_, rfl, rfl, ?_, ?_, rfl, ?_, ?_, ?_, ?_, ?_⟩
    · exact hsame (fun t => ({ millponds := keptBlocks t } : Store)) (fun _ _ _ _ _ => rfl)
    · exact hsame (fun t => ({ drbg := t.sec.drbg } : Sec)) (fun _ _ _ _ _ => rfl)
    · exact hsame (·.nor.audit) (fun _ _ _ _ _ => rfl)
    · exact hsame (·.nor.keySlots) (fun _ _ _ _ _ => rfl)
    · exact hsame (·.nor.straps) (fun _ _ _ _ _ => rfl)
    · exact hsame (·.nor.images) (fun _ _ _ _ _ => rfl)
    · exact hsame (·.nor.floorSteps) (fun _ _ _ _ _ => rfl)
    · exact hsame (·.pending) (fun _ _ _ _ _ => rfl)
  case device =>
    have hdisabled := deviceReset_disabled k b s
    unfold deviceReset cwSetField cwStore at hdisabled ⊢
    have hsame {α : Type} := (endInjections_onlyLogged s).same (α := α)
    refine ⟨rfl, ?_, ?_, ?_, ?_, ?_, ?_, rfl, rfl, rfl, rfl, rfl, rfl, ?_, hdisabled, ?_, ?_, ?_, ?_, ?_, ?_⟩
    · exact hsame (·.pwr.tsWest) (fun _ _ _ _ _ => rfl)
    · exact hsame (·.pwr.tsEast) (fun _ _ _ _ _ => rfl)
    · exact hsame (·.mach.fence) (fun _ _ _ _ _ => rfl)
    · exact hsame (·.mach.gen) (fun _ _ _ _ _ => rfl)
    · exact hsame (fun t => ({ serials := t.core.serials, beatRem := t.core.beatRem, waitRem := t.core.waitRem } : Core))
        (fun _ _ _ _ _ => rfl)
    · exact hsame (fun t => ({ millponds := keptBlocks t, mapLost := t.store.mapLost.filter fun x => x.2 = 1 } : Store))
        (fun _ _ _ _ _ => rfl)
    · exact hsame (·.sec.mapKey) (fun _ _ _ _ _ => rfl)
    · exact hsame (·.nor.audit) (fun _ _ _ _ _ => rfl)
    · exact hsame (·.nor.hist) (fun _ _ _ _ _ => rfl)
    · exact hsame (·.nor.keySlots) (fun _ _ _ _ _ => rfl)
    · exact hsame (·.nor.straps) (fun _ _ _ _ _ => rfl)
    · exact hsame (·.nor.images) (fun _ _ _ _ _ => rfl)
    · exact hsame (·.pending) (fun _ _ _ _ _ => rfl)

/-! ### Rules of single parts -/

/-- Settles O50. -/
theorem sequenceNumbersCompareSerially : Obligations.SequenceNumbersCompareSerially := by
  intro a b
  simp only [precedes, within, decide_eq_true_eq]
  omega

/-- A fold of exclusive-or from any start. -/
theorem foldl_xor_start (l : List Bool) (b : Bool) : l.foldl xor b = xor b (l.foldl xor false) := by
  induction l generalizing b with
  | nil => simp
  | cons x l ih => rw [List.foldl_cons, List.foldl_cons, ih, ih (xor false x)]; simp

/-- Bit `k` of the fold is the exclusive-or of the bits `k` of the 4-bit groups. -/
theorem testBit_fold4 (n g k : Nat) (hk : k < 4) :
    (fold4 n g).testBit k = ((List.range n).map fun j => g.testBit (4 * j + k)).foldl xor false := by
  induction n generalizing g with
  | zero => simp [fold4]
  | succ n ih =>
    have hlow : (g % 16).testBit k = g.testBit k := by
      rw [show 16 = 2 ^ 4 from rfl, Nat.testBit_mod_two_pow]
      simp [hk]
    have hrest (j : Nat) : (g / 16).testBit (4 * j + k) = g.testBit (4 * (j + 1) + k) := by
      rw [show 16 = 2 ^ 4 from rfl, Nat.testBit_div_two_pow]
      congr 1
      omega
    rw [fold4, Nat.testBit_xor, hlow, ih, List.range_succ_eq_map, List.map_cons, List.foldl_cons, foldl_xor_start _ (xor _ _)]
    simp [hrest, Function.comp_def]

/-- A fold of 4-bit groups is one of sixteen. -/
theorem fold4_lt (n g : Nat) : fold4 n g < 16 := by
  induction n generalizing g with
  | zero => simp [fold4]
  | succ n ih => exact Nat.xor_lt_two_pow (n := 4) (Nat.mod_lt _ (by omega)) (ih _)

/-- Settles O51. -/
theorem homeBayFoldsTheGroup : Obligations.HomeBayFoldsTheGroup := by
  refine ⟨fun off _ k hk => testBit_fold4 8 _ k hk, fun off => fold4_lt 8 _, fun a b h => congrArg (fold4 8) h, fun line p h => ?_⟩
  have hgroup : line * 64 / 2 ^ 19 = p * 65536 / 2 ^ 19 := by omega
  exact congrArg (fold4 8) hgroup

/-- A candidate for promotion leaves the page map as it is. -/
theorem page_queuePromo (p q : Nat) (s : State) : page (queuePromo p s) q = page s q := by
  simp only [queuePromo]
  split <;> rfl

/-- An access to a page brings its heat up to date and raises it (R70). -/
theorem page_touchPage {s : State} {p : Nat} (hvalid : (page s p).tier ≠ 0) : page (touchPage p s) p =
    { page s p with heat := min 255 (heatNow s.store.epoch (page s p) + 1), epoch := s.store.epoch } := by
  have hedit := page_editPage_self p
    (fun e => { e with heat := min 255 (heatNow s.store.epoch (page s p) + 1), epoch := s.store.epoch }) s
    (fun h => hvalid (congrArg PageEnt.tier h))
  simp only [touchPage, pageValid, hvalid, ne_eq, not_false_eq_true, decide_true, Bool.not_true, Bool.false_eq_true, if_false]
  split
  · exact (page_queuePromo _ _ _).trans hedit
  · exact hedit

/-- Settles O54. -/
theorem heatFollowsDecayEpochs : Obligations.HeatFollowsDecayEpochs := by
  refine ⟨fun s hservice hdue => ⟨_, congrArg Host.Outcome.next (if_pos (by simp [hservice, hdue])), rfl⟩, fun s p hvalid => ?_⟩
  rw [page_touchPage hvalid]
  simp only [heatNow, Nat.shiftRight_eq_div_pow]

end Sys2Proof.Machine

/-! PROOF. Power, clocks and pins: resets, start-up, islands and the Governor's readings (chapters 2, 17 and 18). -/

namespace Sys2Proof.Machine

/-! ### Resets and start-up -/

/-- Keys written one after another with one value read as it. -/
theorem kget_foldl_kput_of_mem {α : Type} [DecidableEq α] (d x : α) (hx : x ≠ d) (l : List Nat) (m : KMap α) (i : Nat)
    (h : i ∈ l ∨ kget d m i = x) : kget d (l.foldl (fun m b => kput d m b x) m) i = x := by
  induction l generalizing m with
  | nil => exact h.resolve_left (List.not_mem_nil)
  | cons b l ih =>
    refine ih _ ?_
    by_cases hib : i = b
    · exact .inr (by rw [hib]; exact kget_kput_same d m b x hx)
    · rw [kget_kput_other d m b i x hib]
      exact h.imp (fun hmem => (List.mem_cons.mp hmem).resolve_left hib) id

/-- Settles O15. -/
theorem resetAndStartupComplete : Obligations.ResetAndStartupComplete := by
  refine ⟨fun b s hlow => ?rise, fun s => ?fall, fun s hgood htrip hreset => ?hold, fun n b s hgood htrip hreset hlong hstate => ?release,
    fun s hgood => ?trip, fun s hstart h7 h8 hnovva => ?enter, fun s c hstart hcause hc => ?haltEarly,
    fun s c hstart hcause hc => ?haltLate, fun t s hgood htrip hpast => ?tap⟩
  case rise => simp only [exec_powerGoodRise, execPowerGoodRise, hlow, Bool.false_eq_true, if_false]
  case fall => exact ⟨_, rfl, rfl, rfl, rfl, rfl, rfl, rfl, rfl, rfl, rfl, rfl, rfl⟩
  case hold => exact ⟨_, congrArg Host.Outcome.next (if_neg (by simp [hgood, htrip, hreset])), rfl, rfl, rfl⟩
  case release =>
    have hnot : ¬n < 1000 := by omega
    simp [execResetNRise, hgood, htrip, hreset, hstate, hnot]
  case trip => exact ⟨_, congrArg Host.Outcome.next (if_neg (by simp [hgood])), rfl, rfl, rfl, rfl, rfl, rfl⟩
  case enter =>
    refine ⟨_, congrArg Host.Outcome.next (if_pos (by simp [hstart, h7, h8, hnovva])), rfl, rfl, fun b hb => ?_, rfl⟩
    exact kget_foldl_kput_of_mem SliceState.off .serving (by decide) (List.range 16) [] b (.inl (List.mem_range.mpr hb))
  case haltEarly => simp [execStartHalt, hstart, hcause, hc]
  case haltLate =>
    have hnot : ¬(c = 3 ∨ c = 4) := by omega
    have hnot2 : c ≠ 2 := by omega
    simp [execStartHalt, hstart, hcause, hnot, hnot2]
  case tap =>
    simp [execTapInstructionUpdate, hgood, htrip]
    tauto

/-! ### Islands (R44, R46-R48) -/

/-- Settles O16. -/
theorem islandCommandsComplete : Obligations.IslandCommandsComplete := by
  refine ⟨fun i s hi hup => ?loss, fun i s hheld htries => ?again, fun i s hheld htries => ?fails, fun i s hheld htries => ?last,
    fun i s hlate => ?late, fun i n s hstep hup => ?step⟩
  case loss =>
    have hnot : ¬64 ≤ i := by omega
    have hup' : ((island s i).st = .running || (island s i).st = .locking) = true := by simpa using hup
    simp only [exec_pllLockLoss, execPllLockLoss, hnot, hup', decide_false, Bool.not_true, Bool.or_self, Bool.false_eq_true, if_false]
  case again =>
    have hnot : ¬3 ≤ (island s i).tries := by omega
    simp [execIslandRelock, hheld, hnot]
  case fails =>
    have hnot : ¬3 ≤ (island s i).tries := by omega
    have hnot1 : ¬3 ≤ (island s i).tries + 1 := by omega
    simp [execIslandRelock, hheld, hnot, hnot1]
  case last => simp [execIslandRelock, hheld, htries]
  case late =>
    have hlate' : ((island s i).st = .locking || ((island s i).st = .held && decide ((island s i).tries < 3) && stepOpen i s)) = true := by
      simpa [and_assoc] using hlate
    simp only [exec_islandLockTimeout, execIslandLockTimeout, hlate', if_true]
  case step => simp only [exec_rateStepPauseEnd, execRateStepPauseEnd, hstep, hup, if_true]

/-! ### Readings (R39, R50, R466, R474) -/

/-- Settles O17. -/
theorem readingsComplete : Obligations.ReadingsComplete := by
  refine ⟨fun b rate n s hb hgood htrip => ?beats, fun d s hwest heast hhalf hnear => ?near, fun d s hwest heast hhalf hfar => ?far,
    fun r s hgov => ?power, fun i n s hi hgov => ?silent⟩
  case beats =>
    have hnot : ¬16 ≤ b := by omega
    simp [execBayBeatWindow, hnot, hgood, htrip]
  case near =>
    simp [execTimestampCompare, hwest, heast, hhalf, hnear]
  case far =>
    have hnot : ¬((s.pwr.tsEast : Int) + d - now s).natAbs ≤ 10 := by omega
    simp [execTimestampCompare, hwest, heast, hhalf, hnot]
  case power => exact ⟨_, _, congrArg Host.Outcome.next (if_neg hgov), rfl, rfl⟩
  case silent =>
    have hnot : ¬13 ≤ i := by omega
    exact congrArg Host.Outcome.next (if_neg (by simp [hnot, hgov]))

end Sys2Proof.Machine

/-! PROOF. The Millpond: reads, collection, erases, programs and the scan (R46, R93, R94, R96, R99). -/

namespace Sys2Proof.Machine

/-- A read with no retry and no fault injected, of a page that still lies in T3, that decodes. -/
theorem serveRead_of_decoded {r : NandRead} {s : State} {q b : Nat} {bs : List Byte} (hretries : r.retries = 0)
    (hsource : readSource r s = some (q, b))
    (harmed : takeArmed kNand (blkChannel q b) [0x13] (endT3 (r.page * 16 + r.block) s) = (none, endT3 (r.page * 16 + r.block) s))
    (htier : (page (endT3 (r.page * 16 + r.block) s) r.page).tier = 3)
    (hlost : pageLost (endT3 (r.page * 16 + r.block) s) r.page = false)
    (hdecoded : decodeRead r (endT3 (r.page * 16 + r.block) s) = some bs) :
    serveRead r s =
      let u := endT3 (r.page * 16 + r.block) s
      let v := (notCached u (blockLines r.page r.block)).foldl (fun (s : State) l =>
        writeBytes (l * 64) (slice bs (l % 64 * 64) 64) s) u
      (pump ((fetchWanted r.page r.block v).onStore fun x => { x with
        t3Ready := [r.page * 16 + r.block] })).onStore fun x => { x with t3Ready := [] } := by
  simp [serveRead, hsource, harmed, hretries, htier, hlost, hdecoded, b2n]

/-- What a read returns crosses its island's boundary at once where the island runs at its step. -/
theorem exec_t3ReadDone_of_running {r : NandRead} {s : State} {q b : Nat} (hblock : r.block < 16)
    (hsource : readSource r s = some (q, b)) (hrunning : (island s (56 + q)).st = .running) (hstep : (island s (56 + q)).toStep = none) :
    exec (.t3ReadDone r) s = .next (serveRead r s) := by
  have hnot : ¬16 ≤ r.block := by omega
  simp [execT3ReadDone, hnot, hsource, hrunning, hstep]

/-- The events of wear change no pins, islands or power state. -/
theorem wearEvents_pwr (q : Nat) (s : State) : (wearEvents q s).pwr = s.pwr := by
  simp only [wearEvents]
  split <;> split <;> simp [(event_quiet _ _ _ (Quiet.refl _)).pwr, setMillpond]

theorem checkSpares_pwr (q : Nat) (s : State) : (checkSpares q s).pwr = s.pwr := by
  simp only [checkSpares]
  split <;> rfl

/-- Settles O19. -/
theorem millpondCommandsComplete : Obligations.MillpondCommandsComplete := by
  refine ⟨fun r s q b bs hblock hretries hsource hrunning hstep harmed htier hlost hdecoded => ?read,
    fun r s q b hblock hsource hrunning hstep hroom => ?stands, fun q b s hservice hserving hshort hblock => ?collect,
    fun q b s hservice hcollected hvalid hreads hgood hchannels hout => ?erase, fun q b s => rfl,
    fun q b s hq htarget => ?bad, fun q s hscanning hstate => ?scan⟩
  case read =>
    exact (exec_t3ReadDone_of_running hblock hsource hrunning hstep).trans
      (congrArg Host.Outcome.next (serveRead_of_decoded hretries hsource harmed htier hlost hdecoded))
  case stands =>
    have hnot : ¬16 ≤ r.block := by omega
    simp [execT3ReadDone, hnot, hsource, hrunning, hstep, hroom]
  case collect => simp [execMillpondGcStart, hservice, hserving, hshort, hblock]
  case erase =>
    have hcollected' : b ∈ (millpond s q).collecting := by simpa using hcollected
    simp [execMillpondBlockErase, hservice, hcollected', hvalid, hreads, hgood, hchannels, hout]
  case bad =>
    have hnot : ¬4 ≤ q := by omega
    have hsome : (tgOf (millpond s q) b).isNone = false := by simpa using htarget
    simp only [exec_millpondProgramDone, execMillpondProgramDone, hnot, hsome, decide_false, Bool.or_self, Bool.false_eq_true, if_false]
  case scan =>
    have hservice : inService (checkSpares q (wearEvents q
        (setMillpond q (fun m => { m with st := .serving, blocks := scanErase m }) s))) = false := by
      simp [inService, checkSpares_pwr, wearEvents_pwr, setMillpond, hstate]
    simp [execMillpondScanDone, hscanning, hservice]

end Sys2Proof.Machine

/-! PROOF. Krathar transport: frames received, acknowledgements, timers, links, and the answers to own requests (chapters 4 and 5, R405, R411). -/

namespace Sys2Proof.Machine

/-! ### Frames received (R487) -/

/-- Settles O20. -/
theorem frameRxComplete : Obligations.FrameRxComplete := by
  refine ⟨fun f s k hkt hdrop h8 h10 => ?drops, fun f s hkt hdrop => ?spoofed, fun f s n hkt hdrop hctx => ?full,
    fun f s hkt hpass hopen => ?opening, fun f s n hkt hpass hopen hctx hseqd hdup => ?again, fun f s n hkt hpass hopen hctx hnew => ?new,
    fun f s hkt => ?foreign⟩
  case drops =>
    have hrx : frameRx f s = bump (aKT k) (pnNoted f s) := by
      simp only [frameRx, hdrop, pnNoted]
    simp only [exec_ktFrameRx, execKtFrameRx, hkt, if_true, hrx]
  case spoofed => simp only [exec_ktFrameRx, execKtFrameRx, hkt, if_true, frameRx, hdrop, pnNoted]
  case full => simp only [exec_ktFrameRx, execKtFrameRx, hkt, if_true, frameRx, hdrop, hctx, pnNoted]
  case opening => simp only [exec_ktFrameRx, execKtFrameRx, hkt, if_true, frameRx, hpass, hopen]
  case again =>
    simp only [exec_ktFrameRx, execKtFrameRx, hkt, if_true, frameRx, hpass, hopen, if_false, hctx, hseqd, hdup, Bool.and_self, pnNoted]
  case new =>
    have hfresh : (f.seqd && rxDup (ctx s n) f.seq.toNat) = false := by
      cases hseqd : f.seqd with
      | false => rfl
      | true => simpa using hnew hseqd
    simp only [exec_ktFrameRx, execKtFrameRx, hkt, if_true, frameRx, hpass, hopen, if_false, hctx, hfresh, Bool.false_eq_true, pnNoted]
  case foreign => simp [execKtFrameRx, hkt]

/-! ### Acknowledgement, timers and links (R103, R104, R117-R121) -/

/-- A context that is changed to a live one reads as it was changed. -/
theorem ctx_setCtx_of_live (n : Nat) (f : Ctx → Ctx) (s : State) (h : (f (ctx s n)).live = true) : ctx (setCtx n f s) n = f (ctx s n) :=
  kget_kmod_same ({} : Ctx) _ n f fun hnone => by
    have hlive : (f (ctx s n)).live = false := congrArg Ctx.live hnone
    rw [hlive] at h
    exact nomatch h

/-- A link that is not Off reads as it was set. -/
theorem link_setLink (l : Nat) (x : Link) (s : State) (h : x.st ≠ .off) : link (setLink l x s) l = x :=
  kget_kput_same ({} : Link) _ l x fun hnone => h (congrArg Link.st hnone)

/-- The oldest held frame of a live context whose time has run out is timed out. -/
theorem timedOut_of_elapsed {n : Nat} {h : Held} {s : State} (hold : oldestHeld (ctx s n) = some h) (hlive : (ctx s n).live = true)
    (hdue : elapsed s h.sentAt (if retxLimit s ≤ (ctx s n).tries then rtoMax s else rto s (ctx s n)) = true) : timedOut n s = some h := by
  simp only [timedOut, hold, Option.filter, hlive, hdue, Bool.and_self, if_true]

/-- Settles O21. -/
theorem transportCommandsComplete : Obligations.TransportCommandsComplete := by
  refine ⟨fun a s hlive => ?ack, fun n a h s hlive hnone => ?nack, fun n p k x s hlive => ?probe,
    fun n p k x s hlive hout hplane htok hts hreplies => ?reply, fun n x l s howed hlive hdue => ?ackTimer,
    fun n h s hold hlive htries hdue => ?retry, fun n h s hold hlive htries hdue => ?moves,
    fun n s hlive hplane hlinks hreach hdue => ?probes, fun l s hup => ?down, fun l s f w htraining hgroup => ?up,
    fun l s htraining => ?fails⟩
  case ack => simp only [exec_ack, execAck, hlive, if_true]
  case nack =>
    simp only [exec_nack, execNack, hlive, if_true]
    cases htimed : timedOut n (closeAcked n (applyAck n a (ctx s n).rwnd 0 [] s)) with
    | none => rfl
    | some x =>
      rw [htimed] at hnone
      have hasked : (decide (0 < x.sends) && !precedes x.seq a && precedes x.seq h) = false :=
        Bool.not_eq_true' _ ▸ hnone
      simp only [hasked, Bool.false_eq_true, if_false]
  case probe => simp only [exec_probe, execProbe, hlive, if_true]
  case reply =>
    have hturn (c : Ctx) (hc : c.probeReplies = 2) (x y : Ctx) : (if 3 ≤ c.probeReplies + 1 then x else y) = x := if_pos (by omega)
    refine ⟨_, congrArg Host.Outcome.next (if_pos (by simp [hlive, hout, hplane, htok, hts])), ?_, ?_, ?_, rfl⟩
    all_goals rw [ctx_setCtx_of_live _ _ _ (by rw [hturn _ hreplies]; exact hlive), hturn _ hreplies]
  case ackTimer => simp only [exec_ackTimer, execAckTimer, howed, hlive, hdue, Bool.and_self, if_true]
  case retry =>
    have hwithin : ¬retxLimit s ≤ (ctx s n).tries := by omega
    have htimed := timedOut_of_elapsed hold hlive (by rw [if_neg hwithin]; exact hdue)
    simp only [exec_rtoExpiry, execRtoExpiry, htimed, timeout, htries, if_true]
  case moves =>
    have hspent : ¬(ctx s n).tries + 1 < retxLimit s := by omega
    simp only [exec_rtoExpiry, execRtoExpiry, timedOut_of_elapsed hold hlive hdue, timeout, hspent, if_false, Bool.and_eq_true,
      Bool.not_eq_true']
  case probes => exact congrArg Host.Outcome.next (if_pos (by simp [hlive, hplane, hlinks, hreach, hdue]))
  case down => simp only [exec_linkDown, execLinkDown, hup, if_true]
  case up =>
    have hlink : linkUp l s = setLink l { st := .up, width := w / 2, first := f } s := by simp only [linkUp, hgroup]
    exact ⟨_, congrArg Host.Outcome.next (if_pos (by simp [htraining])), by rw [if_pos rfl, hlink]; exact link_setLink _ _ _ nofun⟩
  case fails =>
    exact ⟨_, congrArg Host.Outcome.next (if_pos (by simpa using htraining)), link_setLink _ _ _ (by decide)⟩

/-! ### Own requests and silent nodes (R138, R160, R405, R411) -/

/-- Settles O23. -/
theorem ownRequestEventsComplete : Obligations.OwnRequestEventsComplete := by
  refine ⟨fun n g o s hown hbackoff hqueued hdue => ?dead, fun n g o s op tag st p v a d hown hrec => ?again,
    fun n g l o s st op tag sr v p a d w hown hqueued hbackoff hrec hstatus => ?answered,
    fun n g l o s st w hown hqueued hbackoff => ?interim, fun n g l o s w hown hqueued hbackoff => ?retried,
    fun n s hlive hsilent hdue => ?fence⟩
  case dead =>
    simp only [exec_requestDeadline, execRequestDeadline, hown, hbackoff, hqueued, hdue, Bool.not_false, Bool.and_self, if_true]
  case again => simp only [exec_retryBackoff, execRetryBackoff, hown, hrec]
  case answered =>
    have hop : o.rcd.op = op := by rw [hrec]; rfl
    simp only [exec_setForwardResponse, execSetForwardResponse, hown, hqueued, hbackoff, hop, hstatus, Bool.or_self, ne_eq,
      not_true_eq_false, decide_false, Bool.false_eq_true, if_false]
    simp only [hrec]
  case interim => simp [execSetForwardResponse, hown, hqueued, hbackoff]
  case retried => simp [execSetForwardResponse, hown, hqueued, hbackoff]
  case fence => simp [execLiveBoundExpiry, hlive, hsilent, hdue]

/-! ### Timers of transactions (R133, R137, R151, R161) -/

/-- Settles O27. -/
theorem transactionTimersComplete : Obligations.TransactionTimersComplete := by
  refine ⟨fun l s hopen hdue => ?drain, fun n g it s hit hdue => ?dead, fun a ca b cb s hservice hdue => ?window⟩
  case drain => simp only [exec_combineDrainTimer, execCombineDrainTimer, hopen, hdue, Bool.and_self, if_true]
  case dead => simp only [exec_homeDeadline, execHomeDeadline, hit, hdue, if_true]
  case window => exact congrArg Host.Outcome.next (if_pos (by simp [hservice, hdue]))

end Sys2Proof.Machine

/-! PROOF. Requests that have come to their line, alone in the queues: loads, the lines of LOAD_LINES and STORE_LINES, folding, messages and coherence requests (R140, R150-R157, R164, R177). -/

namespace Sys2Proof.Machine

/-! ### A line that is quiet -/

theorem not_lineBusy_of_lineQuiet {line : Nat} {s : State} (h : lineQuiet line s = true) : lineBusy s line = false := by
  simp only [lineQuiet, Bool.and_eq_true, Bool.not_eq_true'] at h
  exact h.1

theorem dirSt_of_lineQuiet {line : Nat} {s : State} (h : lineQuiet line s = true) : (dirEnt s line).st = .i := by
  simp only [lineQuiet, Bool.and_eq_true, decide_eq_true_eq] at h
  exact h.2

theorem prepRead_of_lineQuiet {line : Nat} {s : State} (h : lineQuiet line s = true) : prepRead line s = .ready := by
  simp [prepRead, not_lineBusy_of_lineQuiet h, dirSt_of_lineQuiet h]

theorem prepWrite_of_lineQuiet {line : Nat} (own : Option Nat) {s : State} (h : lineQuiet line s = true) :
    prepWrite line own s = .ready := by
  simp [prepWrite, not_lineBusy_of_lineQuiet h, dirSt_of_lineQuiet h]

theorem eq_ready_of_isGo {p : Prep} (h : isGo p = true) : p = .ready := by
  cases p with
  | ready => rfl
  | wait => cases h
  | go s => cases h

theorem eq_go_of_isOpen {p : Stop} (h : isOpen p = true) : p = .go := by
  cases p with
  | go => rfl
  | wait s => cases h
  | answer st s => cases h

theorem of_lineOpen {line : Nat} {s : State} (h : lineOpen line s = true) :
    pageUnusable s (line / 1024) = false ∧ lineReadable s line = true := by
  simpa only [lineOpen, Bool.and_eq_true, Bool.not_eq_true'] using h

/-! ### Loads (R140, R164) -/

/-- A load of an open, quiet line that no set holds back is performed. -/
theorem serveLoad_of_lineOpen {it : Item} {s : State} (hopen : lineOpen (it.off / 64) s = true)
    (hheld : loadHeld s it.off = false) (hquiet : lineQuiet (it.off / 64) s = true) :
    serveLoad it s = some (
      let r := accessLine (it.off / 64) it.syms s
      if r.1 then endItem it sPOISONED 0 (ffs (it.param + 1)) (bump (aTXN 0) r.2)
      else endItem it sOK 0 (readBytes s it.off (it.param + 1)) (bump (aTXN 0) r.2)) := by
  obtain ⟨husable, hreadable⟩ := of_lineOpen hopen
  simp [serveLoad, husable, hheld, hreadable, prepRead_of_lineQuiet hquiet]

/-- The next line of a LOAD_LINES, open, quiet and not held back, is taken. -/
theorem serveLoadLine_of_lineOpen {it : Item} {line : Nat} {s : State} (hopen : lineOpen line s = true)
    (hheld : loadHeld s (line * 64) = false) (hquiet : lineQuiet line s = true) :
    serveLoadLine it line s = some (
      let r := accessLine line {} s
      let g : LineGot := { done := true, poison := r.1, data := readBytes s (line * 64) 64 }
      let it' : Item := { it with got := kput {} it.got (line - it.off / 64) g }
      let u := updateItem it.id (fun _ => it') r.2
      if (itemLines it').isEmpty then loadLinesAnswer it' u else u) := by
  obtain ⟨husable, hreadable⟩ := of_lineOpen hopen
  simp [serveLoadLine, husable, hheld, hreadable, prepRead_of_lineQuiet hquiet]

/-- A free request of many lines is tried at each of its lines in turn. -/
theorem tryItem_lines (it : Item) (s : State) (h : itemFree it s = true) (hop : it.op = 0x01 ∨ it.op = 0x12) :
    tryItem s it = (itemLines it).findSome? fun l =>
      atLine it (if it.op = 0x01 then serveLoadLine it l else serveWrite it l) l s := by
  simp only [itemFree, Bool.and_eq_true, Bool.not_eq_true', Option.isNone_iff_eq_none] at h
  obtain ⟨⟨⟨⟨⟨hanswer, hlost⟩, -⟩, hstrict⟩, horder⟩, -⟩ := h
  rcases hop with hop | hop <;> simp [tryItem, hop, hanswer, hlost, hstrict, horder, within]

/-- A request of many lines that waits alone is performed at the first of them that is served. -/
theorem tryItem_firstLine {it : Item} {line : Nat} {rest : List Nat} {s u : State} (h : itemFree it s = true)
    (hop : it.op = 0x01 ∨ it.op = 0x12) (halone : s.home.waitq = [it]) (hlines : itemLines it = line :: rest)
    (hcomb : combOpen s line = false)
    (hserve : (if it.op = 0x01 then serveLoadLine it line else serveWrite it line) s = some u) :
    tryItem s it = some u := by
  rw [tryItem_lines it s h hop, hlines, List.findSome?_cons, atLine_alone it _ _ s halone hcomb, hserve]

/-- Settles O24: a request alone at its open line is performed in its turn (`request_onward`), by `serveLoad` and `serveLoadLine`. -/
theorem loadCommandsComplete : Obligations.LoadCommandsComplete := by
  unfold Obligations.LoadCommandsComplete
  refine ⟨?load, ?lines⟩
  case load =>
    intro c y s n x it t line hcomes hcomb hopen hheld hquiet r
    obtain ⟨-, -, -, -, halone, hop, -, -, hfree⟩ := comes_iff 0x00 c y s n hcomes
    change it.op = 0x00 at hop
    refine (exec_load c y s).trans (request_onward 0x00 c y s _ n hcomes ?_)
    rw [tryItem_line it t hfree (by omega) (by omega) (by omega) (by omega), atLine_alone it _ _ t halone hcomb]
    simp only [hop]
    exact serveLoad_of_lineOpen hopen hheld hquiet
  case lines =>
    intro c s n line rest x it t hcomes hlines hcomb hopen hheld hquiet r g it' u
    obtain ⟨-, -, -, -, halone, hop, -, -, hfree⟩ := comes_iff 0x01 c {} s n hcomes
    refine (exec_loadLines c s).trans (request_onward 0x01 c {} s _ n hcomes ?_)
    refine tryItem_firstLine hfree (.inl hop) halone hlines hcomb ?_
    rw [if_pos (show it.op = 0x01 from hop)]
    exact serveLoadLine_of_lineOpen hopen hheld hquiet

/-! ### Writes and folding (R144, R150-R152) -/

/-- STORE_LINES writes its next line, which is open to it, and answers with the last. -/
theorem serveWrite_storeLines {it : Item} {line : Nat} {s : State} (hop : it.op = 0x12)
    (hopen : writeOpen it line s = true) (halloc : (allocated it line (writeResult it line s).1 s).1 = 0) :
    let w := writeResult it line s
    let p := putLines it.part (itemWrite it) w.1 true (allocated it line w.1 s).2
    let it' : Item := { it with got := kput {} it.got (line - it.off / 64) { done := true } }
    let u := addForwards it.id p.1 (updateItem it.id (fun _ => it') p.2)
    serveWrite it line s = some
      (if (itemLines it').isEmpty then endWrite it' [] sOK 0 [] (writeStat 0x12 w.2.1 u) else u) := by
  obtain ⟨-, hdenied, hheld, hpage, hprep, hcontrol, -, hread⟩ := of_writeOpen hopen
  intro w p it' u
  unfold serveWrite
  split
  next m hm => exact absurd hm (hdenied m)
  next hm => exact absurd hm hheld
  next =>
    have hmedium : (!coversLine w.1 line && !lineReadable s line) = false := by
      rcases hread with hcovers | ⟨hreadable, -⟩
      · simp [w, hcovers]
      · simp [hreadable]
    have hfetch : (if coversLine w.1 line then (false, s) else fetchLine line {} s)
        = (false, if coversLine w.1 line then s else (fetchLine line {} s).2) := by
      rcases hread with hcovers | ⟨-, hclean⟩
      · simp [w, hcovers]
      · split
        · rfl
        · exact Prod.ext hclean rfl
    have hstore : ¬ it.op = 0x10 := by omega
    simp only [hcontrol, hpage, hprep, Bool.false_eq_true, if_false]
    rw [hmedium, hfetch, if_neg hstore, show writeStat it.op = writeStat 0x12 from congrArg writeStat hop]
    simp only [Bool.false_eq_true, if_false]
    refine (if_neg (not_not_intro halloc)).trans ((if_pos hop).trans ?_)
    by_cases hlast : (itemLines it').isEmpty = true
    · exact (if_pos hlast).trans (congrArg some (if_pos hlast).symm)
    · exact (if_neg hlast).trans (congrArg some (if_neg hlast).symm)

/-- An atomic that may fold is folded, into its line's open entry or a new one, once its page is allocated. -/
theorem admitted_folded {it : Item} {s : State} (hop : it.op ≠ 0x53 ∧ it.op ≠ 0x54) (hmay : mayFold it s = true)
    (hstrict : strictStopped it s = false) (halloc : (foldFirst it s).1 = 0)
    (hroom : let line := it.off / 64; let u := (foldFirst it s).2
      if combOpen u line then (comb u line).op = it.op ∧ (comb u line).width = atomicWidth it.param
      else mayFold it u = true ∧ (combBay u (lineBay line)).length < 256) :
    admitted it s = pump (foldInto it (foldFirst it s).2) := by
  have hfold : (foldOrNot it (foldFirst it s).2).1 = some (foldInto it (foldFirst it s).2) := by
    dsimp only at hroom
    split at hroom
    case isTrue hcomb => simp [foldOrNot, hcomb, hroom]
    case isFalse hcomb =>
      have hclosed : combOpen (foldFirst it s).2 (it.off / 64) = false := by simpa using hcomb
      simp [foldOrNot, hclosed, drainComb_closed _ _ hclosed, hroom, Nat.not_le.mpr hroom.2]
  simp only [admitted, hop.1, hop.2, hmay, hstrict, halloc, decide_false, Bool.false_and, Bool.false_eq_true, if_false,
    Bool.not_false, Bool.and_self, if_true, ne_eq, not_true_eq_false]
  split
  next heq => exact congrArg pump (Option.some.inj ((congrArg Prod.fst heq).symm.trans hfold))
  next heq => exact absurd ((congrArg Prod.fst heq).symm.trans hfold) nofun

/-- Settles O25: the one-line writes are `exec_lineWrite_of_writeOpen`, STORE_LINES its line-by-line form, and an atomic folds at its admission. -/
theorem writeCommandsComplete : Obligations.WriteCommandsComplete := by
  unfold Obligations.WriteCommandsComplete
  refine ⟨fun k op c s n hk => exec_lineWrite_of_writeOpen hk c s n, ?lines, ?fold⟩
  case lines =>
    intro c s n line rest x it t w hcomes hlines hopen halloc p it' u
    obtain ⟨-, -, -, -, halone, hop, -, -, hfree⟩ := comes_iff 0x12 c {} s n hcomes
    refine (exec_storeLines c s).trans (request_onward 0x12 c {} s _ n hcomes ?_)
    obtain ⟨hcomb, -⟩ := of_writeOpen hopen
    refine tryItem_firstLine hfree (.inr hop) halone hlines hcomb ?_
    rw [if_neg (by rw [show it.op = 0x12 from hop]; decide)]
    exact serveWrite_storeLines hop hopen halloc
  case fold =>
    intro k op c s hk hop x line u hclear hmay hstrict halloc hroom
    have hrange : 0x20 ≤ op ∧ op ≤ 0x28 := of_decide_eq_true hop
    have hxop : x.1.op = op := reqIn_fst_op op c {} s
    have hcoh : x.1.op ≠ 0x53 ∧ x.1.op ≠ 0x54 := by
      rw [hxop]
      omega
    rw [exec_of_mem_lineWrites hk c s, request_admitted op c {} s hclear]
    exact congrArg Host.Outcome.next (admitted_folded hcoh hmay hstrict halloc (by rw [hxop]; exact hroom))

end Sys2Proof.Machine

/-! PROOF. Messages and coherence requests that have come to their line (R156, R157, R177-R179). -/

namespace Sys2Proof.Machine

/-! ### Rings (R156, R157) -/

/-- What `ringOpen` grants: the control line may be written and read, no entry is open there, and its ring is sound and the partition's. -/
theorem of_ringOpen {it : Item} {s : State} (h : ringOpen it s = true) :
    combOpen s (it.off / 64) = false ∧ prepWrite (it.off / 64) none s = .ready
    ∧ pageUnusable s (it.off / 64 / 1024) = false ∧ lineReadable s (it.off / 64) = true
    ∧ (fetchLine (it.off / 64) {} s).1 = false ∧ ringOk s (ringAt s it.off) it.part = true
    ∧ ringCheck it (ringAt s it.off) s = sOK := by
  simp only [ringOpen, readsGood, lineOpen, Bool.and_eq_true, Bool.not_eq_true', decide_eq_true_eq] at h
  obtain ⟨⟨⟨⟨⟨⟨hcomb, -⟩, hgo⟩, husable, hreadable⟩, -, hclean⟩, hring⟩, hcheck⟩ := h
  exact ⟨hcomb, eq_ready_of_isGo hgo, husable, hreadable, hclean, hring, hcheck⟩

/-- The writes of a MSG_APPEND: its entry, padded, and the new TAIL. -/
def appendWrites (it : Item) (node : Nat) (s : State) : List (Nat × List Byte) :=
  let r := ringAt s it.off
  let len := field it.payload 0 4
  let size := (8 + len + 63) / 64 * 64
  let bytes := leBytes 4 len ++ leBytes 2 node ++ [0, 0] ++ slice it.payload 8 len
  (List.zipWith (fun a b => (a, [b])) (ringBytes r r.tail size) (bytes ++ List.replicate (size - bytes.length) 0))
    ++ [(it.off + 24, leBytes 8 (r.tail + size))]

/-- A message with room is written, entry and TAIL together, and answered with the new TAIL. -/
theorem serveAppend_of_ringOpen {it : Item} {node : Nat} {s : State} (hsrc : it.src = .agent node)
    (hopen : ringOpen it s = true)
    (hcap : (8 + field it.payload 0 4 + 63) / 64 * 64 ≤ (ringAt s it.off).cap)
    (hroom : (ringAt s it.off).tail + (8 + field it.payload 0 4 + 63) / 64 * 64 - (ringAt s it.off).head ≤ (ringAt s it.off).cap)
    (hprep : isGo (prepAll (fun l s => prepWrite l none s) (writeLines (appendWrites it node s)) (fetchLine (it.off / 64) {} s).2) = true)
    (hclean : (writeLines (appendWrites it node s)).any (poisoned (fetchLine (it.off / 64) {} s).2) = false)
    (hpages : isOpen ((writeLines (appendWrites it node s)).foldl (fun r l => match r with
      | .go => pageForWrite (l / 1024) (fetchLine (it.off / 64) {} s).2
      | r => r) Stop.go) = true)
    (halloc : (allocFor it.part (appendWrites it node s) (fetchLine (it.off / 64) {} s).2).1 = 0) :
    let u := (fetchLine (it.off / 64) {} s).2
    let p := putLines it.part (itemWrite it) (appendWrites it node s) true (allocFor it.part (appendWrites it node s) u).2
    serveAppend it s = some (endWrite it p.1 sOK ((ringAt s it.off).tail + (8 + field it.payload 0 4 + 63) / 64 * 64) [] p.2) := by
  obtain ⟨-, hready, husable, hreadable, hfetch, hring, hcheck⟩ := of_ringOpen hopen
  have hprep' := eq_ready_of_isGo hprep
  have hpages' := eq_go_of_isOpen hpages
  unfold appendWrites at hprep' hpages' hclean halloc ⊢
  simp only [serveAppend, hready, husable, hreadable, hfetch, hring, hcheck, hsrc, Bool.not_true, Bool.false_eq_true, if_false,
    ne_eq, not_true_eq_false, Nat.not_lt.mpr hcap, Nat.not_lt.mpr hroom, hprep', hclean]
  split
  next heq => exact absurd (heq.symm.trans hpages') nofun
  next heq => exact absurd (heq.symm.trans hpages') nofun
  next => exact (if_neg (not_not_intro halloc)).trans rfl

/-- MSG_TAKE of an empty ring answers length 0. -/
theorem serveTake_of_empty {it : Item} {s : State} (hopen : ringOpen it s = true)
    (hempty : (ringAt s it.off).head = (ringAt s it.off).tail) :
    serveTake it s = some (endItem it sOK 0 [] (touchPage (it.off / 64 / 1024) (fetchLine (it.off / 64) {} s).2)) := by
  obtain ⟨-, hready, husable, hreadable, hfetch, hring, hcheck⟩ := of_ringOpen hopen
  simp only [serveTake, hready, husable, hreadable, hfetch, hring, hcheck, Bool.not_true, Bool.false_eq_true, if_false,
    ne_eq, not_true_eq_false, hempty, if_true]

/-- The length of the message at the head of a ring. -/
def takeLength (it : Item) (s : State) : Nat := leNat ((ringBytes (ringAt s it.off) (ringAt s it.off).head 4).map (readByte s))

/-- The ring bytes that message takes, padded to lines. -/
def takeSize (it : Item) (s : State) : Nat := (8 + takeLength it s + 63) / 64 * 64

theorem foldl_fetchLine_eq_readEach (ls : List Nat) (s : State) :
    ls.foldl (fun (x : Bool × State) l => (x.1 || (fetchLine l {} x.2).1, (fetchLine l {} x.2).2)) (false, s) = readEach ls s := rfl

theorem foldl_accessLine_eq_takeEach (ls : List Nat) (s : State) :
    ls.foldl (fun (x : Bool × State) l => (x.1 || (accessLine l {} x.2).1 || pageUnusable x.2 (l / 1024), (accessLine l {} x.2).2))
      (false, s) = takeEach ls s := rfl

theorem leNat_ringBytes_eq_takeLength (it : Item) (s : State) :
    leNat ((ringBytes (ringAt s it.off) (ringAt s it.off).head 4).map (readByte s)) = takeLength it s := rfl

theorem roundUp_eq_takeSize (it : Item) (s : State) : (8 + takeLength it s + 63) / 64 * 64 = takeSize it s := rfl

/-- The lines of the header of the message at the head of a ring. -/
def takeHead (it : Item) (s : State) : List Nat := ringLines (ringAt s it.off) (ringAt s it.off).head 8

/-- The lines of that message. -/
def takeBody (it : Item) (s : State) : List Nat := ringLines (ringAt s it.off) (ringAt s it.off).head (takeSize it s)

/-- The state in which the header has been read. -/
def takeSeen (it : Item) (s : State) : State := (readEach (takeHead it s) (fetchLine (it.off / 64) {} s).2).2

/-- MSG_TAKE of a ring with a sound message answers it and moves HEAD. -/
theorem serveTake_of_message {it : Item} {node : Nat} {s : State} (hsrc : it.src = .agent node) (hopen : ringOpen it s = true)
    (hfull : (ringAt s it.off).head ≠ (ringAt s it.off).tail)
    (hprep : isGo (prepAll (fun l s => prepRead l s) (takeHead it s) (fetchLine (it.off / 64) {} s).2) = true)
    (hhead : ((takeHead it s).all fun l => !pageUnusable s (l / 1024) && lineReadable (fetchLine (it.off / 64) {} s).2 l) = true)
    (hclean : (readEach (takeHead it s) (fetchLine (it.off / 64) {} s).2).1 = false)
    (hlen : within (takeLength it s) 1 8192 = true) (hwhole : (ringAt s it.off).head + takeSize it s ≤ (ringAt s it.off).tail)
    (hroom : (16 + takeLength it s + 63) / 64 * 64 ≤ frameRoom s node)
    (hprep2 : isGo (prepAll (fun l s => prepRead l s) (takeBody it s) (takeSeen it s)) = true)
    (hbody : ((takeBody it s).all fun l => lineOpen l (takeSeen it s)) = true)
    (hpage : isOpen (pageForWrite (it.off / 64 / 1024) (takeSeen it s)) = true)
    (hclean2 : (takeEach (takeBody it s) (takeSeen it s)).1 = false) :
    let r := ringAt s it.off
    let p := putLines it.part (itemWrite it) [(it.off + 16, leBytes 8 (r.head + takeSize it s))] true
      (takeEach (takeBody it s) (takeSeen it s)).2
    serveTake it s = some (endWrite it p.1 sOK (takeLength it s)
      (((ringBytes r r.head (8 + takeLength it s)).drop 8).map (readByte s))
      (setCtx node (fun y => { y with bucket := y.bucket.map fun b => b - (((units64 (takeLength it s) - 1) * 640 : Nat) : Int) }) p.2)) := by
  intro r p
  obtain ⟨-, hready, husable, hreadable, hfetch, hring, hcheck⟩ := of_ringOpen hopen
  have hprep' := eq_ready_of_isGo hprep
  have hprep2' := eq_ready_of_isGo hprep2
  have hpage' := eq_go_of_isOpen hpage
  have husableHead : ((takeHead it s).any fun l => pageUnusable s (l / 1024)) = false := by
    simp only [List.any_eq_false, List.all_eq_true, Bool.and_eq_true, Bool.not_eq_true'] at hhead ⊢
    exact fun l hl => by simp [(hhead l hl).1]
  have hreadableHead : ((takeHead it s).any fun l => !lineReadable (fetchLine (it.off / 64) {} s).2 l) = false := by
    simp only [List.any_eq_false, List.all_eq_true, Bool.and_eq_true, Bool.not_eq_true'] at hhead ⊢
    exact fun l hl => by simp [(hhead l hl).2]
  have hreadableBody : ((takeBody it s).any fun l => !lineReadable (takeSeen it s) l && !pageUnusable (takeSeen it s) (l / 1024)) = false := by
    simp only [List.any_eq_false, List.all_eq_true] at hbody ⊢
    exact fun l hl => by simp [(of_lineOpen (hbody l hl)).2]
  have hlenOk : ¬ (takeLength it s = 0 ∨ 8192 < takeLength it s ∨ (ringAt s it.off).tail < (ringAt s it.off).head + takeSize it s) := by
    have hrange : 1 ≤ takeLength it s ∧ takeLength it s ≤ 8192 := of_decide_eq_true hlen
    omega
  have hroomOk := Nat.not_lt.mpr hroom
  have fold_head : ringLines (ringAt s it.off) (ringAt s it.off).head 8 = takeHead it s := rfl
  have fold_body : ringLines (ringAt s it.off) (ringAt s it.off).head (takeSize it s) = takeBody it s := rfl
  have fold_seen : (readEach (takeHead it s) (fetchLine (it.off / 64) {} s).2).2 = takeSeen it s := rfl
  simp only [serveTake, hready, husable, hreadable, hfetch, hring, hcheck, Bool.not_true, Bool.false_eq_true, if_false,
    ne_eq, not_true_eq_false, hfull, hsrc, fold_head, hprep', husableHead, hreadableHead, foldl_fetchLine_eq_readEach, hclean,
    leNat_ringBytes_eq_takeLength, roundUp_eq_takeSize, hlenOk, hroomOk, fold_body, fold_seen, hprep2', hreadableBody, hpage',
    foldl_accessLine_eq_takeEach, hclean2]
  rfl

/-- Settles O26: MSG_APPEND and MSG_TAKE, alone at their ring's control line, are performed there. -/
theorem messageCommandsComplete : Obligations.MessageCommandsComplete := by
  unfold Obligations.MessageCommandsComplete
  refine ⟨?append, ?empty, ?message⟩
  case append =>
    intro c s n x it t cl r len size bytes ws u hcomes hopen hcap hroom hprep hclean hpages halloc p
    obtain ⟨-, -, -, -, halone, hop, hsrc, -, hfree⟩ := comes_iff 0x70 c {} s n hcomes
    change it.op = 0x70 at hop
    refine (exec_msgAppend c s).trans (request_onward 0x70 c {} s _ n hcomes ?_)
    rw [tryItem_line it t hfree (by omega) (by omega) (by omega) (by omega), atLine_alone it _ _ t halone (of_ringOpen hopen).1]
    simp only [hop]
    exact serveAppend_of_ringOpen hsrc hopen hcap hroom hprep hclean hpages halloc
  case empty =>
    intro c s n x it t cl r hcomes hopen hempty
    obtain ⟨-, -, -, -, halone, hop, hsrc, -, hfree⟩ := comes_iff 0x71 c {} s n hcomes
    change it.op = 0x71 at hop
    refine (exec_msgTake c s).trans (request_onward 0x71 c {} s _ n hcomes ?_)
    rw [tryItem_line it t hfree (by omega) (by omega) (by omega) (by omega), atLine_alone it _ _ t halone (of_ringOpen hopen).1]
    simp only [hop]
    exact serveTake_of_empty hopen hempty
  case message =>
    intro c s n x it t cl r hl len size ml u v w hcomes hopen hfull hprep hhead hclean hlen hwhole hroom hprep2 hbody hpage hclean2 p
    obtain ⟨-, -, -, -, halone, hop, hsrc, -, hfree⟩ := comes_iff 0x71 c {} s n hcomes
    change it.op = 0x71 at hop
    refine (exec_msgTake c s).trans (request_onward 0x71 c {} s _ n hcomes ?_)
    rw [tryItem_line it t hfree (by omega) (by omega) (by omega) (by omega), atLine_alone it _ _ t halone (of_ringOpen hopen).1]
    simp only [hop]
    exact serveTake_of_message hsrc hopen hfull hprep hhead hclean hlen hwhole hroom hprep2 hbody hpage hclean2

end Sys2Proof.Machine

/-! PROOF. Coherence: requests at a line in I, evictions and write-backs, grants acknowledged, and the events of snoops (chapter 6). -/

namespace Sys2Proof.Machine

/-! ### Requests for a copy (R171, R177) -/

/-- Each request for a copy is the request of its opcode. -/
theorem exec_of_mem_copies {k : TxnReq → Instr} {op : Nat}
    (h : (k, op) ∈ [((Instr.rdShared : TxnReq → Instr), 0x50), (.rdOwn, 0x51), (.upgrade, 0x52)]) (c : TxnReq) (s : State) :
    exec (k c) s = .next (request op c {} s) := by
  have hall : ∀ p ∈ [((Instr.rdShared : TxnReq → Instr), 0x50), (.rdOwn, 0x51), (.upgrade, 0x52)],
      exec (p.1 c) s = .next (request p.2 c {} s) := by
    simp only [List.forall_mem_cons]
    exact ⟨rfl, rfl, rfl, nofun⟩
  exact hall _ h

theorem op_of_mem_copies {k : TxnReq → Instr} {op : Nat}
    (h : (k, op) ∈ [((Instr.rdShared : TxnReq → Instr), 0x50), (.rdOwn, 0x51), (.upgrade, 0x52)]) :
    op = 0x50 ∨ op = 0x51 ∨ op = 0x52 := by
  simp only [List.mem_cons, Prod.mk.injEq, List.not_mem_nil, or_false] at h
  rcases h with ⟨-, h⟩ | ⟨-, h⟩ | ⟨-, h⟩ <;> simp [h]

/-- A free request for a copy, alone at a line with no open combining entry, is served there. -/
theorem tryItem_copy {it : Item} {s : State} (h : itemFree it s = true) (hop : it.op = 0x50 ∨ it.op = 0x51 ∨ it.op = 0x52)
    (halone : s.home.waitq = [it]) (hcomb : combOpen s (it.off / 64) = false) : tryItem s it = serveCoh it s := by
  rw [tryItem_line it s h (by omega) (by omega) (by omega) (by omega), atLine_alone it _ _ s halone hcomb]
  rcases hop with hop | hop | hop <;> simp only [hop]

/-- A line that is poisoned, or whose page is, is answered POISONED. -/
theorem serveCoh_of_poisoned {it : Item} {s : State} (hbusy : lineBusy s (it.off / 64) = false)
    (hbad : (pageUnusable s (it.off / 64 / 1024) || poisoned s (it.off / 64)) = true) :
    serveCoh it s = some (endItem it sPOISONED 0 (ffs 64) s) := by
  simp only [serveCoh, hbusy, hbad, Bool.false_eq_true, if_false, if_true]

/-- A line in I with a way for its entry is granted with its data. -/
theorem serveCoh_of_lineQuiet {it : Item} {node op : Nat} {s : State} (hitop : it.op = op) (hsrc : it.src = .agent node)
    (hop : op = 0x50 ∨ op = 0x51 ∨ op = 0x52)
    (hopen : lineOpen (it.off / 64) s = true) (hquiet : lineQuiet (it.off / 64) s = true) (hsound : poisoned s (it.off / 64) = false)
    (hrule : (op = 0x50 || (match setRule s (it.off / 64 * 64) (itemWrite it) with | .denied _ => false | _ => true)) = true)
    (hheld : (op = 0x52 || !loadHeld s it.off) = true) (hpins : setPinned s (it.off / 64) = false)
    (hway : (dirMates s (it.off / 64)).length < dirWays s (it.off / 64)) :
    let line := it.off / 64
    let a := if op = 0x50 then (0, s) else allocFor it.part [(line * 64, [0])] s
    let r := accessLine line {} (a.2.onStore fun st => { st with newT3 := [] })
    let g := if op = 0x50 then (if bit (cfg s 0x060000 0 0) 0 && pageValid (page s (line / 1024)) && !it.shared then 2 else 1) else 2
    a.1 = 0 → r.1 = false →
    serveCoh it s = some (grantLine it node line g (if op = 0x52 then 6 else g) (readBytes s (line * 64) 64) (removeItem it.id r.2)) := by
  intro line a r g halloc hread
  subst hitop
  obtain ⟨husable, hreadable⟩ := of_lineOpen hopen
  have hbusy := not_lineBusy_of_lineQuiet hquiet
  have hst := dirSt_of_lineQuiet hquiet
  have hentry : prepEntry (it.off / 64) s = .ready := by simp [prepEntry, hst, hway]
  have hown : prepWrite (it.off / 64) (some node) s = .ready := prepWrite_of_lineQuiet _ hquiet
  have hallowed : it.op ≠ 0x50 → ∀ m, setRule s (it.off / 64 * 64) (itemWrite it) ≠ .denied m := by
    intro hne m hm
    simp [hne, hm] at hrule
  rcases hop with hop | hop | hop
  · simp only [line, a, r, g, hop, if_true] at halloc hread hheld ⊢
    simp_all [serveCoh]
  · simp only [line, a, r, g, hop] at halloc hread hheld hallowed ⊢
    cases hset : setRule s (it.off / 64 * 64) (itemWrite it) with
    | denied m => exact absurd hset (hallowed (by decide) m)
    | _ => simp_all [serveCoh]
  · simp only [line, a, r, g, hop] at halloc hread hallowed ⊢
    cases hset : setRule s (it.off / 64 * 64) (itemWrite it) with
    | denied m => exact absurd hset (hallowed (by decide) m)
    | _ => simp_all [serveCoh]

/-! ### Acknowledged grants (R178) -/

/-- Settles O28: a request alone at its line is served there; a write-back is performed on arrival; a grant acknowledged ends, unless it came routed. -/
theorem coherenceRequestsComplete : Obligations.CoherenceRequestsComplete := by
  unfold Obligations.CoherenceRequestsComplete
  refine ⟨?granted, ?poisoned, ?evicted, ?written, ?acked, ?routed⟩
  case granted =>
    intro k op c s n hk x it t line a r g hcomes hcomb hopen hquiet hsound hrule hheld hpins hway halloc hread
    obtain ⟨-, -, -, -, halone, hop, hsrc, -, hfree⟩ := comes_iff op c {} s n hcomes
    change it.op = op at hop
    rw [exec_of_mem_copies hk]
    refine request_onward _ c {} s _ n hcomes ?_
    rw [tryItem_copy hfree (by rw [hop]; exact op_of_mem_copies hk) halone hcomb]
    exact serveCoh_of_lineQuiet hop hsrc (op_of_mem_copies hk) hopen hquiet hsound hrule hheld hpins hway halloc hread
  case poisoned =>
    intro k op c s n hk x it t line hcomes hcomb hbusy hbad
    obtain ⟨-, -, -, -, halone, hop, -, -, hfree⟩ := comes_iff op c {} s n hcomes
    change it.op = op at hop
    rw [exec_of_mem_copies hk]
    refine request_onward _ c {} s _ n hcomes ?_
    rw [tryItem_copy hfree (by rw [hop]; exact op_of_mem_copies hk) halone hcomb]
    exact serveCoh_of_poisoned hbusy hbad
  case evicted =>
    intro c s n x it t line hcomes hcomb hbusy hst howner
    obtain ⟨-, -, -, -, halone, hop, hsrc, -, hfree⟩ := comes_iff 0x54 c {} s n hcomes
    change it.op = 0x54 at hop
    change it.src = .agent c.node at hsrc
    refine (exec_evictClean c s).trans (request_onward 0x54 c {} s _ n hcomes ?_)
    rw [tryItem_line it t hfree (by omega) (by omega) (by omega) (by omega), atLine_alone it _ _ t halone hcomb]
    simp only [hop, serveEvict]
    simp only [line] at hbusy hst howner
    simp only [hsrc, hbusy, hst, howner, Bool.false_eq_true, if_false, if_true]
    rfl
  case written =>
    intro c s x hclear
    refine (exec_wbDirty c s).trans (congrArg Host.Outcome.next ?_)
    rw [request_admitted 0x53 c {} s hclear]
    exact if_pos rfl
  case acked =>
    intro c s line e hlive hrouted hrecord hhome hst hgrantee htag
    rw [exec_grantAck]
    simp only [line, e] at hst hgrantee htag
    simp only [execGrantAck, hlive, hrouted, hrecord, hhome, hst, hgrantee, htag, Bool.not_true, Bool.false_eq_true, if_false,
      decide_true, Bool.and_self, if_true]
    rfl
  case routed =>
    intro c s hlive hrouted
    simp only [exec_grantAck, execGrantAck, hlive, hrouted, Bool.not_true, Bool.false_eq_true, if_false, if_true]

/-! ### Snoops (R177, R181, R185, R187, R189) -/

/-- Settles O29. -/
theorem snoopEventsComplete : Obligations.SnoopEventsComplete := by
  unfold Obligations.SnoopEventsComplete
  refine ⟨fun r s line h => ?inv, fun r s line h => ?down, fun line s h => ?race, ?late, ?swept, ?bay, fun b s hst htime => ?timeout⟩
  case inv => simp only [exec_snpInvResponse, execSnpInvResponse, h]
  case down => simp only [exec_snpDownResponse, execSnpDownResponse, h]
  case race => simp only [exec_raceInvReturn, execRaceInvReturn, h, if_true]
  case late =>
    intro line s e who hwho htransient hlate htime hheld
    have hnone : (who.isEmpty || !e.st.transient || e.late || !elapsed s e.since (snoopLimit s)) = false := by
      simp [hwho, htransient, hlate, htime]
    have hkept : (decide (e.st ≠ .g) && (e.revoking || revokedLine s line)) = false := by
      rcases hheld with hg | ⟨hrevoking, hrevoked⟩
      · simp [hg]
      · simp [hrevoking, hrevoked]
    exact congrArg Host.Outcome.next ((if_neg (Bool.eq_false_iff.mp hnone)).trans (if_neg (Bool.eq_false_iff.mp hkept)))
  case swept =>
    intro line s e hacks htransient hg hlate htime hrevoked
    have hnone : ((if e.st = .g then [e.grantee] else e.acks.map (·.1)).isEmpty || !e.st.transient || e.late
        || !elapsed s e.since (snoopLimit s)) = false := by
      simp [hg, hacks, htransient, hlate, htime]
    have hremoved : (decide (e.st ≠ .g) && (e.revoking || revokedLine s line)) = true := by
      simpa [hg] using hrevoked
    exact congrArg Host.Outcome.next ((if_neg (Bool.eq_false_iff.mp hnone)).trans (if_pos hremoved))
  case bay =>
    intro n g s b l hdue hb left t
    rw [exec_snpFlushBayResponse]
    simp only [execSnpFlushBayResponse, hdue, Nat.not_le.mpr hb, if_false]
    rfl
  case timeout => simp only [exec_sliceFlushTimeout, execSliceFlushTimeout, hst, htime, decide_true, Bool.and_self, if_true]

end Sys2Proof.Machine

/-! PROOF. PUBLISH that writes nothing (R155): its statement asks that a refused PUBLISH leave `newT3` as it was, which the model's write path empties. -/

namespace Sys2Proof.Machine
open Sys2Proof

/-- A device in service whose node 5 may write extent 0 of partition 1; page 0 is in T1, its version line at 64 reads 0, and page 5 is noted as newly allocated in T3. -/
def newT3State : State :=
  cwSetField 0x020000 41 21 16 (cwSetField 0x0C0000 47 32 9 {
    pwr := { pwrGood := true, pstate := .inService, startStep := 11,
             islands := (List.range 64).map fun i => (i, ({ st := .running } : Island)) }
    gov := { state := 2 }
    home := { slices := (List.range 16).map fun b => (b, SliceState.serving) }
    kt := { ctxs := [(5, { live := true, rwnd := 4095 })] }
    sec := { parts := [(1, { enabled := true, keyEpoch := 1 })]
             extents := [(0, { xstate := 1, part := 1 })]
             grants := [{ node := 5, rights := 3, first := 0, count := 1 }] }
    store := { pages := [(0, { tier := 1, part := 1 })], newT3 := [5] } })

/-- A PUBLISH to the line at 64 that expects version 1. -/
def conflictingPublish : TxnReq :=
  { node := 5, len := 10, flags := 1, param := 0, tag := 3, addr := 64, payload := 1 :: List.replicate 63 0 }

/-- The pages a transition leaves noted as newly allocated in T3. -/
def newT3After : Host.Outcome State Fault Refusal → List Nat
  | .next t => t.store.newT3
  | _ => []

theorem newT3After_exec_publish : newT3After (exec (.publish conflictingPublish) newT3State) = [] := by decide +kernel

/-- Refutes O56, which speaks of every state: with page 5 noted in `newT3`, a PUBLISH that meets another version empties the note (`putLines` with no writes does), while the state the statement gives, `touchPage` of the fetched line, keeps it. -/
theorem not_publishFollowsItsVersion : ¬ Obligations.PublishFollowsItsVersion := by
  unfold Obligations.PublishFollowsItsVersion
  intro h
  have hcomes : comes 0x40 conflictingPublish {} newT3State 0 = true := by decide +kernel
  obtain ⟨-, hconflict, -⟩ := h conflictingPublish newT3State 0 hcomes (by decide +kernel)
  have hexec := hconflict (by decide +kernel) (by decide +kernel)
  have hnote := newT3After_exec_publish
  rw [hexec] at hnote
  exact absurd hnote (by decide +kernel)

end Sys2Proof.Machine

/-! PROOF. Operation streams: the words of every engine at issue, their completions, and the scheduler (chapters 8 and 9). -/

namespace Sys2Proof.Machine

/-! ### Words at issue (R233, R263) -/

/-- The stream and the opcode that `headIs` names. -/
theorem head_of_headIs {op sid : Nat} {w : BitVec 256} {s : State} (h : headIs op sid w s = true) :
    headWord s = some (sid, w) ∧ wOp w = op := by
  simp only [headIs, Bool.and_eq_true, decide_eq_true_eq] at h
  exact ⟨h.1.1.1, h.1.1.2⟩

/-- A scalar word that takes effect at issue changes its stream and is complete. -/
theorem atIssue_of_headIs (f : Issued → Stream → Stream) {op sid : Nat} {w : BitVec 256} {s : State}
    (h : headIs op sid w s = true) (hok : scalarOk w = true) :
    let i := issuedOf (stream s sid) w
    atIssue f op s = settle sid (completeWord sid i.num (setStream sid (f i) (wordIn sid w s))) :=
  issueWord_scalarWord _ h hok

/-- A word whose issue may make requests is issued, and the home slices go on. -/
theorem issueReq_of_headIs {op sid : Nat} {w : BitVec 256} {s : State} (eff : Nat → Issued → State → State)
    (h : headIs op sid w s = true) :
    issueReq op eff s = settlePump sid (settle sid (eff sid (issuedOf (stream s sid) w) (wordIn sid w s))) := by
  obtain ⟨hhead, hop⟩ := head_of_headIs h
  simp only [issueReq, hhead, hop, if_true, issueWord_of_headIs eff h]

theorem issueReq_scalarWord {op sid : Nat} {w : BitVec 256} {s : State} (eff : Nat → Issued → State → State)
    (h : headIs op sid w s = true) (hok : scalarOk w = true) :
    issueReq op (scalarWord eff) s = settlePump sid (settle sid (eff sid (issuedOf (stream s sid) w) (wordIn sid w s))) := by
  rw [issueReq_of_headIs _ h, scalarWord_of_scalarOk _ _ _ (by rwa [issuedOf_word])]

/-- Without YM5_ORDER a range write goes to its engine at once. -/
theorem launchOrHold_of_free {sid : Nat} (i : Issued) {s : State} (h : (stream s sid).ym5 = false) :
    launchOrHold sid i s = launch sid i s := by
  simp [launchOrHold, h]

/-- Settles O30: the words complete at issue are `atIssue` of what they do to their stream; BR and LOOP are of an earlier file. -/
theorem scalarWordsComplete : Obligations.ScalarWordsComplete := by
  unfold Obligations.ScalarWordsComplete
  refine ⟨fun op c f hmem sid w s h hok => ?words, fun sid w s h hok => exec_br_of_headIs h hok, fun sid w s h hok => exec_loop_of_headIs h hok⟩
  have hexec : exec c s = .next (atIssue f op s) := by
    simp only [List.mem_cons, List.not_mem_nil, or_false, Prod.mk.injEq] at hmem
    rcases hmem with ⟨rfl, rfl, rfl⟩ | ⟨rfl, rfl, rfl⟩ | ⟨rfl, rfl, rfl⟩ | ⟨rfl, rfl, rfl⟩ | ⟨rfl, rfl, rfl⟩ | ⟨rfl, rfl, rfl⟩ | ⟨rfl, rfl, rfl⟩ <;> rfl
  exact hexec.trans (congrArg Host.Outcome.next (atIssue_of_headIs f h hok))

/-- Settles O31. -/
theorem requestWordsComplete : Obligations.RequestWordsComplete := by
  unfold Obligations.RequestWordsComplete
  refine ⟨?ld, ?st, ?ordered⟩
  case ld =>
    intro sid w s h hok i haligned
    rw [exec_ld, execLd, issueReq_scalarWord _ h hok, if_neg (not_not_intro haligned)]
  case st =>
    intro sid w s h hok i haligned hym5
    rw [exec_st, execSt, issueReq_scalarWord _ h hok, if_neg (not_not_intro haligned), launchOrHold_of_free _ hym5]
  case ordered =>
    intro op c hmem sid w s h hok hym5 hktop
    simp only [List.mem_cons, List.not_mem_nil, or_false, Prod.mk.injEq] at hmem
    rcases hmem with ⟨rfl, rfl⟩ | ⟨rfl, rfl⟩
    · rw [exec_notifyWord, execNotifyWord, issueReq_scalarWord _ h hok, launchOrHold_of_free _ hym5]
    · rw [exec_call, execCall, issueReq_scalarWord _ h hok, issuedOf_word, if_pos (List.contains_iff_mem.mpr (hktop rfl)),
        launchOrHold_of_free _ hym5]

/-- A word of the DMA engine that keeps its field rules enters it. -/
theorem copyEffect_of_dmaCheck {go : Nat → Issued → State → State} {sid : Nat} {i : Issued} {s : State}
    (h : dmaCheck s (stream s sid).part i = none) : copyEffect go sid i s = go sid i s := by
  simp only [copyEffect, h]

/-- Each vector word has its effect when it issues. -/
theorem exec_of_mem_vectorWords {op : Nat} {c : Instr} (h : (op, c) ∈ vectorWords) (s : State) :
    exec c s = .next (issueWord op vecEffect s) := by
  have hall : ∀ p ∈ vectorWords, exec p.2 s = .next (issueWord p.1 vecEffect s) := by
    simp only [vectorWords, List.forall_mem_cons]
    exact ⟨rfl, rfl, rfl, rfl, rfl, rfl, rfl, rfl, rfl, rfl, rfl, rfl, rfl, rfl, rfl, nofun⟩
  exact hall _ h

/-- An MM word that keeps its rules and finds its CHAIN input of its class draws for its rounding and holds its results. -/
theorem mmEffect_of_checks {sid : Nat} {i : Issued} {s : State} (hcheck : mmCheck s (stream s sid).part (mmFields i.word i.base) = none)
    (hchain : chainBad s (stream s sid) i.num (mmFields i.word i.base) = false) :
    let f := mmFields i.word i.base
    let r := mmResults s (overlayRead s (stream s sid) .mm i.num) f
    let u := setStream sid (modIssued i.num fun y => { y with writes := r.1, flags := r.2, started := false }) (drawn f.rnd (f.drawsIn s) s)
    mmEffect sid i s = { u with free := u.free + f.results } := by
  intro f r u
  unfold mmEffect
  extract_lets t
  have hnone : mmCheck s t.part f = none := hcheck
  rw [hnone]
  exact (if_neg (Bool.eq_false_iff.mp hchain)).trans rfl

/-- A vector word that keeps its rules, likewise. -/
theorem vecEffect_of_check {sid : Nat} {i : Issued} {s : State}
    (hcheck : vecCheck s (stream s sid).part (vecFields i.word i.base i.rbase) = none) :
    let f := vecFields i.word i.base i.rbase
    let r := vecResults s (overlayRead s (stream s sid) .vec i.num) f
    let u := setStream sid (modIssued i.num fun y => { y with writes := r.1, flags := r.2, started := false }) (drawn f.rnd (f.drawsIn s) s)
    vecEffect sid i s = { u with free := u.free + f.draws } := by
  simp only [vecEffect, hcheck]

/-- A COPY_BAY whose destination passes holds the bytes it reads. -/
theorem bayEffect_of_bayCheck {sid : Nat} {i : Issued} {s : State} (hbay : bayCheck s (stream s sid).part i = none) :
    let ws := (bayLines i).flatMap fun x => (List.range 64).map fun k =>
      (spKey ((physBay s x.2.1).getD 0) (x.2.2 + k), kget 0 s.core.scratch (spKey ((physBay s x.1.1).getD 0) (x.1.2 + k)))
    bayEffect sid i s = setStream sid (modIssued i.num fun y => { y with writes := ws, value := some (sOK, 0) }) s := by
  intro ws
  unfold bayEffect
  rw [hbay]

/-- Settles O32. -/
theorem engineWordsComplete : Obligations.EngineWordsComplete := by
  unfold Obligations.EngineWordsComplete
  refine ⟨?mm, ?vec, ?copyIn, ?copyOut, ?copyBay⟩
  case mm =>
    intro sid w s h i t f hcheck hchain r u
    rw [exec_mm, execMm, issueWord_of_headIs _ h]
    exact congrArg (fun u => Host.Outcome.next (settle sid u)) (mmEffect_of_checks hcheck hchain)
  case vec =>
    intro op c hmem sid w s h i t f hcheck r u
    rw [exec_of_mem_vectorWords hmem, issueWord_of_headIs _ h]
    exact congrArg (fun u => Host.Outcome.next (settle sid u)) (vecEffect_of_check hcheck)
  case copyIn =>
    intro sid w s h i t hcheck
    rw [exec_copyIn, execCopyIn, issueReq_of_headIs _ h, copyEffect_of_dmaCheck hcheck]
  case copyOut =>
    intro sid w s h i t hcheck hym5
    rw [exec_copyOut, execCopyOut, issueReq_of_headIs _ h, copyEffect_of_dmaCheck hcheck, launchOrHold_of_free _ hym5]
  case copyBay =>
    intro sid w s h i t hcheck hbay ws
    rw [exec_copyBay, execCopyBay, issueWord_of_headIs _ h, copyEffect_of_dmaCheck hcheck]
    exact congrArg (fun u => Host.Outcome.next (settle sid u)) (bayEffect_of_bayCheck hbay)

/-! ### Completions (R234, R239, R240, R246) -/

/-- A live word of its engine whose answer has come ends as its engine gives. -/
theorem answerWord_of_value {ok : BitVec 256 → Bool} (eff : Nat → Issued → Nat × Nat → State → State) {sid num : Nat} {w : Issued}
    {v : Nat × Nat} {s : State} (hfind : findIssued (stream s sid) num = some w) (hlive : w.live = true) (hok : ok w.word = true)
    (hvalue : w.value = some v) : answerWord ok eff sid num s = settlePump sid (eff sid w v s) := by
  simp only [answerWord, hfind, hlive, hok, wordAnswer, hvalue, Bool.not_true, Bool.or_self, Bool.false_eq_true, if_false]

/-- Settles O33. -/
theorem wordCompletionsComplete : Obligations.WordCompletionsComplete := by
  unfold Obligations.WordCompletionsComplete
  refine ⟨fun sid w s h => ?mm, fun sid w s h => ?vec, ?copy, ?ld, ?st, ?call⟩
  case mm => simp only [exec_mmComplete, execMmComplete, h]
  case vec => simp only [exec_vectorComplete, execVectorComplete, h]
  case copy =>
    intro sid num op w v s hop ⟨hfind, hlive, hword⟩ hvalue
    rw [exec_dmaCopyComplete, execDmaCopyComplete, answerWord_of_value _ hfind hlive (by rw [hword]; exact hop) hvalue]
    rfl
  case ld =>
    intro sid num w v s ⟨hfind, hlive, hword⟩ hvalue
    rw [exec_ldComplete, execLdComplete, answerWord_of_value _ hfind hlive (decide_eq_true hword) hvalue]
    rfl
  case st =>
    intro sid num w v s ⟨hfind, hlive, hword⟩ hvalue
    rw [exec_stComplete, execStComplete, answerWord_of_value _ hfind hlive (decide_eq_true hword) hvalue]
    rfl
  case call =>
    intro sid num w v s ⟨hfind, hlive, hword⟩ hvalue
    rw [exec_callComplete, execCallComplete, answerWord_of_value _ hfind hlive (decide_eq_true hword) hvalue]
    simp only [callEnd, decide_true, Bool.or_true, if_true]

/-! ### The scheduler (R232, R247-R249) -/

/-- Settles O34. -/
theorem schedulerComplete : Obligations.SchedulerComplete := by
  unfold Obligations.SchedulerComplete
  refine ⟨?dispatch, ?slice, fun s sid hcur hsuspending hboundary => ?boundary, ?limit, ?fetch⟩
  case dispatch =>
    intro s p sid hservice hcur hseq hdma hleast hready
    simp [execStreamSchedule, hservice, hcur, hseq, hdma, hleast, hready]
  case slice =>
    intro s sid p t others hcur hsuspending hstopping hothers htime hp hleast
    have hgo : (s.core.suspending || t.stopping || others.isEmpty || !elapsed s t.sliceSince (cfg s 0x070300 31 16 * 1000)) = false := by
      simp [hsuspending, hstopping, hothers, htime]
    simp only [exec_sliceUsExpiry, execSliceUsExpiry, hcur]
    refine congrArg Host.Outcome.next ((if_neg (Bool.eq_false_iff.mp hgo)).trans (if_neg fun heq => ?_))
    exact hp (Option.some.inj (hleast.symm.trans heq))
  case boundary => simp only [exec_operationBoundary, execOperationBoundary, hcur, hsuspending, hboundary, Bool.not_true,
      Bool.or_self, Bool.false_eq_true, if_false]
  case limit =>
    intro s sid t hcur htime
    simp only [exec_maxMsExpiry, execMaxMsExpiry, hcur]
    exact congrArg Host.Outcome.next (if_pos htime)
  case fetch =>
    intro s sid i t hcur hstopping hhalted hsuspending hfetched hlow hhigh hcount hnone
    have hgo : (t.stopping || t.halted || s.core.suspending || decide (fetchedAt t i ≠ .no)
        || !decide (t.pc ≤ i ∧ i < t.pc + 256 ∧ i < t.count)) = false := by
      simp [hstopping, hhalted, hsuspending, hfetched, hlow, hhigh, hcount]
    simp only [exec_streamWordFetch, execStreamWordFetch, hcur]
    refine congrArg Host.Outcome.next ((if_neg (Bool.eq_false_iff.mp hgo)).trans ?_)
    simp only [t] at hnone
    simp only [hnone]
    rfl

end Sys2Proof.Machine

/-! PROOF. Querns: the admission of QN_EXEC, its portions, reduction groups, and the deltas of erasure coding (chapter 10). -/

namespace Sys2Proof.Machine

/-! ### The way of an invocation to its engine -/

/-- A Quern invocation that has come to its engine is served there. -/
theorem tryItem_quern {op : Nat} (c : TxnReq) {s : State} {n : Nat} (hop : 0x60 ≤ op ∧ op ≤ 0x63) (h : comes op c {} s n = true) :
    tryItem (atTurn op c {} s n).2 (atTurn op c {} s n).1 = serveQuern (atTurn op c {} s n).1 (atTurn op c {} s n).2 := by
  obtain ⟨-, -, -, -, -, hitop, hsrc, -, hfree⟩ := comes_iff op c {} s n h
  have hquern : within (atTurn op c {} s n).1.op 0x60 0x63 = true := decide_eq_true (by omega)
  rw [tryItem_engine _ _ _ hfree (by omega) hsrc, if_pos hquern]

/-- What a Quern makes of an invocation in its turn is what the record leads to. -/
theorem request_quern {op : Nat} (c : TxnReq) {s u : State} {n : Nat} (hop : 0x60 ≤ op ∧ op ≤ 0x63) (h : comes op c {} s n = true)
    (hserve : serveQuern (atTurn op c {} s n).1 (atTurn op c {} s n).2 = some u) :
    (Host.Outcome.next (request op c {} s) : Host.Outcome State Fault Refusal) = onward op c {} s n u :=
  request_onward op c {} s u n h ((tryItem_quern c hop h).trans hserve)

theorem op_of_comes {op : Nat} {c : TxnReq} {s : State} {n : Nat} (h : comes op c {} s n = true) : (atTurn op c {} s n).1.op = op :=
  (comes_iff op c {} s n h).2.2.2.2.2.1

theorem param_of_comes {op : Nat} {c : TxnReq} {s : State} {n : Nat} (h : comes op c {} s n = true) :
    (atTurn op c {} s n).1.param = c.param.toNat :=
  (comes_iff op c {} s n h).2.2.2.2.2.2.2.1

/-! ### QN_EXEC (R267, R270, R274, R275) -/

/-- Lines that are read without poison are kept as read. -/
theorem readOnce_of_readsClean {it : Item} {off n : Nat} {s : State} (h : readsClean it (linesOf off n) s = true) :
    readOnce it off n s = some (keepRead it (readBytes s off n) (engAccess (readFor it) (linesOf off n) s).2) := by
  simp only [readsClean, Bool.and_eq_true] at h
  simp only [readOnce, eq_ready_of_isReady h.1, h.2, if_true]

/-- Each operation's record is the QN_EXEC of a descriptor that names it. -/
theorem exec_of_mem_quernRows {op : Nat} {k : TxnReq → Instr} (hk : (op, k) ∈ quernRows) {c : TxnReq} {s : State}
    (hnamed : opNamed op c s = true) : exec (k c) s = .next (request 0x60 c {} s) := by
  have hall : ∀ p ∈ quernRows, exec (p.2 c) s = .next (qnExec p.1 c s) := by
    simp only [quernRows, List.forall_mem_cons]
    exact ⟨rfl, rfl, rfl, rfl, rfl, rfl, rfl, nofun⟩
  rw [hall _ hk, qnExec, if_pos hnamed]

/-- A descriptor that passes R271 and R274, with its list read, sets out its portions where the Querns have room. -/
theorem serveQExec_of_room {it : Item} {s : State} {d : List Byte} {rest : List (List Byte)} {op : Nat} (hlive : (kget {} s.eng.invs it.id).live = false)
    (hdescs : it.descs = d :: rest) (hop : field d 0 1 = op) (hdesc : qdescOk d = true) (hregions : regionsCheck s it (execRegions d) = sOK)
    (hlist : op = 5 ∨ op = 6 → rest ≠ []) {l : List (Nat × Nat)}
    (hl : (if op = 5 || op = 6 then qlist op (field d 4 4) (field d 3 1) (field d 8 8) (field d 24 8) (rest.headD []) else some []) = some l)
    (hsources : regionsCheck s it (l.map fun e => (e.1, field d 4 4 * 64, false)) = sOK)
    (hroom : ((execInv it d l s).portions.all fun p => decide (quernLoad s p.quern
      + ((execInv it d l s).portions.filter fun x => x.quern = p.quern).length ≤ 64)) = true) :
    let u := s.onEng fun e => { e with invs := kput {} e.invs it.id (execInv it d l s) }
    serveQExec it s = some (if it.flash then u else engInterim it u) := by
  have hread : ((op = 5 || op = 6) && rest.isEmpty) = false := by
    by_cases h : op = 5 ∨ op = 6
    · simp [hlist h]
    · simp only [not_or] at h
      simp [h]
  have hspace : ((execInv it d l s).portions.any fun p => decide (64 < quernLoad s p.quern
      + ((execInv it d l s).portions.filter fun x => x.quern = p.quern).length)) = false := by
    simp only [List.any_eq_false, List.all_eq_true, decide_eq_true_eq, Nat.not_lt] at hroom ⊢
    exact hroom
  subst hop
  simp only [serveQExec, hlive, hdescs, hdesc, hregions, hread, hl, hsources, hspace, Bool.not_true, Bool.false_eq_true, if_false,
    ne_eq, not_true_eq_false]

/-- Settles O35. -/
theorem quernExecComplete : Obligations.QuernExecComplete := by
  unfold Obligations.QuernExecComplete
  refine ⟨?descriptor, ?portions, fun i k s hlive => ?worked⟩
  case descriptor =>
    intro op k c s n hk x it t hnamed hcomes hlive hdescs hclean
    rw [exec_of_mem_quernRows hk hnamed]
    refine request_quern c (by omega) hcomes ?_
    simp only [serveQuern, op_of_comes hcomes, serveQExec]
    simp only [it, x, t] at hlive hdescs hclean
    simp only [hlive, hdescs, Bool.false_eq_true, if_false]
    exact readOnce_of_readsClean hclean
  case portions =>
    intro op k c s n d rest hk x it t lines hnamed hcomes hlive hdescs hop hdesc hregions hlist l hl hsources q hroom u
    rw [exec_of_mem_quernRows hk hnamed]
    refine request_quern c (by omega) hcomes ?_
    simp only [serveQuern, op_of_comes hcomes]
    exact serveQExec_of_room hlive hdescs hop hdesc hregions hlist hl hsources hroom
  case worked => simp only [exec_qnPortionDone, execQnPortionDone, hlive, if_true]

end Sys2Proof.Machine

/-! PROOF. Reduction groups and erasure deltas (R281-R289). -/

namespace Sys2Proof.Machine

/-- A pair whose first component is known. -/
theorem eq_mk_of_fst_eq {α β : Type} {x : α × β} {a : α} (h : x.1 = a) : x = (a, x.2) := by
  rw [← h]

theorem eq_mk_mk_of_fst_eq {α β γ : Type} {x : α × β × γ} {a : α} (h : x.1 = a) : x = (a, x.2.1, x.2.2) := by
  rw [← h]

/-! ### QN_GROUP -/

/-- A QN_GROUP record runs under the row of its PARAM. -/
theorem qnGroup_of_param {p : Nat} {c : TxnReq} (h : c.param.toNat = p) (s : State) : qnGroup p c s = request 0x62 c {} s :=
  if_pos (.inl h)

theorem serveQuern_groupOpen {it : Item} (hop : it.op = 0x62) (hparam : it.param = 0) (s : State) : serveQuern it s = serveQOpen it s := by
  simp only [serveQuern, hop, hparam]

theorem serveQuern_groupDone {it : Item} (hop : it.op = 0x62) (hparam : it.param = 1) (s : State) : serveQuern it s = serveQDone it s := by
  simp only [serveQuern, hop, hparam]

theorem serveQuern_groupAbandon {it : Item} (hop : it.op = 0x62) (hparam : it.param = 2) (s : State) :
    serveQuern it s = serveQAbandon it s := by
  simp only [serveQuern, hop, hparam]

/-- Lines that read clean are ready and hold no poison. -/
theorem of_readsClean {it : Item} {ls : List Nat} {s : State} (h : readsClean it ls s = true) :
    engReady (readFor it) ls [] s = .ready ∧ (engAccess (readFor it) ls s).1 = [] := by
  simp only [readsClean, Bool.and_eq_true, List.isEmpty_iff] at h
  exact ⟨eq_ready_of_isReady h.1, h.2⟩

/-- OPEN of a sound control line whose target is read without poison takes the group. -/
theorem serveQOpen_of_sound {it : Item} {s : State} :
    let d := readBytes s it.off 64; let tg := field d 0 8
    let g : QGroup := { opening := true, part := it.part, target := tg % 2 ^ 50, lines := field d 8 4, rfmt := field d 12 1
                        rop := field d 13 1, n := field d 16 2, key := field d 24 8 }
    let t2 := if it.flash then s else engInterim it s
    let t3 := (engAccess (readFor it) (targetLines g) t2).2; let ds := targetSum t3 g
    let g' := { g with initD := ds.1, flags := b2n ds.2 }
    let p := engPut it.part (engWrite it 0x12) [(it.off, groupLine t3 { g' with flags := 0 } 1)] t3
    isReady (engReady (readFor it) [it.off / 64] [it.off / 64] s) = true → (engAccess (readFor it) [it.off / 64] s).1 = [] →
    (group s it.off).opened = false → (group s it.off).opening = false →
    (tg % 64 = 0 && within g.lines 1 32768 && g.rfmt ≤ 5 && g.rop ≤ 2 && 1 ≤ g.n && keyOk g.key) = true →
    regionsCheck s it [(tg, g.lines * 64, true)] = sOK →
    ¬ (g.target ≤ it.off ∧ it.off < g.target + g.lines * 64) → s.eng.groups.length < 256 →
    readsClean it (targetLines g) t2 = true → p.1 = 0 →
    serveQOpen it s = some (endWrite it p.2.1 sOK ds.1 [] (countSum g (setGroup it.off (fun _ => g') p.2.2))) := by
  intro d tg g t2 t3 ds g' p hready hclean hopened hopening hline hregions hapart hfree htarget hput
  obtain ⟨htready, htclean⟩ := of_readsClean htarget
  have haccess : engAccess (readFor it) [it.off / 64] s = ([], (engAccess (readFor it) [it.off / 64] s).2) := eq_mk_of_fst_eq hclean
  have htaccess : engAccess (readFor it) (targetLines g) t2 = ([], t3) := eq_mk_of_fst_eq htclean
  have hputs : p = (0, p.2.1, p.2.2) := eq_mk_mk_of_fst_eq hput
  unfold serveQOpen
  rw [eq_ready_of_isReady hready, haccess]
  dsimp -zeta only
  extract_lets g₀ stop old c g₁
  have hfirst : g₀ = g := rfl
  clear_value g₀
  subst hfirst
  have hold : (old.opened || old.opening) = false := Bool.or_eq_false_iff.mpr ⟨hopened, hopening⟩
  have hfields : (!(tg % 64 = 0 && within g.lines 1 32768 && g.rfmt ≤ 5 && g.rop ≤ 2 && 1 ≤ g.n && keyOk g.key)) = false := by
    rw [hline]
    rfl
  have hchecked : ¬ c ≠ sOK := not_not_intro hregions
  have hgroup : g₁ = g' := rfl
  clear_value g₁
  subst hgroup
  rw [if_neg (c := (!([] : List Nat).isEmpty) = true) nofun, if_neg (Bool.eq_false_iff.mp hold),
    if_neg (Bool.eq_false_iff.mp hfields), if_neg hchecked, if_neg hapart, if_neg (Nat.not_le.mpr hfree), htready, htaccess]
  dsimp -zeta only
  rw [show engPut it.part (engWrite it 0x12) [(it.off, groupLine t3 { g' with flags := 0 } 1)] t3 = (0, p.2.1, p.2.2) from hputs]
  rfl

/-- DONE before the last of an open group counts. -/
theorem serveQDone_of_more {it : Item} {s : State} (hopened : (group s it.off).opened = true) (habandoned : (group s it.off).abandoned = false)
    (hmore : (group s it.off).done + 1 < (group s it.off).n) :
    serveQDone it s = some (endItem it sOK ((group s it.off).done + 1) []
      (setGroup it.off (fun g => { g with done := g.done + 1, claimD := (g.claimD + field it.payload 0 8) % lsumP }) s)) := by
  simp only [serveQDone, hopened, habandoned, hmore, Bool.not_true, Bool.or_self, Bool.false_eq_true, if_false, if_true]

/-- The last DONE of an open group, its target read without poison, closes it with its verdict. -/
theorem serveQDone_of_last {it : Item} {s : State} (hopened : (group s it.off).opened = true) (habandoned : (group s it.off).abandoned = false)
    (hlast : (group s it.off).n ≤ (group s it.off).done + 1) :
    let g := group s it.off
    let ls := if g.rop = 0 && !bit g.flags 0 then targetLines g else []
    let a := engAccess (readFor it) ls s
    let f := if ls.isEmpty then (0, false) else targetSum a.2 g; let claim := (g.claimD + field it.payload 0 8) % lsumP
    let special := bit g.flags 0 || f.2; let claimBad := decide (claim ≠ g.recvD)
    let resBad := g.rop = 0 && !special && decide ((f.1 + g.errD) % lsumP ≠ (g.initD + g.recvD) % lsumP)
    let poison := bit g.flags 4
    let fl := b2n special + 2 * b2n claimBad + 4 * b2n resBad + 8 * b2n (decide (g.rop ≠ 0)) + 16 * b2n poison
      + (if bit g.flags 6 then 64 else 0)
    let ok := !claimBad && !resBad && !poison && !bit g.flags 6
    let r := closeGroup it.off { g with done := g.done + 1, claimD := claim, flags := fl } ok (if ls.isEmpty then a.2 else countSum g a.2)
    isReady (engReady (readFor it) ls [it.off / 64] s) = true → a.1 = [] →
    serveQDone it s = some (endWrite it r.1 (if ok then sOK else if poison then sPOISONED else sFAULT) fl [] r.2) := by
  intro g ls a f claim special claimBad resBad poison fl ok r hready hclean
  have hgo : (!g.opened || g.abandoned) = false := by simp [g, hopened, habandoned]
  have haccess : engAccess (readFor it) ls s = ([], a.2) := eq_mk_of_fst_eq hclean
  unfold serveQDone
  extract_lets
  rw [if_neg (Bool.eq_false_iff.mp hgo), if_neg (Nat.not_lt.mpr hlast)]
  have hpoison : (bit g.flags 4 || !([] : List Nat).isEmpty) = poison := Bool.or_false _
  rw [eq_ready_of_isReady hready, haccess]
  dsimp only
  rw [hpoison]
  rfl

/-- ABANDON marks an open group. -/
theorem serveQAbandon_of_open {it : Item} {s : State} (hopened : (group s it.off).opened = true) (habandoned : (group s it.off).abandoned = false) :
    serveQAbandon it s = some (abandonFrom it.id (fun o _ => o = it.off) 0 s) := by
  simp only [serveQAbandon, hopened, habandoned, Bool.not_true, Bool.not_false, Bool.false_eq_true, if_false, if_true]

/-- ABANDON closes a marked group once no contribution admitted before it waits. -/
theorem serveQAbandon_of_marked {it : Item} {s : State} (hopened : (group s it.off).opened = true) (habandoned : (group s it.off).abandoned = true)
    (hbusy : groupBusy s it.off (group s it.off).abandonedAt = false)
    (hready : isReady (engReady (readFor it) [] [it.off / 64] s) = true) :
    serveQAbandon it s = some (endWrite it (closeAbandoned it.off s).1 sOK 0 [] (closeAbandoned it.off s).2) := by
  simp only [serveQAbandon, hopened, habandoned, hbusy, eq_ready_of_isReady hready, Bool.not_true, Bool.false_eq_true, if_false]

/-! ### QN_ECDELTA and QN_CONTRIB -/

/-- The rules of a delta's lines, none of which denies it, hold no refusal. -/
theorem find?_denied_of_all {rules : Nat → SetRule} {ls : List Nat}
    (h : (ls.all fun l => match rules l with | .denied _ => false | _ => true) = true) :
    (ls.map rules).find? (fun r => match r with | .denied _ => true | _ => false) = none := by
  simp only [List.find?_eq_none, List.mem_map, List.all_eq_true] at h ⊢
  rintro r ⟨l, hl, rfl⟩
  have hallowed := h l hl
  cases hr : rules l with
  | denied m => rw [hr] at hallowed; cases hallowed
  | _ => simp

/-- A delta whose lines are ready is added to them. -/
theorem serveEcDelta_of_ready {it : Item} {s : State} :
    let cnt := field it.payload 0 1
    let ls := (List.range cnt).map fun i => it.off / 64 + i
    let a := engAccess (readFor it) ls s
    let ws := (List.range cnt).map fun i =>
      (it.off + 64 * i, xorBytes (readBytes a.2 (it.off + 64 * i) 64) (gfScale it.param (slice it.payload (8 + 64 * i) 64)))
    let p := engPut it.part (engWrite it 0x63) ws a.2
    let u := bumpBy (aQN 5) cnt (bumpBy (0x080100 + quernOf s (it.off / 65536)) (2 * cnt)
      (a.1.foldl (fun s l => poisonLine l none false s) p.2.2))
    (ls.all fun l => match setRule s (l * 64) (engWrite it 0x63) with | .denied _ => false | _ => true) = true →
    isReady (engReady (engWrite it 0x63) ls ls s) = true → p.1 = 0 →
    serveEcDelta it s = some (endWrite it p.2.1 (if a.1.isEmpty then sOK else sPOISONED) 0 [] u) := by
  intro cnt ls a ws p u hrules hready hput
  have haccess : engAccess (readFor it) ls s = (a.1, a.2) := Prod.mk.eta.symm
  have hputs : p = (0, p.2.1, p.2.2) := eq_mk_mk_of_fst_eq hput
  have hfind := find?_denied_of_all (rules := fun l => setRule s (l * 64) (engWrite it 0x63)) hrules
  unfold serveEcDelta
  extract_lets
  split
  next m heq => exact absurd (heq.symm.trans hfind) nofun
  next =>
    rw [eq_ready_of_isReady hready, haccess]
    dsimp -zeta only
    extract_lets
    rw [show engPut it.part (engWrite it 0x63) ws a.2 = (0, p.2.1, p.2.2) from hputs]
    dsimp -zeta only
    rw [if_neg (not_not_intro rfl)]

/-- A contribution to an open group, its check value right and no fault armed, is reduced into its lines. -/
theorem serveQContrib_of_open {it : Item} {s : State} :
    let go := field it.payload 0 8; let g := group s (go % 2 ^ 50); let cnt := it.param + 1; let data := slice it.payload 16 (64 * cnt)
    let ls := (List.range cnt).map fun i => it.off / 64 + i; let a := engAccess (readFor it) ls s
    let q := quernOf s (it.off / 65536)
    let res := (List.range cnt).map fun i =>
      contribLine g ((it.off - g.target) / 64 + i) (readBytes a.2 (it.off + 64 * i) 64) (slice data (64 * i) 64)
    let ws := ((List.range cnt).zip res).map fun y => (it.off + 64 * y.1, y.2.1)
    let p := engPut it.part (engWrite it 0x61) ws a.2
    let u := setGroup (go % 2 ^ 50) (fun g => { g with
      recvD := res.foldl (fun d y => (d + y.2.1) % lsumP) g.recvD, errD := res.foldl (fun d y => (d + y.2.2.1) % lsumP) g.errD
      flags := g.flags ||| b2n (res.any fun y => y.2.2.2), querns := if g.querns.contains q then g.querns else g.querns ++ [q] }) p.2.2
    regionsCheck s it [(go, 64, true), (globalOf s it.off, 64 * cnt, true)] = sOK → g.opened = true → g.abandoned = false →
    abandonAhead s (go % 2 ^ 50) it.id = false → g.target ≤ it.off →
    it.off + 64 * cnt ≤ g.target + g.lines * 64 → crc64 data = field it.payload 8 8 →
    isReady (engReady (engWrite it 0x61) ls ls s) = true → a.1 = [] → takeArmed kQuern q [0x50] a.2 = (none, a.2) → p.1 = 0 →
    serveQContrib it s = some (endWrite it p.2.1 sOK 0 [] (bump (aQN 1) (bumpBy (0x080100 + q) (2 * cnt) u))) := by
  intro go g cnt data ls a q res ws p u hregions hopened habandoned hahead hlow hhigh hcrc hready hclean harmed hput
  have hgo : (!g.opened || (g.abandoned && decide (g.abandonedAt ≤ it.id)) || abandonAhead s (go % 2 ^ 50) it.id) = false := by
    rw [hopened, habandoned, hahead]
    rfl
  have hinside : ¬ (it.off < g.target ∨ g.target + g.lines * 64 < it.off + 64 * cnt) := by omega
  have haccess : engAccess (readFor it) ls s = ([], a.2) := eq_mk_of_fst_eq hclean
  have hwrites : (((List.range cnt).zip res).filterMap fun x =>
      if ([] : List Nat).contains (it.off / 64 + x.1) then none else some (it.off + 64 * x.1, x.2.1)) = ws := by
    simp [ws]
  have hsome : ws.isEmpty = false := by
    simp [ws, res, cnt]
  unfold serveQContrib
  extract_lets
  rw [if_neg (not_not_intro hregions), if_neg (Bool.eq_false_iff.mp hgo), if_neg hinside, if_neg (not_not_intro hcrc),
    eq_ready_of_isReady hready, haccess]
  have hputs : p = (0, p.2.1, p.2.2) := eq_mk_mk_of_fst_eq hput
  dsimp only
  rw [hwrites, if_neg (Bool.eq_false_iff.mp hsome), harmed]
  dsimp only
  rw [Option.isSome_none, if_neg Bool.false_ne_true,
    show engPut it.part (engWrite it 0x61) ws a.2 = (0, p.2.1, p.2.2) from hputs]
  simp only [List.isEmpty_nil, if_true, Nat.or_zero, Bool.or_false, ne_eq, not_true_eq_false, if_false]
  rfl

/-- Settles O36: each record's request reaches its Quern (`request_quern`), which serves it as the lemmas above say. -/
theorem quernGroupComplete : Obligations.QuernGroupComplete := by
  unfold Obligations.QuernGroupComplete
  refine ⟨?opening, ?counted, ?closed, ?marked, ?abandoned, ?delta, ?contribution⟩
  case opening =>
    intro c s n x it t d tg g t2 t3 ds g' p hparam hcomes hready hclean hopened hopening hline hregions hapart hfree htarget hput
    rw [exec_qnGroupOpen, execQnGroupOpen, qnGroup_of_param hparam]
    have hserve := serveQOpen_of_sound (it := it) (s := t)
    extract_lets at hserve
    refine request_quern c (by omega) hcomes ?_
    rw [serveQuern_groupOpen (op_of_comes hcomes) ((param_of_comes hcomes).trans hparam)]
    exact hserve hready hclean hopened hopening hline hregions hapart hfree htarget hput
  case counted =>
    intro c s n x it t g hparam hcomes hopened habandoned hmore
    rw [exec_qnGroupDone, execQnGroupDone, qnGroup_of_param hparam]
    refine request_quern c (by omega) hcomes ?_
    rw [serveQuern_groupDone (op_of_comes hcomes) ((param_of_comes hcomes).trans hparam)]
    exact serveQDone_of_more hopened habandoned hmore
  case closed =>
    intro c s n x it t g ls a f claim special claimBad resBad poison fl ok r hparam hcomes hopened habandoned hlast hready hclean
    rw [exec_qnGroupDone, execQnGroupDone, qnGroup_of_param hparam]
    refine request_quern c (by omega) hcomes ?_
    rw [serveQuern_groupDone (op_of_comes hcomes) ((param_of_comes hcomes).trans hparam)]
    exact serveQDone_of_last hopened habandoned hlast hready hclean
  case marked =>
    intro c s n x it t g hparam hcomes hopened habandoned
    rw [exec_qnGroupAbandon, execQnGroupAbandon, qnGroup_of_param hparam]
    refine request_quern c (by omega) hcomes ?_
    rw [serveQuern_groupAbandon (op_of_comes hcomes) ((param_of_comes hcomes).trans hparam)]
    exact serveQAbandon_of_open hopened habandoned
  case abandoned =>
    intro c s n x it t g r hparam hcomes hopened habandoned hbusy hready
    rw [exec_qnGroupAbandon, execQnGroupAbandon, qnGroup_of_param hparam]
    refine request_quern c (by omega) hcomes ?_
    rw [serveQuern_groupAbandon (op_of_comes hcomes) ((param_of_comes hcomes).trans hparam)]
    exact serveQAbandon_of_marked hopened habandoned hbusy hready
  case delta =>
    intro c s n x it t cnt ls a ws p u hcomes hrules hready hput
    rw [exec_qnEcdelta, execQnEcdelta]
    refine request_quern c (by omega) hcomes ?_
    simp only [serveQuern, op_of_comes hcomes]
    have hserve := serveEcDelta_of_ready (it := it) (s := t)
    extract_lets at hserve
    exact hserve hrules hready hput
  case contribution =>
    intro c s n x it t go g cnt data ls a q res ws p u hcomes hregions hopened habandoned hahead hlow hhigh hcrc hready hclean harmed hput
    rw [exec_qnContrib, execQnContrib]
    refine request_quern c (by omega) hcomes ?_
    simp only [serveQuern, op_of_comes hcomes]
    have hserve := serveQContrib_of_open (it := it) (s := t)
    extract_lets at hserve
    exact hserve hregions hopened habandoned hahead hlow hhigh hcrc hready hclean harmed hput

end Sys2Proof.Machine

/-! PROOF. The Hoist: lookups, gradients and row gradients whose lines are ready, and the steps of a table (chapter 11). -/

namespace Sys2Proof.Machine

/-! ### The way of an invocation to the Hoist -/

/-- A Hoist invocation that has come to its engine is served there. -/
theorem tryItem_hoist {op : Nat} (c : TxnReq) {s : State} {n : Nat} (hop : 0x64 ≤ op ∧ op ≤ 0x67) (h : comes op c {} s n = true) :
    tryItem (atTurn op c {} s n).2 (atTurn op c {} s n).1 = serveHoist (atTurn op c {} s n).1 (atTurn op c {} s n).2 := by
  obtain ⟨-, -, -, -, -, hitop, hsrc, -, hfree⟩ := comes_iff op c {} s n h
  have hquern : ¬ within (atTurn op c {} s n).1.op 0x60 0x63 = true := Bool.eq_false_iff.mp (decide_eq_false (by omega))
  have hhoist : within (atTurn op c {} s n).1.op 0x64 0x67 = true := decide_eq_true (by omega)
  rw [tryItem_engine _ _ _ hfree (by omega) hsrc, if_neg hquern, if_pos hhoist]

theorem request_hoist {op : Nat} (c : TxnReq) {s u : State} {n : Nat} (hop : 0x64 ≤ op ∧ op ≤ 0x67) (h : comes op c {} s n = true)
    (hserve : serveHoist (atTurn op c {} s n).1 (atTurn op c {} s n).2 = some u) :
    (Host.Outcome.next (request op c {} s) : Host.Outcome State Fault Refusal) = onward op c {} s n u :=
  request_onward op c {} s u n h ((tryItem_hoist c hop h).trans hserve)

/-! ### Lookups (R300-R308) -/

/-- Descriptors of a table and its partner that have been read are not read again. -/
theorem readTables_of_read {it : Item} {own tab : Nat} {s : State} (h : own + 2 ≤ it.descs.length) : readTables it own tab s = none := by
  have hlong : 2 ≤ (it.descs.drop own).length := by
    rw [List.length_drop]
    omega
  unfold readTables
  split
  next heq => simp [heq] at hlong
  next heq => simp [heq] at hlong
  next => rfl

/-- A lookup whose lists and rows are ready is performed. -/
theorem serveLookup_of_lookupReady {it : Item} {s : State} :
    let l := ldesc (it.descs.headD [])
    let tb := tablesOf (it.descs.getD 1 []) (it.descs.getD 2 [])
    lookupReady it l tb s = true → serveLookup it s = some (performLookup it tb l l.listLines s) := by
  intro l tb h
  unfold lookupReady at h
  extract_lets dim rs rows outs at h
  simp only [Bool.and_eq_true, decide_eq_true_eq] at h
  obtain ⟨⟨⟨⟨⟨⟨⟨⟨⟨hflash, hlen⟩, hdesc⟩, hok⟩, hsize⟩, hregions⟩, hothers⟩, hlists⟩, hoffs⟩, hrows⟩ := h
  have hrun : runLookup it l tb s = some (performLookup it tb l l.listLines s) := by
    have hsound : (!tb.ok || decide (1048576 < l.n * ((l.rowBytes dim + 255) / 256))) = false := by
      rw [hok, decide_eq_false (Nat.not_lt.mpr hsize)]
      rfl
    unfold runLookup
    extract_lets stop c c' missed
    have hchecked : ¬ c' ≠ sOK := not_not_intro ((if_pos hregions).trans hothers)
    have htold : ¬ (!it.flash) = true := by simp [hflash]
    have horder : ¬ (!offsOk (l.listLines.filter (lineBad s)) s l) = true := by simp [hoffs]
    have hready : engReady (holdWrite it 0x12) missed.dedup outs.dedup s = .ready := eq_ready_of_isReady hrows
    rw [if_neg (Bool.eq_false_iff.mp hsound), if_neg hchecked, if_neg htold, eq_ready_of_isReady hlists]
    dsimp -zeta only
    rw [if_neg horder, hready]
  have hbytes : ¬ (!ldescOk false (it.descs.headD [])) = true := by
    rw [hdesc]
    decide
  have htables : readTables it 1 l.table s = none := readTables_of_read hlen
  unfold serveLookup
  split
  next hnil => simp [hnil] at hlen
  next d rest hcons =>
    obtain rfl : it.descs.headD [] = d := by rw [hcons]; rfl
    rw [if_neg hbytes, htables]
    exact hrun

/-! ### Steps and gradients (R312-R318) -/

/-- A record that a step's tag lets through finds the step's slot taken. -/
theorem taken_of_stepTag {s : State} {tab st : Nat} (h : stepTag s tab st = none) : (hstep s tab).taken = true := by
  cases htaken : (hstep s tab).taken with
  | true => rfl
  | false => simp [stepTag, htaken] at h

/-- A gradient whose lists, gradients and rows are ready is merged into the open step, where each row finds room. -/
theorem serveGrad_of_gradReady {it : Item} {s u : State} :
    let l := ldesc (it.descs.headD [])
    let h := (hstep s (l.table % 2 ^ 50)).tables
    let a := engAccess (readFor it) (gradLists l (composedDim h.t h.p)) s
    let b := engAccess (holdFor it) (gradRows l h s) a.2
    let cs := gradContribs (a.1 ++ b.1) s h l
    let inv := ((List.range l.n).filter fun k => (rowOf h.t h.p (listAt s l.idx 8 k)).isNone).length
    gradReady it l s = true → mergeAll (l.table % 2 ^ 50) cs (bumpBy (aHS 3) inv b.2) = some u →
    serveGrad it s = some (endItem it (if cs.any (·.2.2) then sPOISONED else sOK)
      (((cs.map (·.1)).dedup).length * 2 ^ 32 + cs.length) [] u) := by
  intro l h a b cs inv hready hmerge
  unfold gradReady at hready
  extract_lets tab x dim rs at hready
  simp only [Bool.and_eq_true, decide_eq_true_eq] at hready
  obtain ⟨⟨⟨⟨⟨⟨⟨⟨⟨hflash, hlen⟩, hdesc⟩, htaken⟩, hsize⟩, hregions⟩, htag⟩, hlists⟩, hoffs⟩, hrows⟩ := hready
  unfold serveGrad
  extract_lets stop
  split
  next hnil => simp [hnil] at hlen
  next d rest hcons =>
    obtain rfl : it.descs.headD [] = d := by rw [hcons]; rfl
    extract_lets slot y dim₁ rs₁ c lists₁ rows₁ inv₁
    have hy : y = x := rfl
    clear_value y
    subst hy
    have hdim : dim₁ = dim := if_pos htaken
    clear_value dim₁
    subst hdim
    have hchecked : ¬ c ≠ sOK := by
      have hrs : rs₁ = rs := by simp only [rs₁, rs, slot, htaken, if_true]
      exact not_not_intro ((congrArg (regionsCheck s it) hrs).trans hregions)
    have hbytes : ¬ (!ldescOk true (it.descs.headD [])) = true := by
      rw [hdesc]
      decide
    have hsmall : ¬ decide (1048576 < l.n * ((l.rowBytes dim + 255) / 256)) = true := by
      rw [decide_eq_true_eq]
      exact Nat.not_lt.mpr hsize
    have htold : ¬ (!it.flash) = true := by simp [hflash]
    have horder : ¬ (!offsOk (l.listLines.filter (lineBad s)) s l) = true := by simp [hoffs]
    have hread : lists₁ = gradLists l (composedDim h.t h.p) := rfl
    have hheld : rows₁ = gradRows l h s := rfl
    have hcount : inv₁ = inv := rfl
    clear_value lists₁ rows₁ inv₁
    subst hread hheld hcount
    have hlists' : engReady (readFor it) (gradLists l (composedDim h.t h.p)) [] s = .ready := eq_ready_of_isReady hlists
    have hrows' : engReady (holdFor it) (gradRows l h s) [] s = .ready := eq_ready_of_isReady hrows
    have haccess : engAccess (readFor it) (gradLists l (composedDim h.t h.p)) s = (a.1, a.2) := Prod.mk.eta.symm
    have haccess2 : engAccess (holdFor it) (gradRows l h s) a.2 = (b.1, b.2) := Prod.mk.eta.symm
    rw [if_neg hbytes, if_neg hsmall, if_neg hchecked, htag, if_neg htold, hlists', if_neg horder, hrows', haccess]
    dsimp -zeta only
    rw [haccess2]
    dsimp -zeta only
    extract_lets cs₁ s₂
    have hmerged : mergeAll tab cs₁ s₂ = some u := hmerge
    rw [hmerged]

/-- The entry at a place of a ROWGRAD record: its ROW, and the elements of a row of its table. -/
def rowEntry (p : List Byte) (x : Tables) (o : Nat) : Nat × Nat :=
  let r := field p o 8
  (r, if bit r 63 then (match x.p with | some q => q.dim | none => 0) else x.t.dim)

/-- The entries that HS_ROWGRAD reads are those of its record. -/
theorem rowGrad_go_eq_rowEntries (p : List Byte) (x : Tables) (n o : Nat) : serveRowGrad.go (rowEntry p x) n o = rowEntries p x n o := by
  induction n generalizing o with
  | zero => rfl
  | succ n ih =>
    rw [serveRowGrad.go, rowEntries, ← ih]
    rfl

/-- A row gradient whose entries name rows of the table is merged into the open step, where each row finds room. -/
theorem serveRowGrad_of_named {it : Item} {s u : State} :
    let h := (hstep s it.off).tables
    let es := rowEntries it.payload h (field it.payload 4 2) 8
    let top := match es.getLast? with | some (o, _, d) => o + 8 + (4 * d + 7) / 8 * 8 | none => 8
    stepTag s it.off (field it.payload 0 4) = none →
    regionsCheck s it (h.regions (globalOf s it.off) false true) = sOK → field it.payload 6 2 = 0 →
    it.payload.length = top → (es.all fun e => rowNamed h e.2.1) = true →
    mergeAll it.off (es.map fun e => ((if bit e.2.1 63 then 2 * (e.2.1 % 2 ^ 63) + 1 else 2 * e.2.1),
      (List.range e.2.2).map (fun i => roundP 30 (fmtDecode 9 (field it.payload (e.1 + 8 + 4 * i) 4))), false)) s = some u →
    serveRowGrad it s = some (endItem it sOK 0 [] u) := by
  intro h es top htag hregions hflags hlen hnamed hmerge
  unfold serveRowGrad
  extract_lets slot st cnt x c entry es₁ top₁ okRow cs
  have hes : es₁ = es := rowGrad_go_eq_rowEntries it.payload h (field it.payload 4 2) 8
  clear_value es₁
  subst hes
  have htaken : slot.taken = true := taken_of_stepTag htag
  have hchecked : ¬ c ≠ sOK := not_not_intro ((if_pos htaken).trans hregions)
  have hrecord : ¬ (it.payload.length ≠ top₁ ∨ field it.payload 6 2 ≠ 0 ∨ (!es.all okRow) = true) := by
    have htop : it.payload.length = top₁ := hlen
    have hall : es.all okRow = true := hnamed
    simp [htop, hflags, hall]
  have hmerged : mergeAll it.off cs s = some u := hmerge
  rw [if_neg hchecked, htag]
  dsimp -zeta only
  rw [if_neg hrecord, hmerged]

/-- OPEN of a sound table without a slot takes one. -/
theorem serveStepOpen_of_sound {it : Item} {s : State} :
    let h := tablesOf (it.descs.getD 0 []) (it.descs.getD 1 [])
    2 ≤ it.descs.length → h.ok = true → h.t.scaled = false → field it.payload 4 2 ≠ 0 →
    regionsCheck s it (h.regions (globalOf s it.off) false true) = sOK →
    (hstep s it.off).taken = false → s.eng.steps.length < 64 →
    serveStepOpen it s = some (endItem it sOK (field it.payload 0 4) [] (setHstep it.off (fun _ =>
      { taken := true, part := it.part, step := field it.payload 0 4, n := field it.payload 4 2, desc := h.d, pdesc := h.pd }) s)) := by
  intro h hlen hok hscaled hn hregions htaken hroom
  have hsound : ¬ (!h.ok || h.t.scaled || decide (field it.payload 4 2 = 0)) = true := by simp [hok, hscaled, hn]
  unfold serveStepOpen
  rw [readTables_of_read (by omega)]
  extract_lets stop c st
  have hchecked : ¬ c ≠ sOK := not_not_intro hregions
  dsimp -zeta only
  rw [if_neg hsound, if_neg hchecked, if_neg (Bool.eq_false_iff.mp htaken), if_neg (Nat.not_le.mpr hroom)]

/-- The checks of DONE, ABANDON and END pass where the step's slot is taken, no close is under way, and the regions that the record's PARAM needs are the partition's. -/
def stepRecordOpen (it : Item) (s : State) : Bool :=
  let h := hstep s it.off
  h.taken && h.closing.isNone && (decide (it.param = 3) || decide (stepTag s it.off (field it.payload 0 4) = none))
  && decide (regionsCheck s it (h.tables.regions (globalOf s it.off) (it.param = 1 && decide (h.n ≤ h.done + 1)) true) = sOK)

/-- What DONE, ABANDON or END does to an open step. -/
theorem serveStepOther_of_stepRecordOpen {it : Item} {s : State} (hopen : stepRecordOpen it s = true) :
    serveStepOther it s = match it.param with
      | 1 => if (hstep s it.off).done + 1 < (hstep s it.off).n then
          some (endItem it sOK ((hstep s it.off).done + 1) [] (setHstep it.off (fun h => { h with done := h.done + 1 }) s))
        else some (engInterim it (setHstep it.off (fun h => { h with done := h.done + 1, closing := some it.id }) s))
      | 2 => some (endItem it sOK 0 [] (nextStep it.off (bump (aHS 7) s)))
      | _ => some (endItem it sOK 0 [] ((bump (aHS 7) s).onEng fun e => { e with steps := kput {} e.steps it.off {} })) := by
  simp only [stepRecordOpen, Bool.and_eq_true, Bool.or_eq_true, Option.isNone_iff_eq_none, decide_eq_true_eq] at hopen
  obtain ⟨⟨⟨htaken, hclosing⟩, htag⟩, hregions⟩ := hopen
  unfold serveStepOther
  extract_lets h tag closes c
  have hnotClosing : ¬ h.closing = some it.id := by simp [h, hclosing]
  have hchecked : ¬ c ≠ sOK := not_not_intro ((if_pos htaken).trans hregions)
  have hpass : tag = none := by
    by_cases hparam : it.param = 3
    · simp [tag, h, hparam, htaken, hclosing]
    · simpa [tag, hparam] using htag
  rw [if_neg hnotClosing, if_neg hchecked, hpass] <;> rfl

/-! ### The obligations -/

/-- Settles O37. -/
theorem hoistDataComplete : Obligations.HoistDataComplete := by
  unfold Obligations.HoistDataComplete
  refine ⟨?lookup, ?grad, ?rowgrad⟩
  case lookup =>
    intro c s n x it t l tb hcomes hready
    rw [exec_hsLookup, execHsLookup]
    refine request_hoist c (by omega) hcomes ?_
    simp only [serveHoist, op_of_comes hcomes]
    exact serveLookup_of_lookupReady hready
  case grad =>
    intro c s n u x it t l h a b cs inv hcomes hready hmerge
    have hserve := serveGrad_of_gradReady (it := it) (s := t) (u := u)
    extract_lets at hserve
    rw [exec_hsGrad, execHsGrad]
    refine request_hoist c (by omega) hcomes ?_
    simp only [serveHoist, op_of_comes hcomes]
    exact hserve hready hmerge
  case rowgrad =>
    intro c s n u x it t h es top hcomes htag hregions hflags hlen hnamed hmerge
    have hserve := serveRowGrad_of_named (it := it) (s := t) (u := u)
    extract_lets at hserve
    rw [exec_hsRowgrad, execHsRowgrad]
    refine request_hoist c (by omega) hcomes ?_
    simp only [serveHoist, op_of_comes hcomes]
    exact hserve htag hregions hflags hlen hnamed hmerge

/-- An HS_STEP record runs under the row of its PARAM. -/
theorem hsStep_of_param {p : Nat} {c : TxnReq} (h : c.param.toNat = p) (s : State) : hsStep p c s = request 0x67 c {} s :=
  if_pos (.inl h)

/-- An HS_STEP record other than OPEN, whose checks pass, does what its PARAM gives. -/
theorem hsStep_onward {p : Nat} {c : TxnReq} {s u : State} {n : Nat} (hparam : c.param.toNat = p) (hp : p ≠ 0)
    (hcomes : comes 0x67 c {} s n = true)
    (hserve : serveStepOther (atTurn 0x67 c {} s n).1 (atTurn 0x67 c {} s n).2 = some u) :
    (Host.Outcome.next (hsStep p c s) : Host.Outcome State Fault Refusal) = onward 0x67 c {} s n u := by
  have hother : ¬ (atTurn 0x67 c {} s n).1.param = 0 := by
    rw [param_of_comes hcomes, hparam]
    exact hp
  rw [hsStep_of_param hparam]
  refine request_hoist c (by omega) hcomes ?_
  simp only [serveHoist, op_of_comes hcomes]
  exact (if_neg hother).trans hserve

/-- Settles O38. -/
theorem hoistStepsComplete : Obligations.HoistStepsComplete := by
  unfold Obligations.HoistStepsComplete
  refine ⟨?opening, ?counted, ?closing, ?abandoned, ?ended, fun tab it s hitem => ?close, fun h s hservice hslot hen htime => ?hot⟩
  case opening =>
    intro c s n x it t h hparam hcomes hlen hok hscaled hn hregions htaken hroom
    have hserve := serveStepOpen_of_sound (it := it) (s := t)
    extract_lets at hserve
    have hzero : it.param = 0 := (param_of_comes hcomes).trans hparam
    rw [exec_hsStepOpen, execHsStepOpen, hsStep_of_param hparam]
    refine request_hoist c (by omega) hcomes ?_
    simp only [serveHoist, op_of_comes hcomes]
    exact (if_pos hzero).trans (hserve hlen hok hscaled hn hregions htaken hroom)
  case counted =>
    intro c s n x it t h hparam hcomes hclosing htag hregions hmore
    have hone : it.param = 1 := (param_of_comes hcomes).trans hparam
    have hopen : stepRecordOpen it t = true := by
      have htaken := taken_of_stepTag htag
      have hless : ¬ h.n ≤ h.done + 1 := Nat.not_le.mpr hmore
      simp only [h] at hclosing hregions hless
      simp [stepRecordOpen, htaken, hclosing, htag, hless, hregions]
    rw [exec_hsStepDone, execHsStepDone]
    refine hsStep_onward hparam (by decide) hcomes ?_
    refine (serveStepOther_of_stepRecordOpen hopen).trans ?_
    rw [hone]
    exact if_pos hmore
  case closing =>
    intro c s n x it t h hparam hcomes hclosing htag hregions hlast
    have hone : it.param = 1 := (param_of_comes hcomes).trans hparam
    have hopen : stepRecordOpen it t = true := by
      have htaken := taken_of_stepTag htag
      simp only [h] at hclosing hregions hlast
      simp [stepRecordOpen, htaken, hclosing, htag, hlast, hregions, hone]
    rw [exec_hsStepDone, execHsStepDone]
    refine hsStep_onward hparam (by decide) hcomes ?_
    refine (serveStepOther_of_stepRecordOpen hopen).trans ?_
    rw [hone]
    exact if_neg (Nat.not_lt.mpr hlast)
  case abandoned =>
    intro c s n x it t h hparam hcomes hclosing htag hregions
    have htwo : it.param = 2 := (param_of_comes hcomes).trans hparam
    have hopen : stepRecordOpen it t = true := by
      have htaken := taken_of_stepTag htag
      simp only [h] at hclosing hregions
      simp [stepRecordOpen, htaken, hclosing, htag, hregions, htwo]
    rw [exec_hsStepAbandon, execHsStepAbandon]
    refine hsStep_onward hparam (by decide) hcomes ?_
    refine (serveStepOther_of_stepRecordOpen hopen).trans ?_
    simp only [htwo]
  case ended =>
    intro c s n x it t h hparam hcomes htaken hclosing hregions
    have hthree : it.param = 3 := (param_of_comes hcomes).trans hparam
    have hopen : stepRecordOpen it t = true := by
      simp only [h] at htaken hclosing hregions
      simp [stepRecordOpen, htaken, hclosing, hregions, hthree]
    rw [exec_hsStepEnd, execHsStepEnd]
    refine hsStep_onward hparam (by decide) hcomes ?_
    refine (serveStepOther_of_stepRecordOpen hopen).trans ?_
    simp only [hthree]
  case close => simp [execHsStepCloseDone, hitem]
  case hot => simp only [exec_hotRefresh, execHotRefresh, hservice, hslot, hen, htime, decide_true, Bool.and_self, if_true]

end Sys2Proof.Machine

/-! PROOF. The Bolter: searches, inserts, deletes and merges taken up by their index (chapter 12). -/

namespace Sys2Proof.Machine

/-! ### The way of an invocation to the Bolter -/

/-- A Bolter invocation that has come to its engine is served there. -/
theorem tryItem_bolter {op : Nat} (c : TxnReq) {s : State} {n : Nat} (hop : 0x68 ≤ op ∧ op ≤ 0x6B) (h : comes op c {} s n = true) :
    tryItem (atTurn op c {} s n).2 (atTurn op c {} s n).1 = serveBolter (atTurn op c {} s n).1 (atTurn op c {} s n).2 := by
  obtain ⟨-, -, -, -, -, hitop, hsrc, -, hfree⟩ := comes_iff op c {} s n h
  have hquern : ¬ within (atTurn op c {} s n).1.op 0x60 0x63 = true := Bool.eq_false_iff.mp (decide_eq_false (by omega))
  have hhoist : ¬ within (atTurn op c {} s n).1.op 0x64 0x67 = true := Bool.eq_false_iff.mp (decide_eq_false (by omega))
  rw [tryItem_engine _ _ _ hfree (by omega) hsrc, if_neg hquern, if_neg hhoist]

theorem request_bolter {op : Nat} (c : TxnReq) {s u : State} {n : Nat} (hop : 0x68 ≤ op ∧ op ≤ 0x6B) (h : comes op c {} s n = true)
    (hserve : serveBolter (atTurn op c {} s n).1 (atTurn op c {} s n).2 = some u) :
    (Host.Outcome.next (request op c {} s) : Host.Outcome State Fault Refusal) = onward op c {} s n u :=
  request_onward op c {} s u n h ((tryItem_bolter c hop h).trans hserve)

/-! ### The index of an invocation that has been taken up -/

/-- An invocation taken up on a ready index goes on with its descriptor. -/
theorem withIndex_of_indexReady {it : Item} {addr : Nat} {s : State} (w : Bool) (extra : IDesc → List (Nat × Nat × Bool))
    (k : IDesc → Option State) (h : indexReady it addr s = true) :
    withIndex it addr w extra s k = k (idesc (readBytes s (addr % 2 ^ 50) 128)) := by
  simp only [indexReady, Bool.and_eq_true, Bool.not_eq_true', decide_eq_true_eq] at h
  obtain ⟨⟨⟨⟨hsearch, hready⟩, hclean⟩, haligned⟩, hrules⟩ := h
  have hdesc : ¬ (decide (addr % 64 ≠ 0) || !idescOk (readBytes s (addr % 2 ^ 50) 128)) = true := by
    rw [hrules, haligned]
    decide
  have hentered : ∀ c : Nat, ¬ (if it.search.isSome = true then sOK else c) ≠ sOK := fun c => not_not_intro (if_pos hsearch)
  unfold withIndex
  extract_lets c₀ off d i
  rw [if_neg (hentered _), eq_ready_of_isReady hready]
  dsimp -zeta only
  rw [if_neg (Bool.eq_false_iff.mp hclean), if_neg hdesc]
  exact if_neg (hentered _)

theorem search_of_indexReady {it : Item} {addr : Nat} {s : State} (h : indexReady it addr s = true) :
    it.search = some (it.search.getD {}) := by
  simp only [indexReady, Bool.and_eq_true] at h
  obtain ⟨⟨⟨⟨hsearch, -⟩, -⟩, -⟩, -⟩ := h
  obtain ⟨st, hst⟩ := Option.isSome_iff_exists.mp hsearch
  rw [hst, Option.getD_some]

theorem not_search_isNone_of_indexReady {it : Item} {addr : Nat} {s : State} (h : indexReady it addr s = true) :
    ¬ it.search.isNone = true := by
  rw [search_of_indexReady h]
  exact Bool.false_ne_true

/-! ### Searches (R329-R337) -/

/-- A search whose query and lines are ready writes its results. -/
theorem runSearchItem_of_ready {it : Item} {q : QDesc} {i : IDesc} {st : SearchSt} {s : State} {nq : List FV} :
    let ql := linesOf (q.qvec % 2 ^ 50) (4 * i.dim)
    let raw := (List.range i.dim).map fun k => fmtDecode 9 (readNat s (q.qvec % 2 ^ 50 + 4 * k) 4)
    let f := if q.exh then runExhaustive s i q raw st else runSearch s i q raw nq st
    let u := (engAccess (holdFor it) f.lines.dedup (engAccess (readFor it) ql s).2).2
    let data := f.res.flatMap fun r => leBytes 4 r.1 ++ leBytes 4 r.2
    let p := if data.isEmpty then (0, [], u) else engPut it.part (engWrite it 0x12) [(q.out % 2 ^ 50, data)] u
    let short := decide (f.res.length < q.k)
    isReady (engReady (readFor it) ql [] s) = true → ql.any (lineBad s) = false → normalize i.metric raw = some nq →
    isReady (engReady (holdWrite it 0x12) f.lines.dedup (linesOf (q.out % 2 ^ 50) (8 * f.res.length)) s) = true → p.1 = 0 →
    runSearchItem it q i st s = some (endWrite it p.2.1 (if f.poison then sPOISONED else if short then sSHORT else sOK)
      (st.stamp * 2 ^ 32 + b2n f.cut * 2 ^ 31 + min 1048575 f.expansions * 2 ^ 11 + f.res.length) []
      (searchStats f q.exh (short && !f.poison) p.2.2)) := by
  intro ql raw f u data p short hquery hclean hnorm hlines hput
  have hputs : p = (0, p.2.1, p.2.2) := eq_mk_mk_of_fst_eq hput
  unfold runSearchItem
  extract_lets
  rw [eq_ready_of_isReady hquery]
  dsimp -zeta only
  rw [if_neg (Bool.eq_false_iff.mp hclean), hnorm]
  dsimp -zeta only
  extract_lets outs data₁ v
  rw [show engReady (holdWrite it 0x12) f.lines.dedup outs s = .ready from eq_ready_of_isReady hlines]
  dsimp -zeta only
  rw [if_neg (not_not_intro hput)]

/-- A search whose descriptor has been read runs on its index, once that has taken it up. -/
theorem serveSearch_of_indexReady {it : Item} {s : State} (hdescs : it.descs ≠ []) (hrules : qdescOk' (it.descs.headD []) = true)
    (hindex : indexReady it (qdesc (it.descs.headD [])).index s = true) :
    serveSearch it s = runSearchItem it (qdesc (it.descs.headD []))
      (idesc (readBytes s ((qdesc (it.descs.headD [])).index % 2 ^ 50) 128)) (it.search.getD {}) s := by
  have hbytes : ¬ (!qdescOk' (it.descs.headD [])) = true := by
    rw [hrules]
    decide
  unfold serveSearch
  split
  next hnil => exact absurd hnil hdescs
  next d rest hcons =>
    obtain rfl : it.descs.headD [] = d := by rw [hcons]; rfl
    extract_lets q
    rw [if_neg hbytes, withIndex_of_indexReady _ _ _ hindex]
    rw [search_of_indexReady hindex]
    rfl

/-! ### Inserts and deletes (R339-R341) -/

/-- An insert whose lines are ready writes its vectors, one after the other. -/
theorem serveInsert_of_ready {it : Item} {s : State} {i : IDesc} (hi : idesc (readBytes s (globalOf s it.off % 2 ^ 50) 128) = i) :
    let vecs := field it.payload 0 8
    let attrs := field it.payload 8 8
    let cnt := field it.payload 16 2
    let book := (linesOf (i.book % 2 ^ 50) (i.dim * 1024)).dedup
    let vs : List NewVec := (List.range cnt).map fun k =>
      { slot := i.nodes + k, seq := (i.next + k) % 2 ^ 32, src := vecs % 2 ^ 50 + k * i.stride,
        attrAt := if attrs = 0 then 0 else attrs % 2 ^ 50 + 4 * k }
    let wr := vs.flatMap fun v => nodeLines i v.slot ++ [i.sideAt v.seq / 64]
    let a := engAccess (readFor it) book s
    let r := vs.foldl (fun (r : Option Nat × State) v =>
      let p := insertOne it i (!a.1.isEmpty) v r.2
      (r.1 <|> p.1, p.2)) (none, a.2)
    indexReady it (globalOf s it.off) s = true →
    isReady (engReady (engWrite it 0x12) book ((it.off + 64) / 64 :: wr).dedup s) = true →
    (∀ v ∈ vs, ∀ o, newReady it i v s ≠ .wait o) →
    serveInsert it s = some (endWrite it [] (r.1.getD sOK)
      (if r.1.isSome then 0 else i.nodes * 2 ^ 32 + i.next) [] (bumpBy (aBL 6) cnt r.2)) := by
  intro vecs attrs cnt book vs wr a r hindex hready hnew
  unfold serveInsert
  extract_lets addr
  rw [withIndex_of_indexReady _ _ _ hindex, hi]
  extract_lets book₁
  rw [if_neg (not_search_isNone_of_indexReady hindex)]
  rw [show engReady (engWrite it 0x12) book₁.dedup ((it.off + 64) / 64 :: wr).dedup s = .ready from eq_ready_of_isReady hready]
  dsimp -zeta only
  rw [(List.findSome?_eq_none_iff (l := vs)).mpr ?_]
  intro v hv
  split
  next o h => exact absurd h (hnew v hv o)
  next => rfl

/-- A delete whose lines are ready marks its slots, one after the other, and moves the descriptor on. -/
theorem serveDelete_of_ready {it : Item} {s : State} {i : IDesc} (hi : idesc (readBytes s (globalOf s it.off % 2 ^ 50) 128) = i) :
    let cnt := field it.payload 0 2
    let slots := (List.range cnt).map fun k => field it.payload (8 + 4 * k) 4
    let ls := (slots.flatMap (nodeLines i)).dedup
    let a := engAccess (readFor it) ls s
    let wr := (List.range cnt).map fun k => i.sideAt (i.next + k) / 64
    let d := slots.zipIdx.foldl (deleteOne it i a.1) (0, 0, a.2)
    let nx := (i.next + cnt) % 2 ^ 32
    let p := engPut it.part (engWrite it 0x12) [(it.off + 64, line1 { i with next := nx, vis := nx })] d.2.2
    let st := if d.1 ≠ 0 then d.1 else if p.1 ≠ 0 then p.1 else if a.1.isEmpty then sOK else sPOISONED
    indexReady it (globalOf s it.off) s = true → (slots.any fun m => decide (i.nodes ≤ m)) = false →
    isReady (engReady (engWrite it 0x12) ls ((it.off + 64) / 64 :: ls ++ wr).dedup s) = true →
    serveDelete it s = some (endWrite it p.2.1 st (if st = sOK then i.next else 0) [] (bumpBy (aBL 7) d.2.1 p.2.2)) := by
  intro cnt slots ls a wr d nx p st hindex hslots hready
  unfold serveDelete
  extract_lets
  rw [withIndex_of_indexReady _ _ _ hindex, hi]
  extract_lets
  rw [if_neg (Bool.eq_false_iff.mp hslots), if_neg (not_search_isNone_of_indexReady hindex)]
  rw [eq_ready_of_isReady hready]
  dsimp -zeta only
  rfl

/-! ### Merges (R342, R343) -/

/-- A merge that ends, ends with what it merged. -/
theorem serveMerge_of_ended {it : Item} {s : State} :
    let r := mergeGo (field it.payload 0 4 - it.value) it.value it s
    indexReady it (globalOf s it.off) s = true → ∀ st, r.2.1 = some st → serveMerge it s = some (endWrite it [] st r.1 [] r.2.2) := by
  intro r hindex st hst
  unfold serveMerge
  extract_lets mx also
  rw [withIndex_of_indexReady _ _ _ hindex]
  dsimp -zeta only
  rw [if_neg (not_search_isNone_of_indexReady hindex)]
  rw [show (mergeGo (mx - it.value) it.value it s).2.1 = some st from hst]

/-! ### The obligation -/

/-- Settles O39. -/
theorem bolterCommandsComplete : Obligations.BolterCommandsComplete := by
  unfold Obligations.BolterCommandsComplete
  refine ⟨?search, ?insert, ?merge, ?delete, fun n g it s hfind hhalf => ?timeCut, fun i it s hfind hhalf => ?mergeCut⟩
  case search =>
    intro c s n nq x it t q i st ql raw f u data p short hcomes hdescs hrules hindex hquery hclean hnorm hlines hput
    have hrun := runSearchItem_of_ready (it := it) (q := q) (i := i) (st := st) (s := t) (nq := nq)
    extract_lets at hrun
    rw [exec_blSearch, execBlSearch]
    refine request_bolter c (by omega) hcomes ?_
    simp only [serveBolter, op_of_comes hcomes]
    exact (serveSearch_of_indexReady hdescs hrules hindex).trans (hrun hquery hclean hnorm hlines hput)
  case insert =>
    intro c s n x it t i vecs attrs cnt book vs wr a r hcomes hindex hready hnew
    have hserve := serveInsert_of_ready (it := it) (s := t) (i := i) rfl
    extract_lets at hserve
    have hnone : ∀ v ∈ vs, ∀ o, newReady it i v t ≠ .wait o := by
      intro v hv o ho
      have hv' := List.all_eq_true.mp hnew v hv
      simp [ho] at hv'
    rw [exec_blInsert, execBlInsert]
    refine request_bolter c (by omega) hcomes ?_
    simp only [serveBolter, op_of_comes hcomes]
    exact hserve hindex hready hnone
  case merge =>
    intro c s n x it t r hcomes hindex st hst
    rw [exec_blMerge, execBlMerge]
    refine request_bolter c (by omega) hcomes ?_
    simp only [serveBolter, op_of_comes hcomes]
    exact serveMerge_of_ended hindex st hst
  case delete =>
    intro c s n x it t i cnt slots ls a wr d nx p st hcomes hindex hslots hready
    have hserve := serveDelete_of_ready (it := it) (s := t) (i := i) rfl
    extract_lets at hserve
    rw [exec_blDelete, execBlDelete]
    refine request_bolter c (by omega) hcomes ?_
    simp only [serveBolter, op_of_comes hcomes]
    exact hserve hindex hslots hready
  case timeCut =>
    rw [exec_blTimeCut, execBlTimeCut, hfind]
    exact congrArg Host.Outcome.next (if_pos hhalf)
  case mergeCut =>
    rw [exec_blMergeTimeLimit, execBlMergeTimeLimit, hfind]
    exact congrArg Host.Outcome.next (if_pos hhalf)

end Sys2Proof.Machine

/-! PROOF. Logs, images and the firmware floor (chapters 13 and 14). -/

namespace Sys2Proof.Machine

/-! ### Image slots -/

/-- The slot that the verification of some bytes leaves: valid or not. -/
def verdict (s : State) (bs : List Byte) : ImgSlot :=
  { istate := if imageOk s { istate := 1, bytes := bs } then 2 else 3, bytes := bs }

/-- A verified slot holds the bytes it was given, and is valid or not. -/
theorem imgSlot_verified (k : Nat) (bs : List Byte) (s : State) :
    imgSlot (verified k bs s) k = verdict s bs := by
  refine kget_kmod_same ({} : ImgSlot) s.nor.images k (fun _ => verdict s bs) fun hdefault => ?_
  have hstate : (verdict s bs).istate = 0 := congrArg ImgSlot.istate hdefault
  unfold verdict at hstate
  split at hstate <;> cases hstate

/-- Settles O41. -/
theorem logAndImageEventsComplete : Obligations.LogAndImageEventsComplete := by
  unfold Obligations.LogAndImageEventsComplete
  refine ⟨fun f s hlive hidle => ?idle, ?erase, fun k s hstate hsrc => ?verify, ?stage, ?floor⟩
  case idle =>
    rw [exec_fsIdleExpiry, execFsIdleExpiry, hlive, hidle]
    rfl
  case erase =>
    intro s n base herasing hnone
    have hcount : (n.audit.filter fun e => decide (e.idx < base ∧ n.auditAcked ≤ e.idx)).length = 0 := by rw [hnone]; rfl
    have hgo : ¬ (!n.auditErasing) = true := by simp [herasing]
    rw [exec_auditEraseDone, execAuditEraseDone]
    refine congrArg Host.Outcome.next ((if_neg hgo).trans ?_)
    simp only
    rw [hcount]
    rfl
  case verify =>
    refine ⟨verified k (imgSlot s k).bytes s, ?_, imgSlot_verified k _ s⟩
    rw [exec_imgVerifyDone, execImgVerifyDone]
    refine congrArg Host.Outcome.next ((if_neg (not_not_intro hstate)).trans ?_)
    rw [hsrc]
  case stage =>
    intro k off n s ls u a hstate hsrc hstagable hready
    have hopen : ¬ (!stagable s (globalOf s off) n) = true := by simp [hstagable]
    rw [exec_imgVerifyDone, execImgVerifyDone]
    refine congrArg Host.Outcome.next ((if_neg (not_not_intro hstate)).trans ?_)
    rw [hsrc]
    extract_lets t3
    refine (if_neg hopen).trans ?_
    rw [eq_ready_of_isReady hready]
  case floor =>
    intro k s f hrun hservice hnovva hless
    have hgo : (inService s && decide (s.sec.nvState = .ready) && decide (s.nor.floorSteps < f)) = true := by
      simp [hservice, hnovva, hless]
    refine ⟨s.onNor fun n => { n with floorSteps := f }, ?_, rfl, rfl, rfl⟩
    rw [exec_fwFloorBlow, execFwFloorBlow, hrun]
    exact congrArg Host.Outcome.next (if_pos hgo)

end Sys2Proof.Machine

/-! PROOF. The Governor's windows, parity errors, patrols and injections, and the arbiter (chapters 15 and 16). -/

namespace Sys2Proof.Machine

/-! ### Windows (R436, R443) -/

/-- The Governor closes a window of a kind that is counted against the unit, where some half decides. -/
theorem not_windowIdle {k : EvKind} {unit : Nat} {s : State} (hup : s.gov.state ≠ 0) (hpair : evPairs k (unit / 65536) = true)
    (hunit : unit % 65536 < unitCount (unit / 65536)) (hdecides : nobodyDecides s = false) :
    ¬ (decide (s.gov.state = 0) || !evPairs k (unit / 65536) || decide (unitCount (unit / 65536) ≤ unit % 65536)
      || nobodyDecides s) = true := by
  simp [hup, hpair, hdecides, Nat.not_le.mpr hunit]

/-! ### Parity (R423, R424) -/

/-- Where no injection is armed, a word fails as often as it does. -/
theorem armedFailures_of_unarmed {kind unit f₁ f₂ : Nat} {s : State} (n : Nat) (h : takeArmed kind unit [f₁, f₂] s = (none, s)) :
    armedFailures kind unit f₁ f₂ n s = (n, false, s) := by
  rw [armedFailures, h]

/-- A parity error of a Leat that replays end, or do not, where no injection is armed (R423). -/
theorem leatParityError_of_unarmed {e : LeatError} {s : State} (hkind : e.kind = kBay ∨ e.kind = kDevice)
    (hhere : unitHere s e.kind e.unit = true) (hunarmed : takeArmed e.kind e.unit [1, 2] s = (none, s)) (hfails : 1 ≤ e.failures) :
    exec (.leatParityError e) s = .next (if e.failures ≤ 3 then countEvent .leatReplay e.kind e.unit 0 false s
      else
        let s2 := countEvent .leatFailure e.kind e.unit 0 false s
        match e.line, e.stream, e.req with
        | some l, _, _ => poisonLine l (some (e.kind, e.unit)) false s2
        | none, some sid, _ => streamFault sid s2
        | none, none, some (n, t) => itemFault n t s2
        | none, none, none => s2) := by
  have hgo : ¬ (!(decide (e.kind = kBay) || decide (e.kind = kDevice)) || !unitHere s e.kind e.unit) = true := by
    have hcounted : (decide (e.kind = kBay) || decide (e.kind = kDevice)) = true := by simpa using hkind
    rw [hcounted, hhere]
    decide
  have hsome : ¬ e.failures = 0 := by omega
  rw [exec_leatParityError, execLeatParityError]
  refine congrArg Host.Outcome.next ((if_neg hgo).trans ?_)
  rw [armedFailures_of_unarmed _ hunarmed]
  exact if_neg hsome

/-- A parity error of an array, reread or not, where no injection is armed (R424). -/
theorem sramParityError_of_unarmed {e : SramError} {s : State} (hhere : unitHere s e.kind e.unit = true)
    (hunarmed : takeArmed e.kind e.unit [3, 4] s = (none, s)) (hfails : 1 ≤ e.failures) :
    exec (.sramParityError e) s = .next (if e.failures ≤ 3 then countEvent .sramReread e.kind e.unit 0 false s
      else setUnitH (unitKey e.kind e.unit) (fun u => { u with needSpare := kput false u.needSpare (arrayIdx e.array) true })
        (sramOutcome e false (countEvent .sramFailure e.kind e.unit 0 false s))) := by
  have hgo : ¬ (!unitHere s e.kind e.unit) = true := by simp [hhere]
  have hsome : ¬ e.failures = 0 := by omega
  rw [exec_sramParityError, execSramParityError]
  refine congrArg Host.Outcome.next ((if_neg hgo).trans ?_)
  rw [armedFailures_of_unarmed _ hunarmed]
  exact if_neg hsome

/-- Settles O43. -/
theorem governorCommandsComplete : Obligations.GovernorCommandsComplete := by
  unfold Obligations.GovernorCommandsComplete
  refine ⟨?judged, ?unjudged, ?slowBay, fun b r s hdue hboundary => ?mapOut, fun e s hkind hhere hunarmed hone hthree => ?replay,
    fun e l s hkind hhere hunarmed hfour hline => ?leatFailure, fun e s hhere hunarmed hone hthree => ?reread,
    fun e s hhere hunarmed hfour => ?sramFailure, ?spare, fun l y s hup hunit hpage hmedium => ?patrol, fun k s hopen htime => ?fold, ?inject⟩
  case judged =>
    intro k unit r s0 s kind u h n suspect t perm hup hpair hunit hdecides hjudged
    rw [exec_govWindowClose, execGovWindowClose]
    exact congrArg Host.Outcome.next ((if_neg (not_windowIdle hup hpair hunit hdecides)).trans (if_neg (Bool.eq_false_iff.mp hjudged)))
  case unjudged =>
    intro k unit r s0 s hup hpair hunit hdecides hjudged
    rw [exec_govWindowClose, execGovWindowClose]
    exact congrArg Host.Outcome.next ((if_neg (not_windowIdle hup hpair hunit hdecides)).trans (if_pos hjudged))
  case slowBay =>
    intro s ms med inj hup hdecides hwindows hcan hthrottle
    have hgo : ¬ (decide (s.gov.state = 0) || nobodyDecides s
        || (baysIn s).any fun b => decide (kget 0 s.pwr.slowWindows b < 100)) = true := by
      simp only [hup, hdecides, hwindows, decide_false, Bool.or_self, Bool.false_eq_true, not_false_iff]
    have hfree : ¬ (!canDecide s || decide (9 ≤ s.pwr.throttle)) = true := by simp [hcan, Nat.not_le.mpr hthrottle]
    rw [exec_slowBayWindow, execSlowBayWindow]
    exact congrArg Host.Outcome.next ((if_neg hgo).trans (if_neg hfree))
  case mapOut =>
    rw [exec_bayMapOut, execBayMapOut, hdue]
    exact congrArg Host.Outcome.next (if_pos hboundary)
  case replay =>
    rw [leatParityError_of_unarmed hkind hhere hunarmed hone, if_pos hthree]
  case leatFailure =>
    rw [leatParityError_of_unarmed hkind hhere hunarmed (by omega), if_neg (by omega), hline]
  case reread =>
    rw [sramParityError_of_unarmed hhere hunarmed hone, if_pos hthree]
  case sramFailure =>
    rw [sramParityError_of_unarmed hhere hunarmed (by omega), if_neg (by omega)]
  case spare =>
    intro e b s key t v hneed hroom
    have hgo : ¬ (!kget false (unitH s key).needSpare (arrayIdx e.array)) = true := by simp [hneed]
    rw [exec_spareRowReplace, execSpareRowReplace]
    exact congrArg Host.Outcome.next ((if_neg hgo).trans (if_pos hroom))
  case patrol =>
    have hgo : ¬ (decide (s.gov.state = 0) || (lineUnit s l).isNone || pageLost s (l / 1024) || !mediumReady s l) = true := by
      simp [hup, hpage, hmedium, Option.isNone_iff_eq_none, Option.isSome_iff_ne_none.mp hunit]
    rw [exec_patrolRead, execPatrolRead]
    exact congrArg Host.Outcome.next (if_neg hgo)
  case fold =>
    rw [exec_eventFoldExpiry, execEventFoldExpiry]
    exact congrArg Host.Outcome.next (if_pos (by rw [hopen, htime]; rfl))
  case inject =>
    intro i s j t hlive hleft htime
    have hgo : ¬ (!j.live) = true := by simp [hlive]
    have hdue : ¬ (!elapsed s j.lastAt (j.periodUs * 1000)) = true := by simp [htime]
    have hmore : ¬ j.left = 0 := by omega
    have hnotLast : ¬ (decide (j.left = 1) && !armsFault j.fault) = true := by simp [show ¬ j.left = 1 by omega]
    rw [exec_fiFaultTick, execFiFaultTick]
    exact congrArg Host.Outcome.next ((if_neg hgo).trans ((if_neg hmore).trans ((if_neg hdue).trans (if_neg hnotLast))))

/-! ### The Fantail arbiter (R419-R421, R441) -/

/-- The token of a half that holds it goes in transfer to the other, where that runs. -/
theorem moveToken_of_halfUp {s : State} {h : Nat} (hholder : holderHalf s = some h) (hfault : s.mach.arbFault = false)
    (hup : halfUp s (1 - h) = true) :
    moveToken s = s.onMach fun m => { m with
      lastHolder := m.holder, toEast := decide (h = 0), believesWest := false, believesEast := false, holder := .transfer } := by
  unfold moveToken
  rw [hholder]
  simp only [hfault, hup, if_true, Bool.false_eq_true, if_false]

/-- Settles O44. -/
theorem arbiterCommandsComplete : Obligations.ArbiterCommandsComplete := by
  unfold Obligations.ArbiterCommandsComplete
  refine ⟨fun s h hholder hfault hup => ?missed, fun s htransfer hfault hup => ?done, fun s hfault hstart => ?fault,
    fun h g s hhalf hbelieves hother hold => ?stale, fun s hstart => ?mismatch⟩
  case missed =>
    rw [exec_tokenHeartbeatMissed, execTokenHeartbeatMissed, moveToken_of_halfUp hholder hfault hup]
    exact ⟨_, rfl, rfl, rfl, rfl, rfl, rfl, rfl⟩
  case done =>
    have hgo : ¬ (decide (s.mach.holder ≠ .transfer) || s.mach.arbFault) = true := by simp [htransfer, hfault]
    have hother : ¬ (!halfUp s (b2n s.mach.toEast)) = true := by simp [hup]
    rw [exec_tokenTransferDone, execTokenTransferDone]
    refine ⟨_, congrArg Host.Outcome.next ((if_neg hgo).trans (if_neg hother)), ?_⟩
    exact ⟨rfl, rfl, rfl, rfl, rfl⟩
  case fault =>
    have hgo : ¬ (s.mach.arbFault || decide (s.pwr.startStep < 2)) = true := by simp [hfault, Nat.not_lt.mpr hstart]
    rw [exec_arbiterFault, execArbiterFault]
    exact congrArg Host.Outcome.next (if_neg hgo)
  case stale =>
    have hgo : ¬ (decide (2 ≤ h) || !(if h = 0 then s.mach.believesWest else s.mach.believesEast) || decide (holderHalf s = some h)
        || decide (s.mach.unitGen ≤ g)) = true := by
      simp only [Nat.not_le.mpr hhalf, hbelieves, hother, Nat.not_le.mpr hold]
      decide
    rw [exec_staleConfigWrite, execStaleConfigWrite]
    exact congrArg Host.Outcome.next (if_neg hgo)
  case mismatch =>
    rw [exec_weirCopyMismatch, execWeirCopyMismatch]
    exact congrArg Host.Outcome.next (if_neg (Nat.not_lt.mpr hstart))

end Sys2Proof.Machine
